-- ==== Sys2Proof/Word.lean ====
section
/-!
DEFINITION. Word.lean: the word types of the manual (R4, R59) and their plainest arithmetic, and the finite tables
in which the state keeps sparse data.
-/
namespace Sys2Proof

abbrev Byte := BitVec 8
/-- A 32-bit register value (R18). -/
abbrev Word := BitVec 32
/-- A 64-bit value: a register pair, a status word, an instruction word (R4, R35). -/
abbrev DWord := BitVec 64
/-- One bit per thread, bit i for TIX i (R24). -/
abbrev Mask := BitVec 32
/-- A 57-bit G address (R15, R27). -/
abbrev GAddr := BitVec 57
/-- A cause code or other N8 (R372). -/
abbrev Code9 := BitVec 9

/-- The pair whose even register is `lo` (R4). -/
def pairOf (lo hi : Word) : DWord := hi ++ lo
def loWord (d : DWord) : Word := d.truncate 32
def hiWord (d : DWord) : Word := (d >>> 32).truncate 32

/-- Bits [hi:lo] of a natural number. -/
def bitsOf (n lo len : Nat) : Nat := (n >>> lo) % 2 ^ len

/-- A sparse table: strictly rising keys. -/
abbrev Table (α : Type) := List (Nat × α)

end Sys2Proof
end

