-- ==== Sys2Proof/Machine/Flags.lean ====
section
/-!
DEFINITION. Flags.lean: the sticky flags of STATUS (R25).
-/
namespace Sys2Proof.Machine

/-- Invalid floating-point operation. -/
def flagINV : Word := 0x01
/-- Division by zero. -/
def flagDZE : Word := 0x02
/-- Floating-point overflow. -/
def flagOFL : Word := 0x04
/-- Floating-point underflow. -/
def flagUFL : Word := 0x08
/-- Inexact result. -/
def flagINX : Word := 0x10
/-- AQ64 carry guards exhausted. -/
def flagOVF : Word := 0x20
/-- An integer or NARROW result saturated. -/
def flagISAT : Word := 0x40

def whenFlag (b : Bool) (f : Word) : Word := if b then f else 0

/-- An exact integer brought into [lo, hi], and whether it had to be (R59). -/
def clampInt (lo hi x : Int) : Int × Bool := if x > hi then (hi, true) else if x < lo then (lo, true) else (x, false)

/-- The bounds of a signed and an unsigned type of `w` bits (R59). -/
def minI (w : Nat) : Int := -(2 ^ (w - 1) : Int)
def maxI (w : Nat) : Int := (2 ^ (w - 1) : Int) - 1
def maxN (w : Nat) : Int := (2 ^ w : Int) - 1

/-- A pattern of `w` bits read as I(w) (R59). -/
def asI (w n : Nat) : Int := if n % 2 ^ w < 2 ^ (w - 1) then ((n % 2 ^ w : Nat) : Int) else ((n % 2 ^ w : Nat) : Int) - (2 ^ w : Int)

/-- The pattern of `w` bits of an integer (R59). -/
def wrapTo (w : Nat) (x : Int) : Nat := (x % (2 ^ w : Int)).toNat

/-- Saturate into I(w) and set ISAT (R59, R81). -/
def satI (w : Nat) (x : Int) : Nat × Word :=
  let (y, b) := clampInt (minI w) (maxI w) x
  (wrapTo w y, whenFlag b flagISAT)

/-- Saturate into N(w) and set ISAT (R59, R81). -/
def satN (w : Nat) (x : Int) : Nat × Word :=
  let (y, b) := clampInt 0 (maxN w) x
  (wrapTo w y, whenFlag b flagISAT)

end Sys2Proof.Machine
end

