-- ==== Sys2Proof/Machine/FpFormat.lean ====
section
/-!
DEFINITION. FpFormat.lean: the number formats (R60-R68), exact values, and rounding into a format (R71-R74).
-/
namespace Sys2Proof.Machine

/-- A floating-point format: exponent and mantissa bits and bias (R60, R62-R64).  `ieee` formats have infinities; `top` is
the code of the largest finite magnitude and `nan` the canonical NaN. -/
structure Fmt where
  eb   : Nat
  mb   : Nat
  bias : Int
  ieee : Bool
  top  : Nat
  nan  : Nat
  deriving DecidableEq, Repr

def fmtF32 : Fmt := { eb := 8, mb := 23, bias := 127, ieee := true, top := 0x7F7FFFFF, nan := 0x7FC00000 }
def fmtF16 : Fmt := { eb := 5, mb := 10, bias := 15, ieee := true, top := 0x7BFF, nan := 0x7E00 }
def fmtBF16 : Fmt := { eb := 8, mb := 7, bias := 127, ieee := true, top := 0x7F7F, nan := 0x7FC0 }
def fmtE5M2 : Fmt := { eb := 5, mb := 2, bias := 15, ieee := true, top := 0x7B, nan := 0x7E }
def fmtE4M3 : Fmt := { eb := 4, mb := 3, bias := 7, ieee := false, top := 0x7E, nan := 0x7F }
/-- E2M1 has no NaN; a NaN converts to 0b0000 (R73). -/
def fmtE2M1 : Fmt := { eb := 2, mb := 1, bias := 1, ieee := false, top := 0x7, nan := 0 }

/-- Bits below the sign. -/
def Fmt.mag (f : Fmt) : Nat := f.eb + f.mb
/-- Exponent of the least significant bit of a subnormal. -/
def Fmt.q0 (f : Fmt) : Int := 1 - f.bias - f.mb

/-- An operand: a NaN, an infinity, a zero, or the finite value (−1)^neg · m · 2^e with m > 0. -/
inductive FpVal where
  | nan (signalling : Bool)
  | inf (neg : Bool)
  | zero (neg : Bool)
  | fin (neg : Bool) (m : Nat) (e : Int)
  deriving DecidableEq, Repr

/-- Decode a code (R60-R64); E2M1 code 0b1000 reads as +0 here (R99). -/
def unpack (f : Fmt) (code : Nat) : FpVal :=
  let neg := code / 2 ^ f.mag % 2 = 1
  let mag := code % 2 ^ f.mag
  let frac := mag % 2 ^ f.mb
  let ex := mag / 2 ^ f.mb
  if f.ieee && ex = 2 ^ f.eb - 1 then
    if frac = 0 then .inf neg else .nan (frac / 2 ^ (f.mb - 1) = 0)
  else if !f.ieee && f.nan ≠ 0 && mag = f.nan then .nan false
  else if mag = 0 then .zero (neg && f.nan ≠ 0)
  else if ex = 0 then .fin neg frac f.q0
  else .fin neg (2 ^ f.mb + frac) (f.q0 + ex - 1)

/-- A zero of a format. -/
def zeroCode (f : Fmt) (neg : Bool) : Nat := if neg && f.nan ≠ 0 then 2 ^ f.mag else 0
/-- Code with a sign; E2M1 has no −0 (R72). -/
def signCode (f : Fmt) (neg : Bool) (mag : Nat) : Nat := if mag = 0 then zeroCode f neg else mag + (if neg then 2 ^ f.mag else 0)

/-- A candidate is rounded up in magnitude under a mode (R71): `r` against `half`, with something below when `sticky`. -/
def roundsUp (mode : Nat) (neg odd : Bool) (r half : Nat) (sticky : Bool) : Bool :=
  match mode with
  | 0 => decide (r > half) || (decide (r = half) && (sticky || odd))
  | 1 => false
  | 2 => neg && (decide (r ≠ 0) || sticky)
  | _ => !neg && (decide (r ≠ 0) || sticky)

/-- Round m · 2^e (m > 0, or a little more when `sticky`) into a format (R72): the code and the flags. -/
def roundFin (f : Fmt) (mode : Nat) (neg : Bool) (m : Nat) (e : Int) (sticky : Bool) : Nat × Word :=
  let lead := e + m.log2
  let q := max (lead - f.mb) f.q0
  let sh := q - e
  let t := if sh ≤ 0 then m * 2 ^ (-sh).toNat else m / 2 ^ sh.toNat
  let r := if sh ≤ 0 then 0 else m % 2 ^ sh.toNat
  let half := if sh ≤ 0 then 1 else 2 ^ (sh.toNat - 1)
  let inexact := r ≠ 0 || sticky
  let base := (q - f.q0).toNat * 2 ^ f.mb
  let up := roundsUp mode neg (t % 2 = 1) (2 * r) (2 * half) sticky
  let code := base + t + (if up then 1 else 0)
  let tiny := inexact && lead < 1 - f.bias
  if f.ieee then
    if code > f.top then
      let inf := mode = 0 || (mode = 2 && neg) || (mode = 3 && !neg)
      (signCode f neg (if inf then f.top + 1 else f.top), flagOFL ||| flagINX)
    else (signCode f neg code, whenFlag inexact flagINX ||| whenFlag tiny flagUFL)
  else if base + t > f.top || (base + t = f.top && inexact) then (signCode f neg f.top, flagISAT ||| flagINX)
  else (signCode f neg code, whenFlag inexact flagINX ||| whenFlag tiny flagUFL)

/-- A NaN result (R61, R73): the canonical NaN, INV for a signalling input and for E2M1. -/
def nanResult (f : Fmt) (signalling : Bool) : Nat × Word := (f.nan, whenFlag (signalling || f.nan = 0) flagINV)

/-- Round or convert a value into a format (R72, R73). -/
def roundVal (f : Fmt) (mode : Nat) : FpVal → Nat × Word
  | .nan sg => nanResult f sg
  | .inf neg => if f.ieee then (signCode f neg (f.top + 1), 0) else (signCode f neg f.top, flagISAT)
  | .zero neg => (zeroCode f neg, 0)
  | .fin neg m e => roundFin f mode neg m e false

/-- Negate. -/
def FpVal.neg : FpVal → FpVal
  | .nan b => .nan b
  | .inf b => .inf !b
  | .zero b => .zero !b
  | .fin b m e => .fin (!b) m e

/-- A signed dyadic number as a value; zero takes the sign `zneg`. -/
def ofDyadic (x : Int) (e : Int) (zneg : Bool) : FpVal :=
  if x = 0 then .zero zneg else .fin (x < 0) x.natAbs e

/-- Integer significand of a finite value at exponent `e0` ≤ its own. -/
def scaled (neg : Bool) (m : Nat) (e e0 : Int) : Int :=
  let k : Int := m * 2 ^ (e - e0).toNat
  if neg then -k else k

/-- The exact sum (R92): a value and INV for ∞ − ∞ and signalling NaNs.  An exact zero sum of opposite signs is −0 only
under RDN. -/
def fpAdd (mode : Nat) (a b : FpVal) : FpVal × Word :=
  match a, b with
  | .nan x, .nan y => (.nan false, whenFlag (x || y) flagINV)
  | .nan x, _ => (.nan false, whenFlag x flagINV)
  | _, .nan y => (.nan false, whenFlag y flagINV)
  | .inf x, .inf y => if x = y then (.inf x, 0) else (.nan false, flagINV)
  | .inf x, _ => (.inf x, 0)
  | _, .inf y => (.inf y, 0)
  | .zero x, .zero y => (.zero (if x = y then x else mode = 2), 0)
  | .zero _, y => (y, 0)
  | x, .zero _ => (x, 0)
  | .fin n1 m1 e1, .fin n2 m2 e2 =>
    let e0 := min e1 e2
    (ofDyadic (scaled n1 m1 e1 e0 + scaled n2 m2 e2 e0) e0 (mode = 2), 0)

/-- The exact product (R92). -/
def fpMul (a b : FpVal) : FpVal × Word :=
  match a, b with
  | .nan x, .nan y => (.nan false, whenFlag (x || y) flagINV)
  | .nan x, _ => (.nan false, whenFlag x flagINV)
  | _, .nan y => (.nan false, whenFlag y flagINV)
  | .inf x, .inf y => (.inf (x ^^ y), 0)
  | .inf x, .fin y _ _ => (.inf (x ^^ y), 0)
  | .fin x _ _, .inf y => (.inf (x ^^ y), 0)
  | .inf _, .zero _ => (.nan false, flagINV)
  | .zero _, .inf _ => (.nan false, flagINV)
  | .zero x, .zero y => (.zero (x ^^ y), 0)
  | .zero x, .fin y _ _ => (.zero (x ^^ y), 0)
  | .fin x _ _, .zero y => (.zero (x ^^ y), 0)
  | .fin n1 m1 e1, .fin n2 m2 e2 => (.fin (n1 ^^ n2) (m1 * m2) (e1 + e2), 0)

/-- Add, subtract, multiply and multiply-add in a format, rounded once (R92, R100). -/
def fmtAdd (f : Fmt) (mode a b : Nat) : Nat × Word :=
  let (x, fl) := fpAdd mode (unpack f a) (unpack f b)
  let (y, fr) := roundVal f mode x
  (y, fl ||| fr)
def fmtSub (f : Fmt) (mode a b : Nat) : Nat × Word :=
  let (x, fl) := fpAdd mode (unpack f a) (unpack f b).neg
  let (y, fr) := roundVal f mode x
  (y, fl ||| fr)
def fmtMul (f : Fmt) (mode a b : Nat) : Nat × Word :=
  let (x, fl) := fpMul (unpack f a) (unpack f b)
  let (y, fr) := roundVal f mode x
  (y, fl ||| fr)
def fmtFma (f : Fmt) (a b c : Nat) : Nat × Word :=
  let (p, f1) := fpMul (unpack f a) (unpack f b)
  let (x, f2) := fpAdd 0 p (unpack f c)
  let (y, fr) := roundVal f 0 x
  (y, f1 ||| f2 ||| fr)

/-- A value rounded to an integer under a mode, and whether it was inexact. -/
def roundInt (mode : Nat) (neg : Bool) (m : Nat) (e : Int) : Int × Bool :=
  let sh := (-e).toNat
  let t := if 0 ≤ e then m * 2 ^ e.toNat else m / 2 ^ sh
  let r := if 0 ≤ e then 0 else m % 2 ^ sh
  let half := 2 ^ sh
  let t' := t + (if roundsUp mode neg (t % 2 = 1) (2 * r) half false then 1 else 0)
  (if neg then -(t' : Int) else t', r ≠ 0)

/-- Conversion to an integer type with bounds (R72, R73). -/
def toIntType (mode : Nat) (lo hi : Int) : FpVal → Int × Word
  | .nan _ => (0, flagINV)
  | .inf neg => (if neg then lo else hi, flagINV ||| flagISAT)
  | .zero _ => (0, 0)
  | .fin neg m e =>
    let (x, inx) := roundInt mode neg m e
    let (y, sat) := clampInt lo hi x
    (y, whenFlag (inx || sat) flagINX ||| whenFlag sat flagISAT)

/-- An integer as a value. -/
def ofInt (x : Int) : FpVal := ofDyadic x 0 false

/-- |a| > the largest finite magnitude of a format. -/
def exceedsTop (f : Fmt) (m : Nat) (e : Int) : Bool :=
  match unpack f f.top with
  | .fin _ mt et => let e0 := min e et; decide (scaled false m e e0 > scaled false mt et e0)
  | _ => false

/-- Error-feedback rounding (R74): element, new companion, flags. -/
def roundEf (f : Fmt) (x e : Nat) : Nat × Nat × Word :=
  let vx := unpack fmtF32 x
  let ve := unpack fmtF32 e
  match vx, ve with
  | .nan a, .nan b => let r := nanResult f (a || b); (r.1, 0, r.2)
  | .nan a, _ => let r := nanResult f a; (r.1, 0, r.2)
  | _, .nan b => let r := nanResult f b; (r.1, 0, r.2)
  | _, _ =>
    match (fpAdd 0 vx ve).1 with
    | .nan _ => let r := nanResult f false; (r.1, 0, r.2 ||| flagINV)
    | .inf n => let r := roundVal f 0 (.inf n); (r.1, 0, r.2)
    | .zero n => let r := roundVal f 0 (.zero n); (r.1, 0, r.2)
    | .fin n m ex =>
      let r := roundVal f 0 (.fin n m ex)
      if exceedsTop f m ex then (r.1, 0, r.2)
      else
        let d := (fpAdd 0 (.fin n m ex) (unpack f r.1).neg).1
        let d := match d with | .zero _ => FpVal.zero false | y => y
        (r.1, (roundVal fmtF32 0 d).1, r.2)

/-- The order of codes of one format with −0 = +0: a signed magnitude. -/
def fpOrd (f : Fmt) (code : Nat) : Int :=
  let mag := code % 2 ^ f.mag
  if code / 2 ^ f.mag % 2 = 1 then -(mag : Int) else mag

/-- The order of codes with −0 < +0 (R93). -/
def fpOrd0 (f : Fmt) (code : Nat) : Int :=
  let mag := code % 2 ^ f.mag
  if code / 2 ^ f.mag % 2 = 1 then -(mag : Int) - 1 else mag

def isNan (f : Fmt) (code : Nat) : Bool := match unpack f code with | .nan _ => true | _ => false
def isSnan (f : Fmt) (code : Nat) : Bool := match unpack f code with | .nan sg => sg | _ => false

/-- Integer square root, bit by bit from 2^n down. -/
def isqrtFrom : Nat → Nat → Nat → Nat
  | 0, _, r => r
  | n + 1, x, r => isqrtFrom n x (if (r + 2 ^ n) * (r + 2 ^ n) ≤ x then r + 2 ^ n else r)
def isqrt (x : Nat) : Nat := isqrtFrom (x.log2 / 2 + 1) x 0

/-- Bits of the fixed-point numbers of EXP2 and LOG2. -/
def fixBits : Nat := 320

/-- Σ z^(2k+1)/(2k+1) over `n` terms, z a fixed-point number: the area tangent. -/
def atanhFrom : Nat → Nat → Nat → Nat → Nat
  | 0, _, _, _ => 0
  | n + 1, zpow, z2, d => zpow / d + atanhFrom n (zpow * z2 / 2 ^ fixBits) z2 (d + 2)
def atanhFix (z : Nat) : Nat := atanhFrom 110 z (z * z / 2 ^ fixBits) 1

/-- ln 2 in fixed point. -/
def ln2Fix : Nat := 2 * atanhFix (2 ^ fixBits / 3)

/-- Σ x^k/k! over `n` more terms from the term `t` of index `k`. -/
def expFrom : Nat → Nat → Nat → Nat → Nat
  | 0, _, _, _ => 0
  | n + 1, t, x, k => t + expFrom n (t * x / 2 ^ fixBits / k) x (k + 1)
/-- e^x for a fixed-point x below 1. -/
def expFix (x : Nat) : Nat := expFrom 80 (2 ^ fixBits) x 1

/-- 2^a of a finite FP32 value (R94). -/
def exp2Fin (mode : Nat) (neg : Bool) (m : Nat) (e : Int) : Nat × Word :=
  let big := e + m.log2 ≥ 9
  if big then
    if neg then roundFin fmtF32 mode false 1 (-300) true else roundFin fmtF32 mode false 1 300 false
  else
    let p : Int := 160
    let fx : Int := (if neg then -1 else 1) * (m * 2 ^ (e + p).toNat : Int)
    let n := fx / 2 ^ p.toNat
    let fr := (fx % 2 ^ p.toNat).toNat
    if fr = 0 then roundFin fmtF32 mode false 1 n false
    else roundFin fmtF32 mode false (expFix (fr * 2 ^ (fixBits - p.toNat) * ln2Fix / 2 ^ fixBits)) (n - fixBits) true

/-- log₂ a of a positive finite FP32 value (R94). -/
def log2Fin (mode : Nat) (m : Nat) (e : Int) : Nat × Word :=
  let k := m.log2
  let ex := e + k
  if m = 2 ^ k then
    let r := roundVal fmtF32 mode (ofInt ex)
    (if ex = 0 then 0 else r.1, r.2)
  else
    let z := (m - 2 ^ k) * 2 ^ fixBits / (m + 2 ^ k)
    let lg := 2 * atanhFix z * 2 ^ fixBits / ln2Fix
    let v : Int := ex * 2 ^ fixBits + lg
    if v < 0 then roundFin fmtF32 mode true (-v).toNat (-(fixBits : Int)) true
    else roundFin fmtF32 mode false v.toNat (-(fixBits : Int)) true

/-- 1/a of a finite FP32 value (R94). -/
def rcpFin (mode : Nat) (neg : Bool) (m : Nat) (e : Int) : Nat × Word :=
  let k := m.log2 + 64
  roundFin fmtF32 mode neg (2 ^ k / m) (-(k : Int) - e) (2 ^ k % m ≠ 0)

/-- A positive value as m · 2^e with e even. -/
def evenExp (m : Nat) (e : Int) : Nat × Int := if e % 2 = 0 then (m, e) else (2 * m, e - 1)

/-- √a of a positive finite FP32 value (R94). -/
def sqrtFin (mode : Nat) (m : Nat) (e : Int) : Nat × Word :=
  let (m, e) := evenExp m e
  let r := isqrt (m * 2 ^ 128)
  roundFin fmtF32 mode false r (e / 2 - 64) (r * r ≠ m * 2 ^ 128)

/-- 1/√a of a positive finite FP32 value (R94). -/
def rsqFin (mode : Nat) (m : Nat) (e : Int) : Nat × Word :=
  let (m, e) := evenExp m e
  let r := isqrt (2 ^ 256 / m)
  roundFin fmtF32 mode false r (-(e / 2) - 128) (r * r * m ≠ 2 ^ 256)

/-- Magnitudes of the special selector in eighths (R67). -/
def specialEighths : List Nat := [64, 96, 128, 192, 2, 3, 1, 0]

/-- A block's header names a zero block (R66). -/
def zeroBlock (hdr : Nat) : Bool := bitsOf hdr 4 4 = 8

/-- The exact value of an element of a block under a header and a tile base (R66-R68); `wide` selects E4M3. -/
def blockVal (e4m3 : Bool) (hdr : Nat) (tbase : Int) (code : Nat) : FpVal :=
  if zeroBlock hdr then .zero false
  else
    let k := tbase + asI 4 (bitsOf hdr 4 4)
    let v :=
      if e4m3 then unpack fmtE4M3 (code % 256)
      else if code % 16 = 8 then
        let neg := bitsOf hdr 3 1 = 1
        let m := specialEighths.getD (bitsOf hdr 0 3) 0
        if m = 0 then .zero neg else .fin neg m (-3)
      else unpack fmtE2M1 (code % 16)
    match v with
    | .fin n m e => .fin n m (e + k)
    | x => x

end Sys2Proof.Machine
end

