-- ==== Sys2Proof/Machine/Cells.lean ====
section
/-!
DEFINITION. Cells.lean: reading and writing the sparse tables of the state.  A table lists its keys strictly rising.
Read through `getD` a table is a total function with a default value, and `setD` keeps it in the one canonical form that
lists no default value; read through `find` it is a partial function that `put` extends and `erase` cuts.
-/
namespace Sys2Proof.Machine

/-- The entry of key `k`, if one is listed. -/
def tfind {α : Type} : Table α → Nat → Option α
  | [], _ => none
  | (j, v) :: rest, k => if j = k then some v else if k < j then none else tfind rest k

/-- The value at `k`, or the default `d` where nothing is listed. -/
def tgetD {α : Type} (d : α) (t : Table α) (k : Nat) : α := (tfind t k).getD d

/-- List `v` at `k`. -/
def tput {α : Type} : Table α → Nat → α → Table α
  | [], k, v => [(k, v)]
  | (j, w) :: rest, k, v =>
    if k < j then (k, v) :: (j, w) :: rest
    else if j = k then (k, v) :: rest
    else (j, w) :: tput rest k v

/-- Drop the entry of `k`. -/
def terase {α : Type} : Table α → Nat → Table α
  | [], _ => []
  | (j, w) :: rest, k => if j = k then rest else if k < j then (j, w) :: rest else (j, w) :: terase rest k

/-- Write `v` at `k` in the canonical form that lists no default value. -/
def tsetD {α : Type} [DecidableEq α] (d : α) (t : Table α) (k : Nat) (v : α) : Table α :=
  if v = d then terase t k else tput t k v

/-- Keys strictly rise, all of them above `b`. -/
def tabove {α : Type} (b : Nat) : Table α → Bool
  | [] => true
  | (j, _) :: rest => decide (b < j) && tabove j rest

/-- Keys strictly rise. -/
def tsorted {α : Type} : Table α → Bool
  | [] => true
  | (j, _) :: rest => tabove j rest

/-- The canonical form of a table read with default `d`. -/
def twf {α : Type} [DecidableEq α] (d : α) (t : Table α) : Bool :=
  tsorted t && t.all fun e => decide (e.2 ≠ d)

/-- Change the entry of `k`, if listed. -/
def tmodify {α : Type} : Table α → Nat → (α → α) → Table α
  | [], _, _ => []
  | (j, w) :: rest, k, f => if j = k then (j, f w) :: rest else (j, w) :: tmodify rest k f

/-- Write the values `vs` at `k`, `k + 1`, …. -/
def tsetRange {α : Type} [DecidableEq α] (d : α) (t : Table α) (k : Nat) : List α → Table α
  | [] => t
  | v :: vs => tsetRange d (tsetD d t k v) (k + 1) vs

/-- The values at `k`, …, `k + n - 1`. -/
def tgetRange {α : Type} (d : α) (t : Table α) (k n : Nat) : List α :=
  (List.range n).map fun i => tgetD d t (k + i)

/-- The natural number whose little-endian bytes are `bs` (R4). -/
def ofBytes : List Byte → Nat
  | [] => 0
  | b :: bs => b.toNat + 256 * ofBytes bs

/-- The `n` little-endian bytes of `v` (R4). -/
def toBytes : Nat → Nat → List Byte
  | 0, _ => []
  | n + 1, v => BitVec.ofNat 8 v :: toBytes n (v / 256)

end Sys2Proof.Machine
end

