-- ==== Sys2Proof/Syntax.lean ====
section
/-!
DEFINITION. Syntax.lean: what a step of the machine is: one constructor for every row of the table of operations and
events.  An instruction carries the fields of its word (R35-R37, R52); a device step carries what singles it out and
what comes from outside the module with it.
-/
namespace Sys2Proof

/-- The fields of an instruction word with its extension and live-mask words (R35, R36, R37, R52).  `ext` and `live`
are 0 where the word has none. -/
structure Fields where
  sp   : Bool
  gap  : BitVec 4
  wm   : BitVec 8
  gp   : BitVec 3
  gn   : Bool
  d    : Code9
  a    : Code9
  b    : Code9
  c    : Code9
  m    : BitVec 3
  ext  : DWord
  live : DWord
  deriving DecidableEq, Repr

/-- A warp: its workgroup and its index WIX (R15). -/
structure WarpRef where
  wg  : Nat
  wix : Nat
  deriving DecidableEq, Repr

/-- Units that hold data of G space (R389). -/
inductive ErrUnit where
  | hbm | homeCache | clusterCache | chl | fabric
  deriving DecidableEq, Repr

/-- Where an uncorrectable error strikes (R389, R392). -/
inductive ErrSite where
  | sector (pa : Nat) (unit : ErrUnit)   -- a 32-byte sector, by any byte address in it, and the unit that holds it
  | slot (core mat g : Nat)              -- a weight slot
  | atticLine (core mat axis line : Nat) -- a logical attic line, as its offset from 0xF00
  | aWord (core addr : Nat)              -- a byte address of the core's A SRAM
  | register (w : WarpRef)               -- a register of a warp
  | cElem (core row col : Nat)           -- an element of C space
  | buffer (cmd : Nat)                   -- the words a command has read and not yet written
  | tree (id : Nat)                      -- the cached nodes of a tree
  deriving DecidableEq, Repr

/-- The items that keep a corrected-error count (R399). -/
inductive ErrItem where
  | slot (core mat g : Nat)
  | atticLine (core mat axis line : Nat) -- a physical line, as its offset from 0xF00
  | aRow (core row : Nat)
  | regGroup (core group : Nat)
  | hbmRow (row : Nat)                   -- by the physical address of its first byte
  deriving DecidableEq, Repr

/-- An access that comes over a link, by physical address (R167, R369). -/
inductive ExtAccess where
  | read (pa n : Nat)
  | write (pa : Nat) (data : List Byte)
  deriving DecidableEq, Repr

/-- What measured boot finds (R414): the firmware hashes and whether each signature check passes. -/
structure BootImage where
  firstHash : BitVec 384
  firmHash  : BitVec 384
  firstOk   : Bool
  firmOk    : Bool
  deriving DecidableEq, Repr

/-- One step of the machine: an instruction (R54) or a device step, one constructor per row of the table. -/
inductive Instr where
  /-- NOP (R302). -/
  | nop (f : Fields)
  /-- BR (R284). -/
  | br (f : Fields)
  /-- BRU (R285). -/
  | bru (f : Fields)
  /-- BRX (R286). -/
  | brx (f : Fields)
  /-- JOIN (R288). -/
  | join (f : Fields)
  /-- CALL (R292). -/
  | call (f : Fields)
  /-- CALLI (R293). -/
  | calli (f : Fields)
  /-- RET (R294). -/
  | ret (f : Fields)
  /-- YIELD (R326). -/
  | yield (f : Fields)
  /-- SLEEP (R303). -/
  | sleep (f : Fields)
  /-- SLEEPT (R303). -/
  | sleept (f : Fields)
  /-- EXIT (R304). -/
  | exit (f : Fields)
  /-- MOV (R88). -/
  | mov (f : Fields)
  /-- MOVI (R88). -/
  | movi (f : Fields)
  /-- ADD (R81). -/
  | add (f : Fields)
  /-- SUB (R81). -/
  | sub (f : Fields)
  /-- MUL (R81). -/
  | mul (f : Fields)
  /-- MULH (R81). -/
  | mulh (f : Fields)
  /-- MAD (R81). -/
  | mad (f : Fields)
  /-- MADW (R81). -/
  | madw (f : Fields)
  /-- AND (R82). -/
  | and (f : Fields)
  /-- OR (R82). -/
  | or (f : Fields)
  /-- XOR (R82). -/
  | xor (f : Fields)
  /-- NOT (R82). -/
  | not (f : Fields)
  /-- SHL (R82). -/
  | shl (f : Fields)
  /-- SHR (R82). -/
  | shr (f : Fields)
  /-- SAR (R82). -/
  | sar (f : Fields)
  /-- ROTL (R82). -/
  | rotl (f : Fields)
  /-- BFE (R83). -/
  | bfe (f : Fields)
  /-- BFI (R83). -/
  | bfi (f : Fields)
  /-- POPC (R84). -/
  | popc (f : Fields)
  /-- CLZ (R84). -/
  | clz (f : Fields)
  /-- BREV (R84). -/
  | brev (f : Fields)
  /-- PERM (R85). -/
  | perm (f : Fields)
  /-- MIN (R86). -/
  | min (f : Fields)
  /-- MAX (R86). -/
  | max (f : Fields)
  /-- ABS (R86). -/
  | abs (f : Fields)
  /-- SEL (R87). -/
  | sel (f : Fields)
  /-- SETP (R87). -/
  | setp (f : Fields)
  /-- LEA (R89). -/
  | lea (f : Fields)
  /-- LEA.PC (R89). -/
  | leaPc (f : Fields)
  /-- FADD (R92). -/
  | fadd (f : Fields)
  /-- FSUB (R92). -/
  | fsub (f : Fields)
  /-- FMUL (R92). -/
  | fmul (f : Fields)
  /-- FMA (R92). -/
  | fma (f : Fields)
  /-- FMIN (R93). -/
  | fmin (f : Fields)
  /-- FMAX (R93). -/
  | fmax (f : Fields)
  /-- RCP (R94). -/
  | rcp (f : Fields)
  /-- RSQ (R94). -/
  | rsq (f : Fields)
  /-- SQRT (R94). -/
  | sqrt (f : Fields)
  /-- EXP2 (R94). -/
  | exp2 (f : Fields)
  /-- LOG2 (R94). -/
  | log2 (f : Fields)
  /-- FSETP (R95). -/
  | fsetp (f : Fields)
  /-- FKEY (R96). -/
  | fkey (f : Fields)
  /-- CVT (R97). -/
  | cvt (f : Fields)
  /-- NARROW (R98). -/
  | narrow (f : Fields)
  /-- WIDEN (R99). -/
  | widen (f : Fields)
  /-- PKADD (R100). -/
  | pkadd (f : Fields)
  /-- PKMUL (R100). -/
  | pkmul (f : Fields)
  /-- PKFMA (R100). -/
  | pkfma (f : Fields)
  /-- LXCH (R256). -/
  | lxch (f : Fields)
  /-- LPOLL (R257). -/
  | lpoll (f : Fields)
  /-- LMASK (R257). -/
  | lmask (f : Fields)
  /-- LFIRST (R257). -/
  | lfirst (f : Fields)
  /-- LPEER (R258). -/
  | lpeer (f : Fields)
  /-- LFOLD (R260). -/
  | lfold (f : Fields)
  /-- LSCAN (R260). -/
  | lscan (f : Fields)
  /-- BARA (R250). -/
  | bara (f : Fields)
  /-- BARW (R250). -/
  | barw (f : Fields)
  /-- BAR (R250). -/
  | bar (f : Fields)
  /-- FENCE (R207). -/
  | fence (f : Fields)
  /-- WAITA (R212). -/
  | waita (f : Fields)
  /-- QWAIT (R215). -/
  | qwait (f : Fields)
  /-- QWAKE.BANK (R215). -/
  | qwakeBank (f : Fields)
  /-- QWAKE.DROP (R215). -/
  | qwakeDrop (f : Fields)
  /-- STARR (R209). -/
  | starr (f : Fields)
  /-- LDA (R194). -/
  | lda (f : Fields)
  /-- STA (R194). -/
  | sta (f : Fields)
  /-- LDG (R194). -/
  | ldg (f : Fields)
  /-- STG (R194). -/
  | stg (f : Fields)
  /-- LDI (R195). -/
  | ldi (f : Fields)
  /-- LDW (R196). -/
  | ldw (f : Fields)
  /-- LDC (R197). -/
  | ldc (f : Fields)
  /-- STC (R197). -/
  | stc (f : Fields)
  /-- LDTF (R199). -/
  | ldtf (f : Fields)
  /-- STTE (R199). -/
  | stte (f : Fields)
  /-- TAGSET.EMPTY (R200). -/
  | tagsetEmpty (f : Fields)
  /-- TAGSET.FULL (R200). -/
  | tagsetFull (f : Fields)
  /-- ATOM (R204). -/
  | atom (f : Fields)
  /-- CAS (R205). -/
  | cas (f : Fields)
  /-- COPY (R227). -/
  | copy (f : Fields)
  /-- COPYV (R238). -/
  | copyv (f : Fields)
  /-- GATHER (R240). -/
  | gather (f : Fields)
  /-- REDCOPY (R241). -/
  | redcopy (f : Fields)
  /-- SUBSCRIBE.ON (R242). -/
  | subscribeOn (f : Fields)
  /-- SUBSCRIBE.OFF (R242). -/
  | subscribeOff (f : Fields)
  /-- PUBLISH (R244). -/
  | publish (f : Fields)
  /-- WAITF (R235). -/
  | waitf (f : Fields)
  /-- TESTF.STAT (R236). -/
  | testfStat (f : Fields)
  /-- TESTF.NAME (R236). -/
  | testfName (f : Fields)
  /-- CANCF (R237). -/
  | cancf (f : Fields)
  /-- MBEGIN (R113). -/
  | mbegin (f : Fields)
  /-- MMA (R114). -/
  | mma (f : Fields)
  /-- MEND (R118). -/
  | mend (f : Fields)
  /-- MWIN (R121). -/
  | mwin (f : Fields)
  /-- CREAD (R122). -/
  | cread (f : Fields)
  /-- CCLR (R123). -/
  | cclr (f : Fields)
  /-- BATON.TAKE (R124). -/
  | batonTake (f : Fields)
  /-- BATON.PASS (R124). -/
  | batonPass (f : Fields)
  /-- WSTORE (R106). -/
  | wstore (f : Fields)
  /-- WSCRUB.CHECK (R107). -/
  | wscrubCheck (f : Fields)
  /-- WSCRUB.FIX (R107). -/
  | wscrubFix (f : Fields)
  /-- GRUN (R142). -/
  | grun (f : Fields)
  /-- GSTOP (R157). -/
  | gstop (f : Fields)
  /-- GRATION (R158). -/
  | gration (f : Fields)
  /-- GREAD (R159). -/
  | gread (f : Fields)
  /-- GWRITE (R160). -/
  | gwrite (f : Fields)
  /-- GMAP (R161). -/
  | gmap (f : Fields)
  /-- GWEAR (R162). -/
  | gwear (f : Fields)
  /-- TREECFG.ON (R271). -/
  | treecfgOn (f : Fields)
  /-- TREECFG.OFF (R271). -/
  | treecfgOff (f : Fields)
  /-- TREECFG.BETA (R271). -/
  | treecfgBeta (f : Fields)
  /-- TREESET (R272). -/
  | treesetSet (f : Fields)
  /-- TREESET.INVAL (R272). -/
  | treesetInval (f : Fields)
  /-- TREEUPD (R273). -/
  | treeupd (f : Fields)
  /-- TREEDRAW (R274). -/
  | treedraw (f : Fields)
  /-- TREESUM.ROOT (R278). -/
  | treesumRoot (f : Fields)
  /-- TREESUM.LEAF (R278). -/
  | treesumLeaf (f : Fields)
  /-- TREECLR (R271). -/
  | treeclr (f : Fields)
  /-- LAUNCH.RUN (R313). -/
  | launchRun (f : Fields)
  /-- LAUNCH.GRAPH (R313). -/
  | launchGraph (f : Fields)
  /-- LAUNCH.PHASE (R313). -/
  | launchPhase (f : Fields)
  /-- LAUNCH.JOB (R313). -/
  | launchJob (f : Fields)
  /-- LAUNCH.QPRIO (R317). -/
  | launchQprio (f : Fields)
  /-- SPAWN (R320). -/
  | spawn (f : Fields)
  /-- TASKEND (R322). -/
  | taskend (f : Fields)
  /-- FETCHW (R318). -/
  | fetchw (f : Fields)
  /-- MIGRATE.CORE (R323). -/
  | migrateCore (f : Fields)
  /-- MIGRATE.NEAR (R323). -/
  | migrateNear (f : Fields)
  /-- LVLCANCEL (R315). -/
  | lvlcancel (f : Fields)
  /-- CNTRD (R314). -/
  | cntrd (f : Fields)
  /-- RUNREC (R335). -/
  | runrec (f : Fields)
  /-- CSACC (R397). -/
  | csacc (f : Fields)
  /-- CHECK (R398). -/
  | check (f : Fields)
  /-- SRD (R379). -/
  | srd (f : Fields)
  /-- SRD.FRAME (R379). -/
  | srdFrame (f : Fields)
  /-- SWR (R379). -/
  | swr (f : Fields)
  /-- SWR.FRAME (R379). -/
  | swrFrame (f : Fields)
  /-- TRAP (R380). -/
  | trap (f : Fields)
  /-- TRAPRET.RESUME (R381). -/
  | trapretResume (f : Fields)
  /-- TRAPRET.KILL (R381). -/
  | trapretKill (f : Fields)
  /-- BRK (R380). -/
  | brk (f : Fields)
  /-- CODEFENCE (R300). -/
  | codefence (f : Fields)
  /-- PMARK (R382). -/
  | pmark (f : Fields)
  /-- WORKGROUP_RETIRE (R246). -/
  | workgroupRetire (wg : Nat)
  /-- LOAD_RESULT_LAND (R49). -/
  | loadResultLand (w : WarpRef) (pend : Nat)
  /-- G_ACCESS_PERFORM (R167). -/
  | gAccessPerform (w : WarpRef) (acc : Nat)
  /-- TAG_CONDITION_MET (R199). -/
  | tagConditionMet (w : WarpRef) (lane : Nat)
  /-- INSTR_WAIT_LIMIT (R199). -/
  | instrWaitLimit (w : WarpRef)
  /-- POLL_READ (R213). -/
  | pollRead (w : WarpRef) (lane : Nat)
  /-- SLEEP_END (R303). -/
  | sleepEnd (w : WarpRef)
  /-- PROMISE_MISSED (R235). -/
  | promiseMissed (w : WarpRef)
  /-- PAGE_WALK_COMPLETE (R354). -/
  | pageWalkComplete (walk : Nat)
  /-- FAULT_RECORD_WRITE (R357). -/
  | faultRecordWrite (walk : Nat)
  /-- COPY_COMPLETE (R224). -/
  | copyComplete (cmd : Nat)
  /-- ROUNDABOUT_INTAKE (R244). -/
  | roundaboutIntake (cmd : Nat)
  /-- ROUNDABOUT_DELIVERY (R245). -/
  | roundaboutDelivery (clu stream wg : Nat)
  /-- LEAVE_GRANT (R420). -/
  | leaveGrant (clu : Nat)
  /-- MMA_STEP_RETIRE (R114). -/
  | mmaStepRetire (cmd : Nat)
  /-- CHAIN_COMMIT (R116). -/
  | chainCommit (core : Nat)
  /-- CCLR_COMPLETE (R123). -/
  | cclrComplete (w : WarpRef)
  /-- WSTORE_SLOT_WRITE (R106). -/
  | wstoreSlotWrite (cmd : Nat) (fails : Nat)
  /-- WSCRUB_SLOT_READ (R107). -/
  | wscrubSlotRead (cmd : Nat)
  /-- GATE_STEP (R139). -/
  | gateStep (cmd : Nat) (fails : List (Nat × Nat))
  /-- GATE_READ_SERVE (R159). -/
  | gateReadServe (cmd : Nat)
  /-- GATE_SNAPSHOT (R161). -/
  | gateSnapshot (cmd : Nat)
  /-- TREE_ACCEPT (R268). -/
  | treeAccept (cmd : Nat)
  /-- TREE_COMPLETE (R279). -/
  | treeComplete (cmd : Nat)
  /-- RUNREC_ACCEPT (R334). -/
  | runrecAccept (cmd : Nat)
  /-- ROUTINE_TASK_END (R340). -/
  | routineTaskEnd (cmd slot : Nat)
  /-- TASK_PUSH (R320). -/
  | taskPush (cmd : Nat)
  /-- WAVE_FORM (R321). -/
  | waveForm (core : Nat)
  /-- WAVE_WAIT_EXPIRY (R321). -/
  | waveWaitExpiry (core : Nat)
  /-- LAUNCH_ACCEPT (R313). -/
  | launchAccept (cmd : Nat)
  /-- LEVEL_CANCEL_APPLY (R315). -/
  | levelCancelApply (cmd : Nat)
  /-- PLACEMENT_DECISION (R316). -/
  | placementDecision (die : Nat)
  /-- PASSED_OVER_TIMEOUT (R316). -/
  | passedOverTimeout (die : Nat)
  /-- FETCHW_DELIVERY (R318). -/
  | fetchwDelivery (req : Nat)
  /-- MIGRATE_ARRIVAL (R323). -/
  | migrateArrival (wg : Nat)
  /-- LANE_CYCLE_SCHEDULE (R325). -/
  | laneCycleSchedule (core : Nat)
  /-- FORCED_SWAP (R325). -/
  | forcedSwap (core : Nat)
  /-- CLOCK_GATE (R328). -/
  | clockGate (core : Nat)
  /-- CORE_WAKE (R328). -/
  | coreWake (core : Nat)
  /-- PROGRESS_STALL (R331). -/
  | progressStall (core : Nat)
  /-- WAIT_LIMIT (R332). -/
  | waitLimit (core : Nat) (launch : Word)
  /-- PREEMPTION_TRIGGER (R385). -/
  | preemptionTrigger (die : Nat)
  /-- PREEMPT_SAVE (R386). -/
  | preemptSave (wg : Nat)
  /-- WORKGROUP_RESTORE (R388). -/
  | workgroupRestore (wg : Nat) (fails : List (Nat × Nat))
  /-- UNCORRECTABLE_ERROR (R389). -/
  | uncorrectableError (site : ErrSite)
  /-- CORRECTED_ERROR (R399). -/
  | correctedError (item : ErrItem) (flips : BitVec 1280)
  /-- SUBMISSION_RING_SERVICE (R416). -/
  | submissionRingService (queue : Nat)
  /-- INVAL (R360). -/
  | inval (part : Nat)
  /-- RESOLVE (R359). -/
  | resolve (part : Nat)
  /-- KEYLOAD (R365). -/
  | keyload (part : Nat)
  /-- KEYCLR (R365). -/
  | keyclr (part : Nat)
  /-- ATTEST (R366). -/
  | attest (part : Nat)
  /-- PARTCFG (R349). -/
  | partcfg
  /-- CAPSET (R368). -/
  | capset
  /-- HOST_ACCESS (R369). -/
  | hostAccess (binding : Nat) (op : ExtAccess)
  /-- PEER_ACCESS (R167). -/
  | peerAccess (port : Nat) (op : ExtAccess)
  /-- RESET_RELEASE (R414). -/
  | resetRelease (b : BootImage)
  /-- CHL_TRAIN (R415). -/
  | chlTrain (passing : List (Nat × Nat))
  /-- PEER_PORT_TRAINING_LOSS (R417). -/
  | peerPortTrainingLoss (port : Nat)
  /-- PTP_SYNC_MESSAGE (R419). -/
  | ptpSyncMessage (offset : Int) (grand : DWord)
  /-- SYNC_HOLDOVER_TIMEOUT (R419). -/
  | syncHoldoverTimeout
  /-- PATTERN_BOUNDARY (R421). -/
  | patternBoundary (clu flux idle : Nat)
  /-- MARKER_COUNTER_DUMP (R422). -/
  | markerCounterDump
  /-- UNASSIGNED_OPCODE (R55). -/
  | unassignedOpcode (w : DWord)
  /-- RESET (R413). -/
  | reset
  /-- POWER_LOSS (R413). -/
  | powerLoss
  /-- PEER_PORT_TRAIN (R417). -/
  | peerPortTrain (port : Nat) (passing : List (Nat × Nat))
  /-- LINK_LEVEL_REPLAY (R415). -/
  | linkLevelReplay (link : Nat)
  /-- ERROR_QUEUE_RECORD_WRITE (R391). -/
  | errorQueueRecordWrite (part : Nat)
  /-- ATTIC_RETENTION_EXPIRY (R153). -/
  | atticRetentionExpiry (core key : Nat)
  deriving DecidableEq, Repr

end Sys2Proof
end

