-- ==== Sys2Proof/Machine/Sig.lean ====
section
/-!
DEFINITION. Sig.lean: what every instruction accepts in its fields: operand codes (R38-R41), the encoding tables of the
opcodes, and the decode-time checks that need nothing but the words (R37, R40, R41, R44).
-/
namespace Sys2Proof.Machine

/-- What a 9-bit operand code names (R38). -/
inductive Opnd where
  | v (r : Nat)
  | vx (base : Nat)
  | s (r : Nat)
  | special (code : Nat)
  | h (r : Nat)
  | p (k : Nat)
  | t (k : Nat)
  | bad
  | imm (x : Int)
  deriving DecidableEq, Repr

/-- Classify an operand code (R38). -/
def opnd (c : Code9) : Opnd :=
  let n := c.toNat
  if n < 0x080 then .v n
  else if n < 0x100 then .vx (n - 0x080)
  else if n < 0x140 then .s (n - 0x100)
  else if n < 0x155 then .special n
  else if n < 0x180 then .bad
  else if n < 0x190 then .h (n - 0x180)
  else if n < 0x198 then .p (n - 0x190)
  else if n < 0x1A0 then .t (n - 0x198)
  else if n < 0x1C0 then .bad
  else .imm ((n : Int) - 0x1E0)

/-- The kinds an operand field accepts (R40) and how many registers it names. -/
structure Kinds where
  v     : Bool := false
  s     : Bool := false
  i     : Bool := false
  p     : Bool := false
  h     : Bool := false
  x     : Bool := false
  w     : Nat  := 1
  blank : Bool := false      -- may be left 0x000
  deriving DecidableEq, Repr

/-- What a field is to its instruction (R40, R41). -/
inductive Slot where
  | unused
  | ignored
  | sel (codes : List Nat)
  | opnd (k : Kinds)
  deriving DecidableEq, Repr

/-- How many times an instruction executes (R43, R78, R191, R255). -/
inductive Unif where
  | always                  -- once for the warp
  | lanes                   -- once for every active thread
  | byDest                  -- R78: once when D is an S register
  | byRegs                  -- R191: once when no V and no P register is named
  | byVec                   -- once when neither A nor B (nor C) is a V register
  deriving DecidableEq, Repr

structure Sig where
  d : Slot := .unused
  a : Slot := .unused
  b : Slot := .unused
  c : Slot := .unused
  u : Unif := .always
  deriving DecidableEq, Repr

/-- V or S register (or the first of `w`). -/
def slotR (w : Nat := 1) : Slot := .opnd { v := true, s := true, w }
/-- V or S register, or immediate. -/
def slotRI (w : Nat := 1) : Slot := .opnd { v := true, s := true, i := true, w }
def slotV (w : Nat := 1) : Slot := .opnd { v := true, w }
def slotS (w : Nat := 1) : Slot := .opnd { s := true, w }
def slotSI : Slot := .opnd { s := true, i := true }
def slotP : Slot := .opnd { p := true }
def slotH : Slot := .opnd { h := true }
/-- Two registers in the 64-bit forms, one otherwise (R80). -/
def wide (b : Bool) : Nat := if b then 2 else 1

/-- WIDTH of the memory extension word (R187). -/
def extWidth (e : DWord) : Nat := bitsOf e.toNat 32 3
def extScale (e : DWord) : Nat := bitsOf e.toNat 35 2
def extScope (e : DWord) : Nat := bitsOf e.toNat 37 2
def extAop (e : DWord) : Nat := bitsOf e.toNat 39 5
def extWlim (e : DWord) : Nat := bitsOf e.toNat 48 16
def extDisp (e : DWord) : Int := (BitVec.ofNat 32 e.toNat).toInt
/-- Registers a memory width takes (R188). -/
def widthRegs (w : Nat) : Nat := if w = 6 then 4 else if w = 5 then 2 else 1
/-- Bytes of a memory width (R192). -/
def widthBytes (w : Nat) : Nat :=
  if w < 2 then 1 else if w < 4 then 2 else if w = 4 then 4 else if w = 5 then 8 else 16

/-- A valid selector of CVT: unequal type codes up to 10 (R97). -/
def cvtCodes : List Nat :=
  (List.range 256).filter fun n => n / 16 ≤ 10 && n % 16 ≤ 10 && n / 16 ≠ n % 16

/-- Type codes I64 and N64 (R97). -/
def cvtWide (t : Nat) : Bool := t = 5 || t = 6

/-- Width of the combination a selector of LFOLD and LSCAN names (R259). -/
def foldWide (sel : Nat) : Bool := sel = 1 || sel = 6 || sel = 7

/-- Special registers of 64 bits: CLK and TIME (R23). -/
def special64 (c : Code9) : Bool := c.toNat = 0x142 || c.toNat = 0x143

/-- The encoding table of opcodes 0x00-0x2C (R282, R80); none where M is reserved. -/
def sigControlInt (op m : Nat) : Option Sig :=
  let some_ (ok : Bool) (s : Sig) : Option Sig := if ok then some s else none
  match op with
  | 0x00 => some_ (m = 0) {}
  | 0x01 => some_ (m ≤ 1) { u := .lanes }
  | 0x02 => some_ (m = 0) {}
  | 0x03 => some_ (m = 0) { a := slotSI }
  | 0x04 => some_ (m = 0) {}
  | 0x05 => some_ (m = 0) {}
  | 0x06 => some_ (m = 0) { a := slotR 2, u := .byVec }
  | 0x07 => some_ (m = 0) {}
  | 0x08 => some_ (m = 0) {}
  | 0x09 => some_ (m = 0) { a := slotSI }
  | 0x0A => some_ (m = 0) { a := slotS 2 }
  | 0x0B => some_ (m = 0) { u := .lanes }
  | 0x10 => some_ (m ≤ 1) { d := slotR (wide (m = 1)), a := slotRI (wide (m = 1)), u := .byDest }
  | 0x11 => some_ (m ≤ 1) { d := slotR (wide (m = 1)), u := .byDest }
  | 0x12 | 0x13 =>
    let w := wide (m ≥ 3)
    some_ (m ≤ 5) { d := slotR w, a := slotRI w, b := slotRI w, u := .byDest }
  | 0x14 =>
    let w := wide (m = 3)
    some_ (m ≤ 3) { d := slotR w, a := slotRI w, b := slotRI w, u := .byDest }
  | 0x15 => some_ (m ≤ 1) { d := slotR, a := slotRI, b := slotRI, u := .byDest }
  | 0x16 => some_ (m ≤ 2) { d := slotR, a := slotRI, b := slotRI, c := slotRI, u := .byDest }
  | 0x17 => some_ (m ≤ 1) { d := slotR 2, a := slotRI, b := slotRI, c := slotRI 2, u := .byDest }
  | 0x18 | 0x19 | 0x1A =>
    let w := wide (m = 1)
    some_ (m ≤ 1) { d := slotR w, a := slotRI w, b := slotRI w, u := .byDest }
  | 0x1B => some_ (m ≤ 1) { d := slotR (wide (m = 1)), a := slotRI (wide (m = 1)), u := .byDest }
  | 0x1C | 0x1D | 0x1E | 0x1F =>
    some_ (m ≤ 1) { d := slotR (wide (m = 1)), a := slotRI (wide (m = 1)), b := slotRI, u := .byDest }
  | 0x20 => some_ (m ≤ 1) { d := slotR, a := slotRI, b := slotRI, u := .byDest }
  | 0x21 => some_ (m = 0) { d := slotR, a := slotRI, b := slotRI, c := slotRI, u := .byDest }
  | 0x22 | 0x23 => some_ (m ≤ 1) { d := slotR, a := slotRI (wide (m = 1)), u := .byDest }
  | 0x24 => some_ (m ≤ 1) { d := slotR (wide (m = 1)), a := slotRI (wide (m = 1)), u := .byDest }
  | 0x25 =>
    if m = 0 then some { d := slotR, a := slotRI, b := slotRI, c := slotRI, u := .byDest }
    else if m = 1 then some { d := slotR, a := slotRI, b := slotR 2, u := .byDest }
    else some_ (m ≤ 3) { d := slotR, a := slotRI, b := slotR 4, u := .byDest }
  | 0x26 | 0x27 =>
    let w := wide (m ≥ 2)
    some_ (m ≤ 3) { d := slotR w, a := slotRI w, b := slotRI w, u := .byDest }
  | 0x28 => some_ (m ≤ 3) { d := slotR (wide (m ≥ 2)), a := slotRI (wide (m ≥ 2)), u := .byDest }
  | 0x29 =>
    let w := wide (m = 1)
    some_ (m ≤ 1) { d := slotR w, a := slotRI w, b := slotRI w, c := slotP, u := .byDest }
  | 0x2A =>
    let w := wide (m ≥ 2)
    some_ (m ≤ 3) { d := slotP, a := slotRI w, b := slotRI w, c := .sel (List.range 6), u := .byDest }
  | 0x2B => some_ (m ≤ 4) { d := slotR 2, a := slotR 2, b := slotRI, c := slotRI, u := .byDest }
  | 0x2C => some_ (m = 0) { d := slotR 2, u := .byDest }
  | _ => none

/-- The encoding table of opcodes 0x40-0x66 (R91, R256-R259). -/
def sigFloatLane (op m : Nat) (f : Fields) : Option Sig :=
  let some_ (ok : Bool) (s : Sig) : Option Sig := if ok then some s else none
  let bSel := f.b.toNat
  let cSel := f.c.toNat
  match op with
  | 0x40 | 0x41 | 0x42 =>
    let w := wide (cSel = 1)
    some_ (m ≤ 3) { d := slotR w, a := slotRI w, b := slotRI w, c := .sel [0, 1], u := .byDest }
  | 0x43 =>
    let w := wide (m = 1)
    some_ (m ≤ 1) { d := slotR w, a := slotRI w, b := slotRI w, c := slotRI w, u := .byDest }
  | 0x44 | 0x45 => some_ (m ≤ 1) { d := slotR, a := slotRI, b := slotRI, u := .byDest }
  | 0x46 | 0x47 | 0x48 | 0x49 | 0x4A => some_ (m ≤ 3) { d := slotR, a := slotRI, u := .byDest }
  | 0x4B => some_ (m ≤ 2) { d := slotP, a := slotRI, b := slotRI, c := .sel (List.range 8), u := .byDest }
  | 0x4C => some_ (m ≤ 5) { d := slotR, a := slotRI, u := .byDest }
  | 0x4D =>
    some_ (m ≤ 3) { d := slotR (wide (cvtWide (bSel / 16))), a := slotRI (wide (cvtWide (bSel % 16))),
                    b := .sel cvtCodes, u := .byDest }
  | 0x4E =>
    some_ (m ≤ 4) { d := slotR (wide (m = 4)), a := slotRI, b := .sel [0, 1, 2], c := slotRI, u := .byDest }
  | 0x4F =>
    some_ (m ≤ 3) { d := slotR, a := if bSel ≥ 8 then slotR 2 else slotRI,
                    b := .sel [0, 1, 2, 3, 4, 8, 9], c := slotRI, u := .byDest }
  | 0x50 | 0x51 =>
    let w := wide (cSel ≥ 2)
    some_ (m ≤ 3) { d := slotR w, a := slotRI w, b := slotRI w, c := .sel [0, 1, 2, 3], u := .byDest }
  | 0x52 =>
    let w := wide (m ≥ 2)
    some_ (m ≤ 3) { d := slotR w, a := slotRI w, b := slotRI w, c := slotRI w, u := .byDest }
  | 0x60 => some { d := slotV (wide (m ≥ 4)), a := slotV (wide (m ≥ 4)), b := slotRI, c := slotSI, u := .lanes }
  | 0x61 => some_ (m ≤ 2) { d := slotP, a := slotP, u := .lanes }
  | 0x62 => some_ (m = 0) { d := slotR, a := slotP, u := .lanes }
  | 0x63 => some_ (m = 0) { d := slotP, u := .lanes }
  | 0x64 => some_ (m ≤ 3) { d := slotV, a := slotV (wide (m % 2 = 1)), u := .lanes }
  | 0x65 =>
    let w := wide (foldWide bSel)
    some_ (m = 0) { d := slotR w, a := slotV w, b := .sel (List.range 12), u := .lanes }
  | 0x66 =>
    let w := wide (foldWide bSel)
    some_ (m ≤ 1) { d := slotV w, a := slotV w, b := .sel (List.range 12), u := .lanes }
  | _ => none

/-- The encoding table of opcodes 0x70-0x8C (R189, R207, R209, R215, R248). -/
def sigMemory (op m : Nat) (f : Fields) : Option Sig :=
  let some_ (ok : Bool) (s : Sig) : Option Sig := if ok then some s else none
  let w := widthRegs (extWidth f.ext)
  let pOrBlank : Slot := .opnd { p := true, blank := true }
  match op with
  | 0x70 | 0x72 => some_ (m = 0) { a := slotSI, b := slotSI }
  | 0x71 => some_ (m = 0) { a := slotSI }
  | 0x73 => some_ (m ≤ 2) { a := .sel [0, 1, 2, 3] }
  | 0x74 => some_ (m ≤ 5) { d := slotR w, a := slotR 2, b := slotRI w, c := slotRI w, u := .byRegs }
  | 0x75 => some_ (m = 0) { d := slotR, a := slotR 2, u := .byRegs }
  | 0x76 => some_ (m ≤ 1) { d := slotR, a := slotR 2, b := slotRI, u := .byRegs }
  | 0x77 => some_ (m = 0) { a := slotR, b := slotRI, u := .byRegs }
  | 0x80 => some_ (m ≤ 1) { d := slotR w, a := slotR, b := slotRI, u := .byRegs }
  | 0x81 => some_ (m = 0 || m = 2) { a := slotR, b := slotRI, c := slotRI w, u := .byRegs }
  | 0x82 => some_ (m ≤ 1) { d := slotR w, a := slotR 2, b := slotRI, u := .byRegs }
  | 0x83 => some_ (m = 0 || m = 2) { a := slotR 2, b := slotRI, c := slotRI w, u := .byRegs }
  | 0x84 => some_ (m = 0) { d := slotR w, a := slotR 2, b := slotRI, u := .byRegs }
  | 0x85 => some_ (m = 0) { d := slotR, a := slotR, b := slotRI, u := .byRegs }
  | 0x86 => some_ (m = 0) { d := slotR 2, a := slotRI, b := slotRI, u := .byRegs }
  | 0x87 => some_ (m = 0) { a := slotRI, b := slotRI, c := slotRI 2, u := .byRegs }
  | 0x88 =>
    some_ (m ≤ 1 || m = 4 || m = 5) { d := slotR, a := slotR, b := slotRI, c := pOrBlank, u := .byRegs }
  | 0x89 => some_ (m = 0 || m = 2) { d := pOrBlank, a := slotR, b := slotRI, c := slotRI, u := .byRegs }
  | 0x8A => some_ (m ≤ 1) { a := slotR, b := slotRI, c := slotRI, u := .byRegs }
  | 0x8B =>
    let base := wide (extScope f.ext ≠ 0)
    some_ (m ≤ 3) { d := slotR w, a := slotR base, b := slotRI, c := slotRI w, u := .byRegs }
  | 0x8C =>
    let base := wide (extScope f.ext ≠ 0)
    some_ (m ≤ 3) { d := slotR w, a := slotR base, b := slotRI w, c := slotRI w, u := .byRegs }
  | _ => none

/-- The encoding table of opcodes 0xA0-0xC6 (R105, R112, R121-R124, R142, R156, R226-R244). -/
def sigEngine (op m : Nat) : Option Sig :=
  let some_ (ok : Bool) (s : Sig) : Option Sig := if ok then some s else none
  match op with
  | 0xA0 => some_ (m = 0) { d := slotH, a := slotS 2, b := slotS 2, c := slotSI }
  | 0xA1 => some_ (m = 0) { d := slotV, a := slotS 2, b := slotS, c := slotSI }
  | 0xA2 => some_ (m = 0) { d := slotH, a := slotS 2, b := slotS 2, c := slotSI }
  | 0xA3 => some_ (m = 0) { d := slotH, a := slotS 2, b := slotS 2, c := slotSI }
  | 0xA4 => if m = 0 then some { a := slotSI, b := slotS, c := slotS }
            else some_ (m = 1) { a := slotSI, b := .ignored, c := .ignored }
  | 0xA5 => some_ (m = 0) { d := slotH, a := slotSI, b := slotS, c := slotSI }
  | 0xA6 =>
    let a : Slot := if m ≥ 2 then slotH else .opnd { h := true, s := true }
    some_ (m ≤ 3) { d := .opnd { s := true, w := 2, blank := true }, a := a }
  | 0xA7 => if m = 0 then some { d := slotS 2, a := .opnd { h := true, s := true } }
            else some_ (m = 1) { d := slotS, a := slotH }
  | 0xA8 => some_ (m = 0) { a := .opnd { h := true, s := true } }
  | 0xB0 => some_ (m = 0) {}
  | 0xB1 => some_ (m ≤ 1) { d := slotH, a := slotS, b := slotS, c := slotS }
  | 0xB2 => some_ (m = 0) { d := slotH }
  | 0xB3 => some_ (m = 0) { a := slotSI, b := slotSI, c := slotSI }
  | 0xB4 => some_ (m ≤ 2) { d := slotR, a := slotRI, b := slotRI, c := slotRI, u := .byDest }
  | 0xB5 => some_ (m = 0) { a := slotSI, b := slotSI }
  | 0xB6 => if m = 0 then some {} else some_ (m = 1) { a := slotSI }
  | 0xB7 => some_ (m = 0) { d := slotH, a := slotS 2, b := slotS, c := slotSI }
  | 0xB8 => some_ (m ≤ 1) { d := slotH, a := slotS, b := slotSI, c := slotS }
  | 0xC0 => some_ (m = 0) { d := slotH, a := slotS, b := slotSI, c := slotS }
  | 0xC1 => some_ (m = 0) { a := slotH }
  | 0xC2 => some_ (m ≤ 2) { a := slotS, b := slotSI, c := slotSI }
  | 0xC3 | 0xC4 => some_ (m ≤ 1) { d := slotH, a := slotS, b := slotS, c := slotSI }
  | 0xC5 | 0xC6 => some_ (m ≤ 1) { d := slotH, a := slotS, b := slotS }
  | _ => none

/-- The encoding table of opcodes 0xC8-0xE6 (R266, R300, R312, R335, R378, R396). -/
def sigWorkSystem (op m : Nat) (f : Fields) : Option Sig :=
  let some_ (ok : Bool) (s : Sig) : Option Sig := if ok then some s else none
  match op with
  | 0xC8 => if m = 1 then some { d := slotH, a := slotSI } else some_ (m ≤ 2) { d := slotH, a := slotSI, b := slotS }
  | 0xC9 => if m = 0 then some { d := slotH, a := slotSI, b := slotSI, c := slotSI }
            else some_ (m = 1) { d := slotH, a := slotSI, b := slotSI }
  | 0xCA => some_ (m = 0) { d := slotH, a := slotSI, b := slotS, c := slotSI }
  | 0xCB => some_ (m = 0) { d := slotH, a := slotSI, b := slotS 2, c := slotSI }
  | 0xCC => if m = 0 then some { d := slotH, a := slotSI, b := slotS }
            else some_ (m = 1) { d := slotH, a := slotSI, b := slotS, c := slotSI }
  | 0xCD => some_ (m = 0) { d := slotH, a := slotSI }
  | 0xD0 => if m = 4 then some { d := slotH, a := slotSI, b := slotSI } else some_ (m ≤ 3) { d := slotH, a := slotS 2 }
  | 0xD1 => some_ (m = 0) { d := slotH, a := slotR 2, b := slotR, u := .byVec }
  | 0xD2 => some_ (m = 0) { u := .lanes }
  | 0xD3 => some_ (m = 0) { a := slotS, b := slotS }
  | 0xD4 => if m = 0 then some { a := slotSI } else some_ (m = 1) { a := slotS 2 }
  | 0xD5 => some_ (m = 0) { d := slotH, a := slotS }
  | 0xD6 => some_ (m = 0) { d := slotS, a := slotS }
  | 0xD7 => some_ (m = 0) { d := slotH, a := slotS 2 }
  | 0xD8 => some_ (m ≤ 1) { d := slotS 2, a := slotR (wide (m = 1)), u := .byVec }
  | 0xD9 =>
    let w := wide (m = 1)
    let c : Slot := if m = 2 then slotRI else .unused
    some_ (m ≤ 2) { a := slotRI w, b := slotRI w, c := c, u := .byVec }
  | 0xE0 => if m = 0 then some { d := slotR (wide (special64 f.a)), a := .opnd { x := true }, u := .byDest }
            else some_ (m = 1) { d := slotS, a := slotSI }
  | 0xE1 => if m = 0 then some { d := .opnd { x := true }, a := slotSI }
            else some_ (m = 1) { a := slotSI, b := slotSI }
  | 0xE2 => some_ (m = 0) { a := slotSI }
  | 0xE3 => some_ (m ≤ 1) {}
  | 0xE4 => some_ (m = 0) {}
  | 0xE5 => some_ (m = 0) { a := .sel [0, 1, 2, 3] }
  | 0xE6 => some_ (m = 0) { d := .opnd { s := true, w := 2, blank := true }, a := slotSI }
  | _ => none

/-- The fields of an instruction; none where its M is not listed (R41). -/
def sigOf (op : Nat) (f : Fields) : Option Sig :=
  let m := f.m.toNat
  if op < 0x40 then sigControlInt op m
  else if op < 0x70 then sigFloatLane op m f
  else if op < 0xA0 then sigMemory op m f
  else if op < 0xC8 then sigEngine op m
  else sigWorkSystem op m f

/-- Opcodes marked "+" in the opcode map (R54). -/
def hasExt (op : Nat) : Bool :=
  op = 0x01 || op = 0x02 || op = 0x03 || op = 0x05 || op = 0x11 || op = 0x2C || op = 0x74 ||
  (0x80 ≤ op && op ≤ 0x8C) || (0xA0 ≤ op && op ≤ 0xA3)

/-- Opcodes the map assigns (R54). -/
def assigned (op : Nat) : Bool :=
  op ≤ 0x0B || (0x10 ≤ op && op ≤ 0x2C) || (0x40 ≤ op && op ≤ 0x52) || (0x60 ≤ op && op ≤ 0x66) ||
  (0x70 ≤ op && op ≤ 0x77) || (0x80 ≤ op && op ≤ 0x8C) || (0xA0 ≤ op && op ≤ 0xA8) || (0xB0 ≤ op && op ≤ 0xB8) ||
  (0xC0 ≤ op && op ≤ 0xC6) || (0xC8 ≤ op && op ≤ 0xCD) || (0xD0 ≤ op && op ≤ 0xD9) || (0xE0 ≤ op && op ≤ 0xE6)

/-- Length in bytes (R36). -/
def lengthOf (op : Nat) (sp : Bool) : Nat := 8 + (if hasExt op then 8 else 0) + (if sp then 8 else 0)

/-- Fields of the copy extension word (R225). -/
def xSsp (e : DWord) : Nat := bitsOf e.toNat 0 2
def xDsp (e : DWord) : Nat := bitsOf e.toNat 2 2
def xTke (e : DWord) : Bool := e.getLsbD 4
def xTok (e : DWord) : Nat := bitsOf e.toNat 5 3
def xPre (e : DWord) : Bool := e.getLsbD 8
def xPrs (e : DWord) : Nat := bitsOf e.toNat 9 6
def xSte (e : DWord) : Bool := e.getLsbD 15
def xStg (e : DWord) : Nat := bitsOf e.toNat 16 20
def xEsz (e : DWord) : Nat := bitsOf e.toNat 36 4
def xRop (e : DWord) : Nat := bitsOf e.toNat 40 5
def xHe (e : DWord) : Bool := e.getLsbD 45
def xHix (e : DWord) : Nat := bitsOf e.toNat 46 4

/-- Memory operations: the checks of R187, R197 and R203 on the extension word. -/
def memExtBad (op m : Nat) (f : Fields) : Bool :=
  let e := f.ext
  let w := extWidth e
  let aop := extAop e
  let widthOk :=
    if op = 0x80 || op = 0x82 || op = 0x84 then decide (w ≤ 6)
    else if op = 0x81 || op = 0x83 then w = 0 || w = 2 || w = 4 || w = 5 || w = 6
    else if op = 0x85 || op = 0x88 || op = 0x89 || op = 0x8A then w = 4
    else if op = 0x86 || op = 0x87 then w = 5
    else (w = 4 || w = 5) && !(op = 0x8B && aop ≥ 9 && w = 5)
  let scaleBad := (op = 0x86 || op = 0x87 || op = 0x8C || op = 0x74) && extScale e ≠ 0
  let ordered := op = 0x8B || op = 0x8C || op = 0x74 || (m = 1 && (op = 0x80 || op = 0x82 || op = 0x88)) ||
    (m = 5 && op = 0x88) || (m = 2 && (op = 0x81 || op = 0x83 || op = 0x89))
  let scopeBad := !ordered && extScope e ≠ 0
  let aopBad := if op = 0x8B then decide (aop ≥ 11) else aop ≠ 0
  let isP (code : Code9) : Bool := code ≠ 0 && match opnd code with | .p _ => true | _ => false
  let namesP := (op = 0x88 && isP f.c) || (op = 0x89 && isP f.d)
  let wlimBad := extWlim e ≠ 0 && !(op = 0x74 || namesP)
  let dispBad := (op = 0x86 || op = 0x87) && bitsOf e.toNat 16 16 ≠ 0
  !widthOk || scaleBad || scopeBad || aopBad || wlimBad || dispBad || bitsOf e.toNat 44 4 ≠ 0

/-- Copy engine commands: the 0x02 checks of R225 and R241 on the extension word. -/
def copyExtBad (op : Nat) (e : DWord) : Bool :=
  let eszBad := if op = 0xA2 then decide (xEsz e ≥ 6) else xEsz e ≠ 0
  let ropBad := if op = 0xA3 then decide (xRop e ≥ 9) else xRop e ≠ 0
  let heBad := op ≠ 0xA1 && (xHe e || xHix e ≠ 0)
  bitsOf e.toNat 50 14 ≠ 0 || eszBad || ropBad || heBad

/-- A reserved bit of the extension word, of the live-mask word or of a guard (R37, R52, R283). -/
def wordsBad (op : Nat) (f : Fields) : Bool :=
  let e := f.ext.toNat
  let extBad :=
    if op = 0x01 then bitsOf e 0 3 ≠ 0 || bitsOf e 32 3 ≠ 0
    else if op = 0x02 || op = 0x05 then bitsOf e 0 3 ≠ 0 || bitsOf e 32 32 ≠ 0
    else if op = 0x03 then bitsOf e 0 2 ≠ 0 || bitsOf e 32 16 = 0 || bitsOf e 48 16 ≠ 0
    else if op = 0x11 then f.m = 0 && bitsOf e 32 32 ≠ 0
    else if op = 0x2C then bitsOf e 32 32 ≠ 0
    else if op = 0x74 || (0x80 ≤ op && op ≤ 0x8C) then memExtBad op f.m.toNat f
    else if 0xA0 ≤ op && op ≤ 0xA3 then copyExtBad op f.ext
    else false
  let liveBad := f.sp && (bitsOf f.live.toNat 55 1 ≠ 0 || bitsOf f.live.toNat 60 4 ≠ 0)
  let joinBad := op = 0x04 && (f.gp ≠ 7 || f.gn)
  extBad || liveBad || joinBad

/-- The field's operand kind is not accepted, or a direct pair or quad is misaligned (R40).  `xi` is the index
register; without it only direct operands are checked. -/
def kindBad (xi : Option Int) (code : Code9) : Slot → Bool
  | .opnd k =>
    let mis (n : Int) : Bool := k.w > 1 && n % (k.w : Int) ≠ 0
    if k.blank && code = 0 then false
    else match opnd code with
      | .v r => !k.v || mis r
      | .vx b => !k.v || (match xi with | some x => mis ((b : Int) + x) | none => false)
      | .s r => !k.s || mis r
      | .special _ => !k.x
      | .h _ => !k.h
      | .p _ => !k.p
      | .t _ => true
      | .bad => true
      | .imm _ => !k.i
  | _ => false

/-- An unused field is not zero (R41). -/
def unusedBad (code : Code9) : Slot → Bool
  | .unused => code ≠ 0
  | _ => false

/-- A selector field holds a code that is not listed (R41). -/
def selBad (code : Code9) : Slot → Bool
  | .sel codes => !codes.contains code.toNat
  | _ => false

/-- A V register is named. -/
def isV (code : Code9) : Bool := match opnd code with | .v _ | .vx _ => true | _ => false
def isS (code : Code9) : Bool := match opnd code with | .s _ => true | _ => false
def isP (code : Code9) : Bool := match opnd code with | .p _ => true | _ => false

/-- The field is an operand that names a V register. -/
def slotNamesV (code : Code9) : Slot → Bool
  | .opnd k => isV code && !(k.blank && code = 0)
  | _ => false
def slotNamesP (code : Code9) : Slot → Bool
  | .opnd _ => isP code
  | _ => false

/-- The instruction executes once for the warp (R43, R78, R191). -/
def isUniform (sg : Sig) (f : Fields) : Bool :=
  let anyV := slotNamesV f.a sg.a || slotNamesV f.b sg.b || slotNamesV f.c sg.c
  let anyP := slotNamesP f.d sg.d || slotNamesP f.a sg.a || slotNamesP f.b sg.b || slotNamesP f.c sg.c
  match sg.u with
  | .always => true
  | .lanes => false
  | .byDest => isS f.d
  | .byRegs => !anyV && !anyP && !slotNamesV f.d sg.d
  | .byVec => !anyV

/-- An S destination with a V source (R78, R191), or TIX into an S register (R23). -/
def mixBad (op : Nat) (sg : Sig) (f : Fields) : Bool :=
  let anyV := slotNamesV f.a sg.a || slotNamesV f.b sg.b || slotNamesV f.c sg.c
  ((sg.u = .byDest || sg.u = .byRegs) && sg.d ≠ .unused && isS f.d && anyV) ||
  (op = 0xE0 && f.m = 0 && isS f.d && f.a.toNat = 0x144)

/-- The promise pair of R225 is odd. -/
def prsBad (op : Nat) (f : Fields) : Bool :=
  0xA0 ≤ op && op ≤ 0xA3 && xPre f.ext && xPrs f.ext % 2 ≠ 0

/-- The decode-time code that the words alone decide, the lowest first (R44); `xi` as in `kindBad`. -/
def wordFault (xi : Option Int) (op : Nat) (f : Fields) : Option Nat :=
  match sigOf op f with
  | none => some 0x01
  | some sg =>
    if wordsBad op f || unusedBad f.d sg.d || unusedBad f.a sg.a || unusedBad f.b sg.b || unusedBad f.c sg.c then some 0x02
    else if selBad f.d sg.d || selBad f.a sg.a || selBad f.b sg.b || selBad f.c sg.c then some 0x03
    else if kindBad xi f.d sg.d || kindBad xi f.a sg.a || kindBad xi f.b sg.b || kindBad xi f.c sg.c ||
      mixBad op sg f || prsBad op f then some 0x12
    else none

/-- Latency of a fixed-latency result (R47); none where the result has none. -/
def latency (op : Nat) : Option Nat :=
  if 0x10 ≤ op && op ≤ 0x2C || op = 0xE0 then some 4
  else if 0x46 ≤ op && op ≤ 0x4A then some 12
  else if 0x40 ≤ op && op ≤ 0x52 then some 6
  else if 0x60 ≤ op && op ≤ 0x66 then some 8
  else none

end Sys2Proof.Machine
end

