-- ==== Sys2Proof/Config.lean ====
section
/-!
DEFINITION. Config.lean: what the manual leaves open.  Each constant here has no body, so nothing in Lean can evaluate
it or prove a value of it; a statement holds whatever it is.  Notes: notes/assumptions/2.md, 5.md, 6.md.
-/
namespace Sys2Proof

/-- The choice made at the `n`th point the manual leaves open among `k` outcomes (R434, R182, R299); taken modulo `k`. -/
opaque Config.choose : Nat → Nat
/-- The `n`th value that the manual leaves unspecified (R153, R265). -/
opaque Config.freeWord : Nat → Word
/-- The byte at a physical address after the `n`th power loss (R413). -/
opaque Config.lostByte : Nat → Nat → Byte
/-- The ECC check function over PAYLOAD and HDR of a slot (R102: fixed, not stated). -/
opaque Config.ecc : BitVec 1088 → BitVec 192
/-- The home slice that owns a 256-byte block of physical address (R432: fixed, not stated); taken modulo 96. -/
opaque Config.homeSlice : Nat → Nat
/-- What turns the number of a completion-table entry into its opaque name (R222). -/
opaque Config.nameKey : Word
/-- Address of the module control queue, of the event queue and of the marker block (R361, R370, R422: fixed by firmware). -/
opaque Config.moduleQueue : Nat
opaque Config.eventQueue : Nat
opaque Config.markerBlock : Nat
/-- The module serial number, and the device identity key (R366, R414: derived from the fused device secret). -/
opaque Config.moduleSerial : DWord
opaque Config.identityKey : BitVec 384
/-- The random number of an ECDSA signature, by what is signed (R366: not stated). -/
opaque Config.signNonce : BitVec 384 → BitVec 384
/-- The identity certificate and the CA certificate, as bytes, and the address at which they are stored (R414: fixed by firmware). -/
opaque Config.certificates : List Byte
opaque Config.certAddress : Nat
/-- Spare groups of a core's register file (R400: number not stated). -/
opaque Config.spareGroups : Nat
/-- What a leave request of a charge adds to a cluster's estimated heat flux, in W/cm² (R420: the estimate is not stated). -/
opaque Config.fluxOf : Nat → Nat → Nat
/-- A cluster's share in mW of the power its partition is given, before the floor is applied (R420: not stated further). -/
opaque Config.budgetShare : Nat → Nat → Nat
/-- What a power record over one pattern comes to, in mW (R421: the scale is not stated). -/
opaque Config.recordPower : Nat → Nat
/-- Bytes a save record takes of the save pool, from A bytes, warps, C rows and mats (R386, R387: layout not stated). -/
opaque Config.saveBytes : Nat → Nat → Nat → Nat → Nat
/-- The cluster nearest a home slice among clusters (R323: distance not stated). -/
opaque Config.nearest : Nat → Nat

end Sys2Proof
end

