-- ==== Sys2Proof/Machine/State.lean ====
section
/-!
DEFINITION. State.lean: everything the manual gives the machine, as plain data, and the machine after reset (R413).
Tables and lists hold what exists; what is not listed has the value the manual gives it at rest.
-/
namespace Sys2Proof.Machine

/-- Cause codes (R372). -/
inductive Cause where
  | opcodeIllegal | modifierReserved | fieldReserved | selectorIllegal
  | regBounds | stallShort | operandKind | handleEmpty | tokenBusy
  | gNoncanon | gAlign | gPerm | gPte | gExec | gRefused
  | aRange | localAlign | cWindow | wRange
  | scopeSpace | rangeLocked | barState | barMask | stageCount
  | copyvTarget | copyLength | copyvSize | copySpace | handleKind | streamState | copyAccess | promiseMissed | copyvFailed | collectiveMismatch
  | batonNotHeld | formatBlock | matrixOperand | mmaRows | chainState | streamUnsubscribed | windowIllegal | wSlotRange | aq64Sat
  | gateHeader | gateMat | gateWord | gateIndex | gateHandle | gateLine | atticIndex | atticSpent
  | recurDepth | recurArena | recurFanout | recurObject | recurTask
  | treeId | treeConfig | treeLeaf | treeCount | treeState | treeAccess
  | checkEq | checkNear
  | progressStall | waitLimit | launchRecord | levelState | detForbidden | taskState | migrateState | fetchState
  | splitOverflow | targetAlign | callRegion | linkUnbound
  | trapSw | brk | trapState | doubleTrap | handlerBad | aUncorr | regUncorr
  deriving DecidableEq, Repr

/-- The N8 of a cause: class × 16 + index (R372). -/
def Cause.code : Cause → Nat
  | .opcodeIllegal => 0x00 | .modifierReserved => 0x01 | .fieldReserved => 0x02 | .selectorIllegal => 0x03
  | .regBounds => 0x10 | .stallShort => 0x11 | .operandKind => 0x12 | .handleEmpty => 0x13 | .tokenBusy => 0x14
  | .gNoncanon => 0x20 | .gAlign => 0x21 | .gPerm => 0x22 | .gPte => 0x23 | .gExec => 0x24 | .gRefused => 0x25
  | .aRange => 0x30 | .localAlign => 0x31 | .cWindow => 0x32 | .wRange => 0x33
  | .scopeSpace => 0x40 | .rangeLocked => 0x41 | .barState => 0x42 | .barMask => 0x43 | .stageCount => 0x44
  | .copyvTarget => 0x50 | .copyLength => 0x51 | .copyvSize => 0x52 | .copySpace => 0x53 | .handleKind => 0x54
  | .streamState => 0x55 | .copyAccess => 0x57 | .promiseMissed => 0x58 | .copyvFailed => 0x59 | .collectiveMismatch => 0x5A
  | .batonNotHeld => 0x60 | .formatBlock => 0x61 | .matrixOperand => 0x62 | .mmaRows => 0x63 | .chainState => 0x64
  | .streamUnsubscribed => 0x65 | .windowIllegal => 0x66 | .wSlotRange => 0x67 | .aq64Sat => 0x6C
  | .gateHeader => 0x70 | .gateMat => 0x71 | .gateWord => 0x72 | .gateIndex => 0x73 | .gateHandle => 0x74
  | .gateLine => 0x75 | .atticIndex => 0x76 | .atticSpent => 0x7A
  | .recurDepth => 0x80 | .recurArena => 0x81 | .recurFanout => 0x82 | .recurObject => 0x83 | .recurTask => 0x84
  | .treeId => 0x88 | .treeConfig => 0x89 | .treeLeaf => 0x8A | .treeCount => 0x8B | .treeState => 0x8C | .treeAccess => 0x8D
  | .checkEq => 0x90 | .checkNear => 0x91
  | .progressStall => 0xA0 | .waitLimit => 0xA1 | .launchRecord => 0xA2 | .levelState => 0xA3 | .detForbidden => 0xA4
  | .taskState => 0xA5 | .migrateState => 0xA6 | .fetchState => 0xA7 | .splitOverflow => 0xA8 | .targetAlign => 0xA9
  | .callRegion => 0xAA | .linkUnbound => 0xAB
  | .trapSw => 0xB0 | .brk => 0xB1 | .trapState => 0xB2 | .doubleTrap => 0xB3 | .handlerBad => 0xB4 | .aUncorr => 0xB5 | .regUncorr => 0xB6

/-- Why a step of the model stops.  All are safe: the manual has no such situation. -/
inductive Fault where
  /-- Raised by every instruction when `cur` designates no warp with a present thread: nothing executes it.  Safe. -/
  | noWarp
  deriving DecidableEq, Repr

/-- Why an instruction has no meaning. -/
inductive Refusal where
  /-- Raised by `exec` for a row without a meaning.  Safe. -/
  | notModelled (mnemonic : String)
  deriving DecidableEq, Repr

/-- The spaces of R27, with the register deposits of COPYV and the operand streams as copy destinations (R225). -/
inductive Space where
  | g | a | c | w | regs | stream
  deriving DecidableEq, Repr

/-- Scopes (R168). -/
inductive Scope where
  | blk | clu | dev | sys
  deriving DecidableEq, Repr

/-- One 32-bit register, or one predicate bit, of one warp (R18). -/
inductive RegKey where
  | v (r t : Nat)
  | s (r : Nat)
  | p (k t : Nat)
  deriving DecidableEq, Repr

/-- A fixed-latency result on its way, with the lane cycle at which it becomes available (R47). -/
structure Flight where
  key   : RegKey
  val   : Word
  avail : Nat
  deriving DecidableEq, Repr

/-- STATUS flags on their way (R25). -/
structure FlagFlight where
  flags : Word
  avail : Nat
  deriving DecidableEq, Repr

/-- A result without a fixed latency (R49): its registers are pending until it lands. -/
structure Pend where
  id    : Nat
  keys  : List RegKey
  vals  : List (RegKey × Word)
  left  : Nat                 -- accesses or deposits still to come
  flags : Word
  long  : Bool                -- from G space: a long-latency dependence (R324)
  deriving DecidableEq, Repr

/-- What an access does at its location (R194, R203, R205, R207). -/
inductive AccKind where
  | read
  | write
  | atom (aop : Nat)
  | cas
  | qwake (n : Nat) (bank : Bool)
  | fence (kind : Nat)        -- 0 FULL, 1 REL, 2 ACQ (R177)
  | starr                     -- a contribution to a stage word (R209)
  | arrive (bar phase : Nat)  -- an arrival whose release is still to take effect (R252)
  deriving DecidableEq, Repr

/-- One lane's access, issued and not yet performed (R166, R167).  `pa` is an A byte address in A space. -/
structure Access where
  id    : Nat
  lane  : Nat
  space : Space
  va    : Nat
  pa    : Nat
  bytes : Nat
  kind  : AccKind
  data  : Nat
  cmp   : Nat
  ldi   : Bool
  acq   : Bool
  rel   : Bool
  scope : Scope
  sx    : Bool                -- sign-extend a narrow load (R188)
  dest  : List RegKey
  pend  : Nat
  key   : Option Nat          -- key slot of the page, none for a plain page (R353)
  inst  : Nat                 -- the instruction it belongs to (R165)
  path  : List (Nat × Bool)   -- the divisions open at its issue, each with the path taken (R164)
  deriving DecidableEq, Repr

/-- An access performed before earlier accesses of its warp that only agents of a narrow scope must see first: until those
have been performed, no such agent may touch its location (R170; notes/assumptions/46.md). -/
structure Veil where
  w     : WarpRef
  scope : Scope
  pa    : Nat
  bytes : Nat
  write : Bool
  until_ : List Nat
  deriving DecidableEq, Repr

/-- A lane that waits in LDTF, STTE, WAITA or QWAIT (R199, R212, R215). -/
inductive LaneKind where
  | ldtf (empty : Bool)
  | stte (val : Word)
  | waita (bytes mask cmp expect : Nat)
  | qwait
  deriving DecidableEq, Repr

structure LaneWait where
  lane     : Nat
  addr     : Nat              -- A byte address, or physical address
  va       : Nat              -- the G address it was formed from, where it has one
  kind     : LaneKind
  dest     : List RegKey
  pred     : Option RegKey
  limit    : Option Nat       -- TIME at which the wait limit passes
  poll     : Option Nat       -- TIME of the next polling read (R213)
  key      : Option Nat
  finished : Bool
  deriving DecidableEq, Repr

/-- What a warp waits for before its instruction goes on. -/
inductive Wait where
  | token (mask : BitVec 8)              -- R51
  | pending (keys : List RegKey)         -- R49
  | drain                                -- earlier accesses not yet performed (R170, R382)
  | handle (cmd : Nat) (prom : Bool)     -- WAITF (R235)
  | room (what need : Nat)               -- 0 range locks, 1 completion table, 2 gate queue, 3 chains, 4 COPYV target, 5 MIGRATE (R184, R217, R143, R120, R239, R323)
  | lanes (ls : List LaneWait)           -- R201
  | overlap (rs : List (Nat × Nat))      -- A ranges of a command that overlap a waiting lane's word (R201)
  | sleep (target : Nat) (woke : Bool)   -- R303
  | bar (b : Nat)                        -- R250
  | baton                                -- R124
  | cclr (row n : Nat) (done : Bool)     -- R123
  | walk (ids : List Nat)                -- page walks or their faults (R356, R357)
  | poison (fid : Nat) (keys : List Nat) -- R390
  | spawn (cmd : Nat)                    -- R320
  deriving DecidableEq, Repr

/-- What became of a translation for the waiting instruction (R356, R359). -/
inductive TrOutcome where
  | refused | badPte
  deriving DecidableEq, Repr

/-- A deferred trap (R116, R145, R238, R346). -/
structure Deferred where
  cause  : Cause
  cmd    : Nat
  status : DWord
  token  : Option Nat
  deriving DecidableEq, Repr

/-- A split entry (R287). -/
structure Split where
  ja     : GAddr
  u      : Mask
  pend   : Mask
  pstart : GAddr
  resume : Bool
  did    : Nat                           -- number of the division of a BR, 0 for a CALLI (R164)
  deriving DecidableEq, Repr

/-- A warp (R15-R26).  Vector registers are listed at 32·r + t. -/
structure Warp where
  pc      : GAddr
  never   : Mask
  exited  : Mask
  em      : Mask
  vAllot  : Nat
  sAllot  : Nat
  ltbase  : GAddr                        -- link-table base (R431)
  v       : Table Word
  p       : Table Mask
  s       : Table Word
  h       : Table Nat                    -- entry number of the handle; an unlisted register is empty
  tok     : Table (List Nat)             -- commands that keep the token unsettled
  splits  : List Split                   -- newest first
  kUsed   : Nat                          -- how many of the newest stand in K0-K7
  xi      : Word
  status  : Word
  tbase   : Byte
  cwb     : Nat
  cwl     : Nat
  flights : List Flight                  -- newest first
  flagsIn : List FlagFlight
  pends   : List Pend
  accs    : List Access                  -- in program order
  wait    : Option Wait
  waitAt  : Nat                          -- TIME at which it began (R332)
  doneLanes : List LaneWait              -- lanes that had finished their wait when it was withdrawn (R202)
  heldLanes : List LaneWait              -- the same, of the instruction a trap frame returns to (R202, R376)
  kept    : Option Wait                  -- the withdrawn wait of a BAR that has arrived or of a SLEEP (R253, R303)
  heldKept : Option Wait                 -- the same, of the instruction a trap frame returns to
  slot    : Option Instr                 -- the instruction that waits after it has started
  slotLanes : List (Nat × Nat)           -- its executing threads, as its guard named them at its start (R42)
  tr      : List (Nat × TrOutcome)       -- by virtual page of 64 KiB
  barPend : Table Nat                    -- phase of the pending arrival of a barrier
  defers  : List Deferred
  frame   : Option (List Word)           -- the 32 words of the trap frame, in handler mode
  nCopy   : Nat                          -- COPYs issued (R227)
  mail    : List Nat                     -- undelivered mailbox requests
  now     : Nat                          -- lane cycles of the warp (R47)
  next    : Nat                          -- earliest start of the next instruction (R46)
  busy    : Nat                          -- lane cycle until which the last instruction holds its lane
  draw    : Nat                          -- draw of the last instruction issued (R330)
  live    : DWord                        -- live-mask word of the last safe point (R52)
  atSafe  : Bool                         -- the last instruction had SP = 1
  stopped : Bool                         -- stopped for a pre-emption or cancellation
  retired : Bool
  batonSeq : Nat                         -- issue order of a waiting TAKE
  deriving DecidableEq, Repr

/-- A barrier of a workgroup (R249). -/
structure Barrier where
  phase : Nat
  pmask : Option (BitVec 16)
  arr   : BitVec 16
  deriving DecidableEq, Repr

/-- The baton of a workgroup (R124). -/
structure Baton where
  holder   : Option Nat
  reserved : Option Nat
  deriving DecidableEq, Repr

/-- A subscription of a workgroup to a stream (R242). -/
structure Sub where
  stream : Nat
  base   : Nat
  slots  : Nat
  slotSz : Nat
  byThreads : Bool
  nextIn : Nat                           -- slot of the next delivery
  nextUse : Nat                          -- slot of the next MMA.S
  seqNo  : Nat
  inUse  : List Nat                      -- slots a matrix step still holds
  deriving DecidableEq, Repr

/-- An open or closed chain of the matrix engine (R113-R120).  Sums are listed at row · 128 + column. -/
structure Chain where
  id     : Nat
  wg     : Nat
  wix    : Nat
  lo     : Nat
  hi     : Nat
  bexp   : Option Int
  steps  : Nat
  left   : Nat                           -- steps not yet retired
  sums   : List (Nat × Int)
  clamped : List Nat
  nonfin : Bool
  prov   : Option Nat
  cancel : Bool
  mend   : Option Nat                    -- the MEND command, once closed
  dead   : Bool                          -- abandoned by retirement (R118)
  granted : Bool
  deriving DecidableEq, Repr

/-- What a workgroup is (R310, R321, R342). -/
inductive WgKind where
  | grid
  | wave
  | runWave (run : Nat) (place : Nat) (slots : List Nat)
  deriving DecidableEq, Repr

/-- Where a workgroup stands (R316, R323, R386). -/
inductive WgPlace where
  | resident
  | saved
  | moving                               -- on its way to `core`
  deriving DecidableEq, Repr

/-- Host.Cell pairs in one canonical form. -/
abbrev Memory := List Host.Cell

/-- What an unlisted address reads as: 0, or in HBM after the `n`th power loss an unstated byte (log 1). -/
def Memory.unlisted (lost : Option Nat) (pa : Nat) : Byte :=
  match lost with
  | none => 0
  | some n => if pa < 2 ^ 54 then Config.lostByte n pa else 0

/-- The canonical form: addresses strictly rise, and no entry equals what the address would read as unlisted. -/
def Memory.wf (lost : Option Nat) (m : Memory) : Bool :=
  tsorted m && m.all fun e => decide (e.2 ≠ Memory.unlisted lost e.1)

/-- A workgroup on a core (R15, R28, R121, R134). -/
structure Workgroup where
  launch : Word
  part   : Nat
  index  : Nat                           -- linear index in the launch (R316)
  gx     : Nat
  gy     : Nat
  gz     : Nat
  core   : Nat
  kind   : WgKind
  place  : WgPlace
  warps  : List Warp
  aOff   : Nat
  aSize  : Nat
  a      : Memory
  tags   : Table Bool                    -- by word index; an unlisted tag is empty
  aPoison : Table Nat                    -- poisoned words: tag + 1, by word index (R232)
  cbase  : Nat
  crows  : Nat
  gmat0  : Nat
  gmatN  : Nat
  bars   : Table Barrier
  baton  : Baton
  subs   : List Sub
  tasks  : Nat
  fetched : List (Word × Nat)            -- workgroups handed over by FETCHW: launch, index
  kills  : Nat                           -- earlier kills (R394)
  killed : Option Nat                    -- cause of the kill that ended this run (R393)
  inner  : Option Nat                    -- cause of the trap that a DOUBLE_TRAP stands for (R374; notes/assumptions/77.md)
  cancelled : Bool
  preempt : Bool
  seqNo  : Nat                           -- placement order
  origin : Nat                           -- workgroup of origin of a wave
  share  : Option Nat                    -- the workgroup whose A space it sees (R342), where not its own
  savedC : List (Nat × DWord)            -- C elements of a save record, by row · 128 + column relative to cbase
  savedMarks : List (Nat × Nat)          -- tags (+ 1) of the poisoned ones
  savedChains : List Chain               -- open chains of a save record, rows relative to cbase (R130)
  savedAttic : List (Nat × Nat × List Bool × Option Nat)  -- mat·2+axis, line, band cells, tag of a poisoned line
  savedDet : Option Nat                  -- the warp that held the core in deterministic mode (R385)
  deriving DecidableEq, Repr

/-- One slice of a collective COPY (R227). -/
structure Slice where
  wix : Nat
  seq : Nat                              -- issue order, for R184
  src : DWord
  dst : DWord
  len : Nat
  deriving DecidableEq, Repr

/-- Tree commands (R266). -/
inductive TreeOp where
  | on (base logn : Nat) (adopt : Bool) (beta serial0 : Word)
  | off
  | beta (bits : Word)
  | set (leaf : Nat) (prio : Word)
  | inval (leaf : Nat)
  | upd (list n : Nat)
  | draw (res : Nat) (seed : Word) (n : Nat)
  | sumRoot (dst : Nat)
  | sumLeaf (dst leaf : Nat)
  | clr
  deriving DecidableEq, Repr

/-- The parts of a format block that a step uses (R110). -/
structure Format where
  afmt  : Nat
  ablk  : Nat
  rows  : Nat
  asoff : Nat
  wfmt  : Nat
  tbase : Int                            -- value of the S register WTB names, read at issue (R114)
  bexp  : Int
  deriving DecidableEq, Repr

/-- What an engine command does. -/
inductive CmdBody where
  | copy (ssp dsp : Space) (k : Nat) (slices : List Slice) (accepted mismatch : Bool) (stage : Option Nat)
  | copyv (ssp : Space) (src : DWord) (reg len : Nat) (warps : List Nat)
  | gather (ssp : Space) (base : DWord) (list dst size n : Nat) (stage : Option Nat)
  | redcopy (ssp dsp : Space) (src dst : DWord) (n rop : Nat) (stage : Option Nat)
  | publish (stream addr len : Nat)
  | wstore (src : DWord) (mat g0 n : Nat)
  | wscrub (fix : Bool) (mat g0 n report : Nat) (nread ncorr nrewr nunc firstUnc maxBits : Nat)
  | mma (chain : Nat) (mat g0 q row0 : Nat) (fmt : Format) (src : Option Nat) (stream : Option Nat)
  | mend (chain : Nat)
  | grun (m0 k hdr row0 rowN col0 colN wcount done stop : Nat)   -- stop: 0 no, 1 now, 2 after the step under way
  | gread (axis mat row col dst n : Nat)
  | gwrite (axis mat line from_ src n : Nat)
  | gsnap (wear : Bool) (axis mat dst : Nat)
  | gration (axes m0 k : Nat) (ration : Word)
  | tree (id : Nat) (op : TreeOp) (out : List Byte) (stat count : Nat)   -- what acceptance left to deliver (R268)
  | runrec (obj : Nat) (pc : GAddr)
  | launch (form : Nat) (addr : Nat)
  | qprio (queue prio : Nat)
  | spawn (tasks : List (GAddr × Nat))   -- entry and address of the argument record
  | lvlcancel (id : Word) (started : Bool) (unplaced : Nat)
  deriving DecidableEq, Repr

/-- A registered range of an incomplete command (R183).  A ranges are of the command's workgroup. -/
structure RangeLock where
  space : Space
  lo    : Nat
  hi    : Nat                            -- one past the last byte, slot (mat · 11,520 + g) or row
  dest  : Bool
  seq   : Nat                            -- issue order (R184)
  deriving DecidableEq, Repr

/-- A word that a command is still to write to G space, and the tag it leaves (R166, R232). -/
structure Drip where
  unit : Nat
  key  : Option Nat
  pa   : Nat
  data : List Byte
  tag  : Option Nat
  deriving DecidableEq, Repr

/-- A command and its completion-table entry (R217, R218). -/
structure Cmd where
  wg      : Nat
  wix     : Nat
  core    : Nat
  part    : Nat
  kind    : Nat                          -- KIND of the status word
  body    : CmdBody
  entry   : Bool                         -- it holds a completion-table entry
  status  : DWord                        -- 0 while PENDING
  promise : Option DWord
  tokens  : List (Nat × Nat)             -- (WIX, k)
  prs     : List (Nat × Nat × Nat)       -- (WIX, S index of the promise pair, pending result)
  locks   : List RangeLock
  units   : List Nat                     -- granules, slots or elements already done
  out     : List Drip                    -- their words still to be written
  cancel  : Bool
  landed  : Option Nat                   -- CLK at which locks were released and the stage counted (R224)
  overrun : Bool                         -- OVERRUN of its stage (R210); of a matrix step, NONFINITE (R117)
  failed  : Option Nat                   -- cause of a FAULT met
  prov    : Option Nat                   -- lowest provenance tag met
  tr      : List (Nat × TrOutcome)
  walk    : Option Nat
  granted : Bool
  since   : Nat                          -- CLK of acceptance
  holders : List (Nat × Nat)             -- participants (WIX, H) of a collective, for R246
  after   : List (Nat × Nat)             -- (WIX, access) issued before it and still to be performed (R178)
  deriving DecidableEq, Repr

/-- One attic cell: its bit, the CLK tick of its last write (before 0 where a reset came between), and whether its value has
been lost (R153). -/
structure ACell where
  bit  : Bool
  time : Int
  lost : Bool
  deriving DecidableEq, Repr

/-- Gate state of one attic (R147).  Lines are offsets from 0xF00; a logical line not listed in `map` is on its own number. -/
structure Attic where
  map     : Table Nat
  free    : List Nat
  wear    : Table Nat
  assign  : Table Nat
  retired : Table Bool
  lasting : Table Bool
  poison  : Table Nat                    -- by logical line: tag + 1
  ration  : Word
  deriving DecidableEq, Repr

/-- Count and window start of corrected errors (R399). -/
structure Corr where
  count : Nat
  since : Nat
  deriving DecidableEq, Repr

/-- A pending task (R320): origin workgroup, entry, argument words, push time, and the frame of a run. -/
structure Task where
  origin : Nat
  entry  : GAddr
  args   : List Word
  since  : Nat
  run    : Nat                           -- 0, or the run's command
  slot   : Nat
  deriving DecidableEq, Repr

/-- An entry of the ready queue (R325). -/
structure Rq where
  w     : WarpRef
  count : Nat
  deriving DecidableEq, Repr

/-- The lane scheduler of a core (R325, R329). -/
structure Sched where
  cycle    : Nat
  active   : List (WarpRef × Nat)        -- with the lane cycle of entry
  rq       : List Rq
  swapped  : List (WarpRef × Nat)
  arrived  : List WarpRef                -- warps outside the active set and RQ whose events have arrived, in order
  tied     : List Nat                    -- lane cycles until which warps that left the active set still hold a lane
  lastSwap : Nat
  blocked  : List WarpRef                -- active warps whose long wait found RQ empty
  detRun   : Option WarpRef
  yielded  : Option WarpRef
  deriving DecidableEq, Repr

/-- A read that waits for a step boundary of a gate run (R151): a thread's LDW by its pending result, or a command. -/
structure GateRead where
  mat  : Nat
  w    : Option (WarpRef × Nat)
  cmd  : Nat
  lane : Nat
  addr : Nat
  dest : List RegKey
  deriving DecidableEq, Repr

/-- A cached translation (R355): partition, virtual page address, size in bits, entry. -/
structure Tlb where
  part : Nat
  va   : Nat
  bits : Nat
  pte  : DWord
  deriving DecidableEq, Repr

/-- A core (R13). -/
structure Core where
  c        : Table DWord                 -- at row · 128 + column
  cTag     : Table Nat                   -- poisoned elements: tag + 1, at the same places (R389)
  band     : Table (BitVec 1280)         -- at mat · 11,520 + g
  flips    : Table (BitVec 1280)
  slotTag  : Table Nat                   -- poisoned slots: tag + 1
  attic    : Table ACell                 -- at ((mat · 2 + axis) · 256 + line) · 4,096 + x
  wiped    : Int                         -- CLK tick of the last write of every attic cell not listed
  gates    : Table Attic                 -- at mat · 2 + axis
  corr     : Table Corr
  lasting  : Table Bool
  spares   : Table Nat                   -- spare rows used, by mat; at 160 those of the A SRAM, at 161 spare register groups
  worn     : List Nat                    -- lasting register-file groups still to be spared (R400)
  sched    : Sched
  chains   : List Chain                  -- in MBEGIN order
  reads    : List GateRead
  tasks    : List Task
  tlb      : List Tlb
  fence    : Nat                         -- history mark of the last CODEFENCE that covers the core
  gated    : Bool
  wakeAt   : Option Nat
  progress : Nat
  deriving DecidableEq, Repr

/-- A record at the roundabout (R244, R245). -/
structure Record where
  bytes : List Byte
  marks : List (Nat × Nat × Nat)         -- poisoned parts: offset, bytes, tag (R232)
  todo  : List Nat                       -- subscribers still to receive it
  deriving DecidableEq, Repr

/-- A frame of a run (R337, R338). -/
structure Frame where
  parent : Option Nat
  cidx   : Nat
  depth  : Nat
  nchild : Nat
  ndone  : Nat
  state  : Nat
  bound  : Option Nat
  kids   : List Nat                      -- slots of its children in index order
  deriving DecidableEq, Repr

/-- A run of the unfolding engine (R343). -/
structure Run where
  cmd    : Nat
  wg     : Nat
  dive   : GAddr
  basee  : GAddr
  combe  : GAddr
  arena  : Nat
  slots  : Nat
  arSize : Nat
  fs     : Nat
  maxD   : Nat
  swd    : Nat
  local_ : Bool
  lbud   : Nat
  frames : Table Frame                   -- by slot; a slot not listed is FREE
  frontier : List Nat                    -- frames of the breadth phase's level, or the bound frames
  depth  : Nat
  waiting : List Nat                     -- frames whose divide of the level has not ended
  running : List Nat                     -- frames with a task pushed or running
  ended  : List (Nat × Nat)              -- tasks that have ended: frame and V0 (2^33: its wave was killed, 2^34: cancelled)
  allocs : Nat
  failed : Option (Cause × Nat)          -- the first failure and the CLK tick of it
  prov   : Option Nat
  tainted : Bool                         -- a routine stored into a header (R337)
  deriving DecidableEq, Repr

/-- A cluster unit (R13). -/
structure Cluster where
  d        : Nat                         -- delivered pulses of 16 (R418)
  streams  : Table (List Record)
  asks     : List (Nat × Nat × Bool)     -- leave requests in order: command or chain, charge, is a chain
  grants   : List (Nat × Nat × Bool)
  power    : Nat                         -- power record of the pattern under way (R330)
  record   : Nat                         -- that of the last pattern
  flux     : Nat                         -- estimated local heat flux, W/cm² (R420)
  marks    : Table DWord
  tlb      : List Tlb
  runs     : List Run
  deriving DecidableEq, Repr

/-- A tree slot (R262-R271). -/
structure Tree where
  part   : Nat
  base   : Nat
  logn   : Nat
  beta   : Word
  leaves : Table DWord
  serial : Word
  stale  : Word
  nvalid : Nat
  tainted : Bool
  poison : Option Nat
  deriving DecidableEq, Repr

/-- A partition descriptor (R349). -/
structure Partition where
  clmask  : BitVec 48
  qmask   : DWord
  frames  : List Nat
  kslot0  : Nat
  kslotN  : Nat
  wshare  : Nat
  floor   : Nat
  ctxroot : Nat
  fq      : Nat
  cq      : Nat
  kek     : BitVec 256
  tmask   : DWord
  hashCfg : BitVec 384
  nextFid : Nat
  deriving DecidableEq, Repr

/-- Who waits for a page walk (R355, R357). -/
inductive Joiner where
  | warp (w : WarpRef)
  | cmd (c : Nat)
  deriving DecidableEq, Repr

inductive WalkState where
  | walking
  | faulted                              -- a record is due
  | parked (fid : Nat)
  deriving DecidableEq, Repr

/-- A page walk (R354). -/
structure Walk where
  die   : Nat
  part  : Nat
  va    : Nat
  kind  : Nat                            -- 0 read, 1 write or atomic, 2 fetch, 3 engine
  core  : Nat
  joined : List Joiner
  state : WalkState
  deriving DecidableEq, Repr

/-- A launch record (R310). -/
structure LaunchRec where
  entry : GAddr
  nx : Nat
  ny : Nat
  nz : Nat
  warps : Nat
  nthr : Nat
  vallot : Nat
  sallot : Nat
  asize : Nat
  stack : Nat
  crows : Nat
  gmat0 : Nat
  gmatN : Nat
  sbcheck : Bool
  trapsat : Bool
  det : Bool
  idem : Bool
  queue : Nat
  waitOn : List Word
  graph : Word
  wdog : Nat
  wallns : Nat
  param : List Word
  deriving DecidableEq, Repr

/-- A launch (R311): its record, its link-table base (R431) and its unplaced workgroups. -/
structure Launch where
  rec_   : LaunchRec
  ltbase : GAddr
  mark   : Nat                           -- length of the value history when it became visible (R181)
  first  : Option Nat                    -- the same at the placement of its first workgroup
  order  : Nat                           -- acceptance order
  next   : Nat                           -- next linear index never handed out
  back   : List (Nat × Nat)              -- indices that came back unplaced, with their kills so far
  since  : Option Nat                    -- TIME since which its head is eligible and unplaced
  passed : Bool                          -- passed over for 1 ms: room is reserved (R316)
  clear  : Option Nat                    -- the core on which workgroups are pre-empted for its head (R385)
  deriving DecidableEq, Repr

/-- A level (R17, R308). -/
structure Level where
  id     : Word
  part   : Nat
  counter : Nat
  total  : Nat
  given  : Nat                           -- children submitted
  parent : Option Word
  cancelled : Bool
  order  : Nat
  launch : Option Launch
  deriving DecidableEq, Repr

/-- A FETCHW request on its way (R318). -/
structure Fetch where
  w      : WarpRef
  launch : Word
  addr   : Nat
  deriving DecidableEq, Repr

/-- A waiting lane registered at a home slice (R212): its wait condition stands in the warp. -/
structure WaitEntry where
  pa    : Nat
  part  : Nat
  w     : WarpRef
  lane  : Nat
  shared : Bool                          -- shares the entry of an earlier lane
  deriving DecidableEq, Repr

structure Clock where
  clk    : Nat
  k      : Int                           -- CLK - 3 TIME (R11)
  locked : Bool
  stepped : Bool                         -- the single step of R10 has been made
  masters : Table Nat                    -- master cycles of a die since reset release (R418)
  dumped  : Nat                          -- the ms of TIME whose marker dump was written last (R422)
  good   : Nat                           -- consecutive sync intervals within 50 ns (R419)
  lastSync : Nat
  deriving DecidableEq, Repr

inductive BootStage where
  | held | failed (step : Nat) | loaded | trained | running
  deriving DecidableEq, Repr

structure Boot where
  stage : BootStage
  mboot : BitVec 384
  mfirm : BitVec 384
  chl   : Option (Nat × Nat)             -- lanes, speed
  ports : Table (Nat × Nat)
  replays : Table Nat
  poolKey : Option (BitVec 512)          -- drawn at boot, held by no slot (R387, R414)
  deriving DecidableEq, Repr

/-- A value that a write replaced: its doubleword, and which of its two words were written (R182, R299). -/
structure Held where
  dword : Nat
  val   : DWord
  lo    : Bool
  hi    : Bool
  deriving DecidableEq, Repr

/-- What belongs to G memory beside its bytes. -/
structure GMeta where
  lost   : Option Nat                    -- after a power loss: its number
  losses : Nat
  seals  : Table (BitVec 512)            -- by granule: the key it is stored under; unlisted is plain
  poison : Table (Nat × BitVec 32)       -- by sector: tag, bytes written since
  hist   : List Held                     -- newest first
  deriving DecidableEq, Repr

/-- A record for an error queue that waits for room (R391). -/
structure ErrRec where
  part : Nat
  kind : Nat
  prov : Nat
  fid  : Nat
  addr : Nat
  cause : Nat
  core : Nat
  time : Nat
  deriving DecidableEq, Repr

structure Power where
  req   : Nat
  cap   : Nat
  idle  : Nat
  evSeq : Nat
  evDrop : Nat
  deriving DecidableEq, Repr

/-- An enabled submission ring or control queue: its SIZE and HEAD as the device holds them, and the last TAIL seen (R361,
R416). -/
structure Ring where
  size : Nat
  head : Nat
  seen : Nat
  deriving DecidableEq, Repr

structure Jobs where
  prio   : Table Nat
  ring   : Table Ring                    -- launch queues, from 64 on the control queues of partitions, at 72 the module's
  gens   : Table Nat                     -- last GEN of a slot
  orders : Nat
  fetches : Table Fetch
  pool   : Nat                           -- bytes of the save pool in use
  deriving DecidableEq, Repr

structure Errs where
  parks  : List (ErrRec × WarpRef)       -- PARK records not yet written
  parked : List (Nat × Nat × WarpRef)    -- partition, fault id, warp
  dropped : Table Nat
  tails  : Table Nat                     -- TAIL of a queue the device writes, by the address of its header (R358, R370, R391)
  hbmCorr : Table Corr                   -- by HBM row (R399)
  hbmLasting : Table Bool
  deriving DecidableEq, Repr

/-- An action: an instruction of a warp, a row of the table, one unit of a command's work, one control-queue record, one
master cycle of a die, one CLK tick. -/
inductive Act where
  | issue (w : WarpRef)                  -- placed from outside: it comes before anything else
  | turn (w : WarpRef)                   -- the scheduler's: the warp starts its next instruction
  | row (i : Instr)
  | deposit (cmd unit : Nat)
  | ctrl (queue : Nat)
  | master (die : Nat)
  | pulse (die slot : Nat)               -- the clusters that a master cycle is delivered in run a lane cycle
  | tick
  deriving DecidableEq, Repr

/-- The machine. -/
structure State where
  agenda : List Act                      -- decided actions and inputs from outside, in order (the model's own)
  cur    : WarpRef                       -- the warp whose instruction executes (the model's own)
  fresh  : Nat                           -- counter of free values and of entry numbers (the model's own)
  clock  : Clock
  boot   : Boot
  mem    : Memory
  gmeta  : GMeta
  parts  : Table Partition
  keys   : Table (BitVec 512)
  walks  : Table Walk
  waits  : List WaitEntry
  queues : Table (List (WarpRef × Nat))  -- by physical address of a queue record: linked lanes
  levels : Table Level                   -- by KIND and SLOT of the id, its bits [31:16]
  jobs   : Jobs
  wgs    : Table Workgroup
  cores  : Table Core
  clus   : Table Cluster
  trees  : Table Tree
  cmds   : Table Cmd
  errs   : Errs
  power  : Power
  replies : List (Nat × List Byte)       -- what host and peer reads returned
  veil   : Option Veil                   -- the model's own (notes/assumptions/46.md)
  deriving DecidableEq, Repr

/-- Delivery state of an attic (R147). -/
def Attic.delivered : Attic :=
  { map := [], free := (List.range 64).map (· + 0xC0), wear := [], assign := [], retired := [], lasting := [], poison := [], ration := 0 }

def Sched.empty : Sched :=
  { cycle := 0, active := [], rq := [], swapped := [], arrived := [], tied := [], lastSwap := 0, blocked := [], detRun := none, yielded := none }

/-- A core with nothing resident. -/
def Core.empty : Core :=
  { c := [], cTag := [], band := [], flips := [], slotTag := [], attic := [], wiped := 0, gates := [], corr := [], lasting := [], spares := [], worn := [],
    sched := Sched.empty, chains := [], reads := [], tasks := [], tlb := [], fence := 0, gated := false,
    wakeAt := none, progress := 0 }

/-- A cluster unit at rest; d = 16 at reset is the model's (log 7). -/
def Cluster.empty : Cluster :=
  { d := 16, streams := [], asks := [], grants := [], power := 0, record := 0, flux := 0, marks := [], tlb := [], runs := [] }

def Barrier.clear : Barrier := { phase := 0, pmask := none, arr := 0 }

/-- The machine right after reset (R413, R414, R368, R316). -/
def State.reset : State :=
  { agenda := [], cur := { wg := 0, wix := 0 }, fresh := 1,
    clock := { clk := 0, k := 0, locked := false, stepped := false, good := 0, lastSync := 0, masters := [], dumped := 0 },
    boot := { stage := .held, mboot := 0, mfirm := 0, chl := none, ports := [], replays := [], poolKey := none },
    mem := [], gmeta := { lost := none, losses := 0, seals := [], poison := [], hist := [] },
    parts := [], keys := [], walks := [], waits := [], queues := [], levels := [],
    jobs := { prio := [], ring := [], gens := [], orders := 0, fetches := [], pool := 0 },
    wgs := [], cores := [], clus := [], trees := [], cmds := [],
    errs := { parks := [], parked := [], dropped := [], tails := [], hbmCorr := [], hbmLasting := [] },
    power := { req := 2000000, cap := 2000000, idle := 0, evSeq := 0, evDrop := 0 }, replies := [], veil := none }

end Sys2Proof.Machine
end

