-- ==== Sys2Proof/Machine/Ops.lean ====
section
/-!
DEFINITION. Ops.lean: the named operations over the state: finding and changing a workgroup, warp, core and cluster; free
values; registers and lanes; the bytes of memory; translation; the queues of a partition; killing a workgroup; taking a
trap and returning from one.
-/
namespace Sys2Proof.Machine

/-- The outcome of a step. -/
abbrev Res := Host.Outcome State Fault Refusal

/-! Finding and changing -/

/-- What a missing workgroup reads as. -/
def Workgroup.blank : Workgroup :=
  { launch := 0, part := 0, index := 0, gx := 0, gy := 0, gz := 0, core := 0, kind := .grid, place := .resident, warps := []
    aOff := 0, aSize := 0, a := [], tags := [], aPoison := [], cbase := 0, crows := 0, gmat0 := 0, gmatN := 0, bars := []
    baton := { holder := none, reserved := none }, subs := [], tasks := 0, fetched := [], kills := 0, killed := none, inner := none
    cancelled := false, preempt := false, seqNo := 0, origin := 0, share := none, savedC := [], savedMarks := [], savedChains := [], savedAttic := [], savedDet := none }

def State.wg (s : State) (g : Nat) : Workgroup := (tfind s.wgs g).getD Workgroup.blank
/-- The workgroup that holds the A space of a workgroup, and that A space (R342). -/
def State.home (s : State) (g : Nat) : Nat := (s.wg g).share.getD g
def State.asp (s : State) (g : Nat) : Workgroup := s.wg (s.home g)
def State.warp? (s : State) (w : WarpRef) : Option Warp := (tfind s.wgs w.wg).bind fun g => g.warps[w.wix]?
def State.modWg (s : State) (g : Nat) (f : Workgroup → Workgroup) : State := { s with wgs := tmodify s.wgs g f }
def State.modA (s : State) (g : Nat) (f : Workgroup → Workgroup) : State := s.modWg (s.home g) f
def State.modWarp (s : State) (w : WarpRef) (f : Warp → Warp) : State :=
  s.modWg w.wg fun g => { g with warps := g.warps.modify w.wix f }
def State.setWarp (s : State) (w : WarpRef) (x : Warp) : State := s.modWarp w fun _ => x
def State.core (s : State) (c : Nat) : Core := tgetD Core.empty s.cores c
def State.modCore (s : State) (c : Nat) (f : Core → Core) : State := { s with cores := tput s.cores c (f (s.core c)) }
def State.cluster (s : State) (c : Nat) : Cluster := tgetD Cluster.empty s.clus c
def State.modClu (s : State) (c : Nat) (f : Cluster → Cluster) : State :=
  { s with clus := tput s.clus c (f (s.cluster c)) }
def State.modCmd (s : State) (c : Nat) (f : Cmd → Cmd) : State := { s with cmds := tmodify s.cmds c f }

/-- Rows of C space become 0 (R121, R123). -/
def Core.clearC (k : Core) (lo n : Nat) : Core :=
  let out (i : Nat) : Bool := !(lo * 128 ≤ i && i < (lo + n) * 128)
  { k with c := k.c.filter fun x => out x.1, cTag := k.cTag.filter fun x => out x.1 }
/-- Elements of C space are written, and are poisoned no longer (R389). -/
def Core.putC (k : Core) (l : List (Nat × DWord)) : Core :=
  { k with c := l.foldl (fun t x => tsetD 0 t x.1 x.2) k.c, cTag := if k.cTag.isEmpty then [] else k.cTag.filter fun e => !l.any fun x => x.1 = e.1 }
/-- The tag of a poisoned element. -/
def Core.tagC (k : Core) (i : Nat) : Option Nat := (tfind k.cTag i).map (· - 1)

/-- Cores and clusters of a unit (R13). -/
def cluOf (core : Nat) : Nat := core / 8
def dieOf (clu : Nat) : Nat := clu / 24

/-- TIME (R11), taken modulo 2^64; CLK passing 2^64 takes it along (notes/assumptions/78.md). -/
def State.time (s : State) : Nat := (((s.clock.clk : Int) - s.clock.k).toNat / 3) % 2 ^ 64

/-! Free values (R434; notes/assumptions/2.md) -/

/-- One of `k` outcomes that the manual leaves open. -/
def State.pick (s : State) (k : Nat) : Nat × State :=
  if k ≤ 1 then (0, s) else (Config.choose s.fresh % k, { s with fresh := s.fresh + 1 })
/-- An unspecified word. -/
def State.freeWord (s : State) : Word × State := (Config.freeWord s.fresh, { s with fresh := s.fresh + 1 })
/-- A number not used before. -/
def State.newId (s : State) : Nat × State := (s.fresh, { s with fresh := s.fresh + 1 })

/-! Threads (R16, R24) -/

def maskLanes (m : Mask) : List Nat := (List.range 32).filter fun i => m.getLsbD i
def laneMask (ls : List Nat) : Mask := ls.foldl (fun m i => m ||| (1#32 <<< i)) 0
/-- Threads of a warp of `n` threads (R15). -/
def firstThreads (n : Nat) : Mask := BitVec.ofNat 32 (2 ^ (min n 32) - 1)
def Warp.present (w : Warp) : Mask := ~~~(w.never ||| w.exited)
def Warp.active (w : Warp) : Mask := w.em &&& w.present

/-! Registers and their fixed-latency results (R18, R47-R50) -/

def Warp.stored (w : Warp) : RegKey → Word
  | .v r t => tgetD 0 w.v (32 * r + t)
  | .s r => tgetD 0 w.s r
  | .p k t => if k = 7 then 1 else if (tgetD (0 : Mask) w.p k).getLsbD t then 1 else 0

/-- Store a register value; P7 ignores writes (R18). -/
def Warp.store (w : Warp) (k : RegKey) (x : Word) : Warp :=
  match k with
  | .v r t => { w with v := tsetD 0 w.v (32 * r + t) x }
  | .s r => { w with s := tsetD 0 w.s r x }
  | .p k t =>
    if k = 7 then w
    else
      let old := tgetD (0 : Mask) w.p k
      let bit := 1#32 <<< t
      { w with p := tsetD 0 w.p k (if x.getLsbD 0 then old ||| bit else old &&& ~~~bit) }

/-- Every fixed-latency result available by lane cycle `t` is in its register, oldest first (R50), and every flag
raised before it is set (R25). -/
def Warp.settle (w : Warp) (t : Nat) : Warp :=
  let w1 := w.flights.foldr (fun fl w => if fl.avail ≤ t then w.store fl.key fl.val else w) w
  { w1 with
    flights := w.flights.filter fun fl => decide (t < fl.avail)
    status := w.flagsIn.foldl (fun st fl => if fl.avail < t then st ||| fl.flags else st) w.status
    flagsIn := w.flagsIn.filter fun fl => decide (t ≤ fl.avail) }

/-- Every fixed-latency result of the warp becomes available (R47). -/
def Warp.settleAll (w : Warp) : Warp :=
  let w1 := w.flights.foldr (fun fl w => w.store fl.key fl.val) w
  { w1 with flights := [], status := w.flagsIn.foldl (fun st fl => st ||| fl.flags) w.status, flagsIn := [] }

/-- A read at lane cycle `t`, and whether the newest result was not yet available (R48). -/
def Warp.readAt (w : Warp) (k : RegKey) (t : Nat) : Word × Bool :=
  match w.flights.find? fun fl => fl.key = k with
  | none => (w.stored k, false)
  | some fl =>
    if fl.avail ≤ t then (fl.val, false)
    else match w.flights.find? fun fl => fl.key = k && fl.avail ≤ t with
      | some old => (old.val, true)
      | none => (w.stored k, true)

/-- P7 discards what is written to it (R18). -/
def RegKey.constant : RegKey → Bool
  | .p k _ => k = 7
  | _ => false

/-- A fixed-latency result on its way; no later write lands before an earlier one (R50). -/
def Warp.launch (w : Warp) (k : RegKey) (x : Word) (avail : Nat) : Warp :=
  if k.constant then w else
  let last := w.flights.foldl (fun m fl => if fl.key = k then max m fl.avail else m) avail
  { w with flights := { key := k, val := x, avail := last } :: w.flights }

/-- A value that lands in its register after every earlier result of that register (R49, R50). -/
def Warp.land (w : Warp) (k : RegKey) (x : Word) : Warp :=
  ({ w with flights := w.flights.filter fun fl => decide (fl.key ≠ k) }).store k x

/-- Registers with results still to come (R49). -/
def Warp.isPending (w : Warp) (keys : List RegKey) : Bool :=
  w.pends.any fun p => p.keys.any fun k => keys.contains k

/-- Every access the warp has issued has been performed. -/
def Warp.drained (w : Warp) : Bool := w.accs.isEmpty

/-! The launch of a workgroup (R310) -/

/-- The key of a level: KIND and SLOT of its id, GEN left out (R308). -/
def levelKey (id : Word) : Nat := id.toNat / 65536

def State.level? (s : State) (id : Word) : Option Level :=
  (tfind s.levels (levelKey id)).bind fun l => if l.id = id then some l else none
def State.launch? (s : State) (id : Word) : Option Launch := (s.level? id).bind (·.launch)
def State.modLevel (s : State) (id : Word) (f : Level → Level) : State :=
  { s with levels := tmodify s.levels (levelKey id) f }
/-- A flag of the launch record of a workgroup (R310). -/
def State.flag (s : State) (g : Nat) (f : LaunchRec → Bool) : Bool :=
  match (tfind s.wgs g).bind fun wg => s.launch? wg.launch with
  | some l => f l.rec_
  | none => false

/-! Bytes of memory by physical address, and the keys granules are stored under (R4, R351, R364) -/

def State.rawByte (s : State) (pa : Nat) : Byte := tgetD (Memory.unlisted s.gmeta.lost pa) s.mem pa
def State.putByte (s : State) (pa : Nat) (b : Byte) : State :=
  { s with mem := tsetD (Memory.unlisted s.gmeta.lost pa) s.mem pa b }

/-- The key value of a key slot (R365). -/
def State.keyOf (s : State) (slot : Option Nat) : Option (BitVec 512) := slot.map fun n => tgetD 0 s.keys n

/-- The 32 bytes of a granule as a page with key `k` reads them (R364). -/
def State.viewGranule (s : State) (k : Option (BitVec 512)) (g : Nat) : List Byte :=
  let raw := (List.range 32).map fun i => s.rawByte (32 * g + i)
  match tfind s.gmeta.seals g, k with
  | none, none => raw
  | none, some k => xtsDecrypt k g raw
  | some k', none => xtsEncrypt k' g raw
  | some k', some k => if k' = k then raw else xtsDecrypt k g (xtsEncrypt k' g raw)

def State.viewByte (s : State) (k : Option (BitVec 512)) (pa : Nat) : Byte :=
  if tfind s.gmeta.seals (pa / 32) = k then s.rawByte pa else byteAt (s.viewGranule k (pa / 32)) (pa % 32)

/-- The `n` bytes at a physical address, under the key of a page. -/
def State.view (s : State) (slot : Option Nat) (pa n : Nat) : List Byte :=
  let k := s.keyOf slot
  (List.range n).map fun i => s.viewByte k (pa + i)

/-- The granule is stored under key `k` from now on, with the bytes that a page under `k` reads. -/
def State.reseal (s : State) (k : Option (BitVec 512)) (g : Nat) : State :=
  if tfind s.gmeta.seals g = k then s
  else
    let bs := s.viewGranule k g
    let s1 := (List.range 32).foldl (fun s i => s.putByte (32 * g + i) (byteAt bs i)) s
    { s1 with gmeta := { s1.gmeta with seals := match k with | none => terase s1.gmeta.seals g | some x => tput s1.gmeta.seals g x } }

/-- A byte written stops its sector being poisoned once all 32 have been (R390). -/
def GMeta.wrote (m : GMeta) (pa : Nat) : GMeta :=
  match tfind m.poison (pa / 32) with
  | none => m
  | some (tag, done) =>
    let done' := done ||| (1#32 <<< (pa % 32))
    if done' = BitVec.allOnes 32 then { m with poison := terase m.poison (pa / 32) }
    else { m with poison := tput m.poison (pa / 32) (tag, done') }

/-- The doublewords that `n` bytes at `pa` touch. -/
def dwordsOf (pa n : Nat) : List Nat := if n = 0 then [] else (List.range ((pa + n - 1) / 8 - pa / 8 + 1)).map (· + pa / 8)

/-- Write bytes at a physical address and keep the values replaced (R182, R299). -/
def State.writeBytes (s : State) (slot : Option Nat) (pa : Nat) (bs : List Byte) : State :=
  let k := s.keyOf slot
  let old : List Held := (dwordsOf pa bs.length).map fun d =>
    { dword := d, val := BitVec.ofNat 64 (ofBytes ((List.range 8).map fun i => s.viewByte k (8 * d + i)))
      lo := pa < 8 * d + 4, hi := 8 * d + 4 < pa + bs.length }
  let s1 := { s with gmeta := { s.gmeta with hist := old ++ s.gmeta.hist } }
  bs.zipIdx.foldl
    (fun s (b, i) =>
      let s2 := (s.reseal k ((pa + i) / 32)).putByte (pa + i) b
      { s2 with gmeta := s2.gmeta.wrote (pa + i) }) s1

/-- The lowest provenance tag of the poisoned sectors that a range touches (R389). -/
def State.poisonAt (s : State) (pa n : Nat) : Option Nat :=
  s.gmeta.poison.foldl
    (fun acc (sec, tag, _) =>
      if 32 * sec < pa + n && pa < 32 * sec + 32 then
        match acc with | none => some tag | some t => some (min t tag)
      else acc) none

/-- The lower of two provenance tags (R389). -/
def lowerTag : Option Nat → Option Nat → Option Nat
  | none, t => t
  | t, none => t
  | some a, some b => some (min a b)

/-! Translation (R351-R356) -/

def pteV (e : DWord) : Bool := e.getLsbD 0
def pteLeaf (e : DWord) : Bool := e.getLsbD 1
def pteRd (e : DWord) : Bool := e.getLsbD 2
def pteWr (e : DWord) : Bool := e.getLsbD 3
def pteEx (e : DWord) : Bool := e.getLsbD 4
def ptePlain (e : DWord) : Bool := e.getLsbD 5
def ptePa (e : DWord) : Nat := bitsOf e.toNat 8 48 * 256
def pteSlot (e : DWord) : Option Nat := if ptePlain e then none else some (bitsOf e.toNat 56 8)
/-- PA[55:54] (R351). -/
def paSpace (pa : Nat) : Nat := bitsOf pa 54 2
def paPort (pa : Nat) : Nat := bitsOf pa 51 3

/-- What a walk finds (R354). -/
inductive Found where
  | page (bits : Nat) (pte : DWord)
  | fault
  | bad
  deriving DecidableEq, Repr

/-- A frame of the partition (R349). -/
def Partition.owns (p : Partition) (pa : Nat) : Bool := p.frames.contains (pa / 2 ^ 21)

/-- The page size in bits that a leaf of a level maps, and the alignment of the table a level's entry names (R352). -/
def levelPageBits (lvl : Nat) : Nat := if lvl = 0 then 16 else 21
def levelTableBits (lvl : Nat) : Nat := if lvl = 1 then 8 else 15
/-- The index of a level (R352). -/
def levelIndex (lvl va : Nat) : Nat :=
  if lvl = 3 then bitsOf va 45 12 else if lvl = 2 then bitsOf va 33 12 else if lvl = 1 then bitsOf va 21 12 else bitsOf va 16 5

/-- The entry breaks a rule of R353 or R354 at level `lvl`. -/
def pteBad (p : Partition) (lvl : Nat) (e : DWord) : Bool :=
  let pa := ptePa e
  let sp := paSpace pa
  bitsOf e.toNat 6 2 ≠ 0 || (lvl ≥ 2 && pteLeaf e) || (lvl = 0 && !pteLeaf e) || sp = 3 || (sp = 0 && !p.owns pa) ||
  (if pteLeaf e then
    pa % 2 ^ levelPageBits lvl ≠ 0 || (sp ≠ 0 && !ptePlain e) ||
    (sp = 0 && !ptePlain e && !(p.kslot0 ≤ bitsOf e.toNat 56 8 && bitsOf e.toNat 56 8 < p.kslot0 + p.kslotN))
  else bitsOf e.toNat 2 4 ≠ 0 || bitsOf e.toNat 56 8 ≠ 0 || pa % 2 ^ levelTableBits lvl ≠ 0 || sp ≠ 0)

/-- The levels of a walk from `lvls` on, at table `t` (R354). -/
def State.walkFrom (s : State) (p : Partition) (va : Nat) : List Nat → Nat → Found
  | [], _ => .bad
  | lvl :: rest, t =>
    let e := BitVec.ofNat 64 (ofBytes (s.view none (t + 8 * levelIndex lvl va) 8))
    if !pteV e then .fault
    else if pteBad p lvl e then .bad
    else if pteLeaf e then .page (levelPageBits lvl) e
    else s.walkFrom p va rest (ptePa e)

/-- The page walk of a partition (R354). -/
def State.walk (s : State) (part va : Nat) : Found :=
  match tfind s.parts part with
  | none => .bad
  | some p => s.walkFrom p va [3, 2, 1, 0] p.ctxroot

/-- A cached translation of an address. -/
def tlbFind (l : List Tlb) (part va : Nat) : Option Tlb :=
  l.find? fun t => t.part = part && t.va / 2 ^ t.bits = va / 2 ^ t.bits

/-- A translated address. -/
structure Trans where
  pte : DWord
  pa  : Nat
  deriving DecidableEq, Repr

def transOf (bits : Nat) (pte : DWord) (va : Nat) : Trans := { pte := pte, pa := ptePa pte + va % 2 ^ bits }

/-- The translation that the TLBs of a core's cluster hold (R355). -/
def State.tlbAt (s : State) (core part va : Nat) : Option Trans :=
  match tlbFind (s.core core).tlb part va with
  | some t => some (transOf t.bits t.pte va)
  | none => (tlbFind (s.cluster (cluOf core)).tlb part va).map fun t => transOf t.bits t.pte va

/-- The number of the 64 KiB page of an address. -/
def pageOf (va : Nat) : Nat := va / 65536

/-- An address as the caches or else the tables give it at this moment. -/
def State.transNow (s : State) (core part va : Nat) : Option Trans :=
  match s.tlbAt core part va with
  | some t => some t
  | none => match s.walk part va with
    | .page bits e => some (transOf bits e va)
    | _ => none

/-- A requester joins the walk of its page, or starts one (R355). -/
def State.joinWalk (s : State) (die part va kind core : Nat) (j : Joiner) : Nat × State :=
  match s.walks.find? fun e => e.2.die = die && e.2.part = part && pageOf e.2.va = pageOf va && (e.2.state = .walking || e.2.state = .faulted) with
  | some (id, _) => (id, { s with walks := tmodify s.walks id fun k => { k with joined := if k.joined.contains j then k.joined else k.joined ++ [j] } })
  | none =>
    let (id, s1) := s.newId
    (id, { s1 with walks := tput s1.walks id { die, part, va, kind, core, joined := [j], state := .walking } })

/-! Reading and writing registers of physical memory -/

def State.word (s : State) (slot : Option Nat) (pa : Nat) : Word := BitVec.ofNat 32 (ofBytes (s.view slot pa 4))
def State.dword (s : State) (slot : Option Nat) (pa : Nat) : DWord := BitVec.ofNat 64 (ofBytes (s.view slot pa 8))

/-- The comparison of WAITA (R212) on a value of `bytes` bytes. -/
def waitaCond (bytes mask cmp expect v : Nat) : Bool :=
  let w := 8 * bytes
  let u := Nat.land v mask
  let sg (n : Nat) : Int := (BitVec.ofNat w n).toInt
  match cmp with
  | 0 => u = expect
  | 1 => u ≠ expect
  | 2 => u < expect
  | 3 => expect ≤ u
  | 4 => sg u < sg expect
  | _ => sg expect ≤ sg u

/-- A value lands in the registers of a result, low word first. -/
def Warp.landAll (w : Warp) (keys : List RegKey) (v : Nat) : Warp :=
  keys.zipIdx.foldl (fun w (k, i) => w.land k (BitVec.ofNat 32 (v >>> (32 * i)))) w

/-- Lane `lane` of a lane wait finishes: its result lands and its predicate shows whether the condition held (R199). -/
def Warp.finishLane (w : Warp) (lane : Nat) (v : Option Nat) (ok : Bool) : Warp :=
  match w.wait with
  | some (.lanes ls) =>
    match ls.find? fun l => l.lane = lane && !l.finished with
    | none => w
    | some l =>
      let w1 := match v with | some x => w.landAll l.dest x | none => w
      let w2 := match l.pred with | some k => w1.land k (if ok then 1 else 0) | none => w1
      { w2 with wait := some (.lanes (ls.map fun x => if x.lane = lane then { x with finished := true } else x)) }
  | _ => w

/-- The lane waits of a warp. -/
def Warp.laneWait? (w : Warp) (lane : Nat) : Option LaneWait :=
  match w.wait with
  | some (.lanes ls) => ls.find? fun l => l.lane = lane && !l.finished
  | _ => none

/-- A write to a location is evaluated for every lane registered there (R212). -/
def State.wakeWaits (s : State) (pa n : Nat) : State :=
  s.waits.foldl
    (fun s e =>
      match (s.warp? e.w).bind (·.laneWait? e.lane) with
      | some l =>
        match l.kind with
        | .waita bytes mask cmp expect =>
          if e.pa < pa + n && pa < e.pa + bytes then
            let v := ofBytes (s.view l.key e.pa bytes)
            if waitaCond bytes mask cmp expect v then
              { s.modWarp e.w (fun w => w.finishLane e.lane (some v) true) with
                waits := s.waits.filter fun x => decide (x ≠ e) }
            else s
          else s
        | _ => s
      | none => { s with waits := s.waits.filter fun x => decide (x ≠ e) }) s

/-- Bytes of the image of a tree of 2^logn leaves (R262). -/
def treeBytes (logn : Nat) : Nat := 24 * 2 ^ logn

/-- A physical range lies in the image of a tree (R265). -/
def State.inTree (s : State) (t : Tree) (pa n : Nat) : Bool :=
  let pages := (List.range ((t.base + treeBytes t.logn - 1) / 65536 - t.base / 65536 + 1)).map fun i => t.base / 65536 + i
  pages.any fun p =>
    match s.walk t.part (p * 65536) with
    | .page bits e =>
      let lo := max t.base (p * 65536)
      let hi := min (t.base + treeBytes t.logn) (p * 65536 + 65536)
      let base := (transOf bits e (p * 65536)).pa
      base + lo % 65536 < pa + n && pa < base + lo % 65536 + (hi - lo)
    | _ => false

/-- A store to the region of a configured tree by another agent leaves it inconsistent (R265). -/
def State.taintTrees (s : State) (pa n : Nat) : State :=
  if s.trees.isEmpty then s
  else { s with trees := s.trees.map fun (i, t) => (i, if s.inTree t pa n then { t with tainted := true } else t) }

/-- A home slice performs a write (R167): the bytes, the lanes that wait there, and the trees it falls on. -/
def State.gWrite (s : State) (slot : Option Nat) (pa : Nat) (bs : List Byte) : State :=
  ((s.writeBytes slot pa bs).wakeWaits pa bs.length).taintTrees pa bs.length

/-! Queues of the runtime (R358, R361, R391) -/

def State.ringTail (s : State) (hdr : Nat) : Nat := (s.word none hdr).toNat
def State.ringHead (s : State) (hdr : Nat) : Nat := (s.word none (hdr + 4)).toNat
def State.ringSize (s : State) (hdr : Nat) : Nat := (s.word none (hdr + 8)).toNat
def isPow2To (n top : Nat) : Bool := n ≠ 0 && n ≤ top && Nat.land n (n - 1) = 0
/-- A physical range lies in frames of the partition (R349). -/
def Partition.holds (p : Partition) (pa n : Nat) : Bool :=
  (List.range ((pa + n - 1) / 2 ^ 21 - pa / 2 ^ 21 + 1)).all fun i => p.frames.contains (pa / 2 ^ 21 + i)
/-- TAIL of a queue that the device writes, where nobody else's stores reach it (R6): the header shows it, and holds the first. -/
def State.ownTail (s : State) (hdr : Nat) : Nat := (tfind s.errs.tails hdr).getD (s.ringTail hdr)
/-- Records in a ring, TAIL − HEAD as N32. -/
def State.ringUsed (s : State) (hdr : Nat) : Nat := (s.ownTail hdr + 2 ^ 32 - s.ringHead hdr) % 2 ^ 32
/-- A record of `n` bytes can be written (R358): SIZE is lawful, there is room, and a partition's queue stays in its frames (R349,
R350; notes/assumptions/79.md). -/
def State.ringRoom (s : State) (owner : Option Partition) (hdr n : Nat) : Bool :=
  let size := s.ringSize hdr
  isPow2To size 65536 && decide (s.ringUsed hdr < size) &&
    owner.all fun p => p.holds hdr 32 && p.holds (hdr + 32 + n * (s.ownTail hdr % size)) n
/-- Write a record at TAIL mod SIZE and advance TAIL (R358). -/
def State.ringPut (s : State) (hdr : Nat) (rec : List Byte) : State :=
  let t := s.ownTail hdr
  let s1 := (s.gWrite none (hdr + 32 + rec.length * (t % s.ringSize hdr)) rec).gWrite none hdr (toBytes 4 (t + 1))
  { s1 with errs := { s1.errs with tails := tput s1.errs.tails hdr ((t + 1) % 2 ^ 32) } }

/-- The error queue of a partition (R391). -/
def State.errQueue (s : State) (p : Partition) : Nat := p.fq + 32 * (s.ringSize p.fq + 1)

/-- The bytes of an error record (R391). -/
def errBytes (e : ErrRec) (dropped : Nat) : List Byte :=
  toBytes 32 (e.kind + e.prov % 4096 * 2 ^ 8 + e.fid % 2 ^ 32 * 2 ^ 32 + e.addr % 2 ^ 64 * 2 ^ 64 + e.cause % 256 * 2 ^ 128 +
    e.core % 512 * 2 ^ 136 + dropped % 65536 * 2 ^ 160 + e.time % 2 ^ 64 * 2 ^ 192)

/-- Write an error record, or drop and count it while the queue is full (R391). -/
def State.errRecord (s : State) (e : ErrRec) : State :=
  match tfind s.parts e.part with
  | none => s
  | some p =>
    let q := s.errQueue p
    let d := tgetD 0 s.errs.dropped e.part
    if s.ringRoom (some p) q 32 then
      let s1 := s.ringPut q (errBytes e d)
      { s1 with errs := { s1.errs with dropped := terase s1.errs.dropped e.part } }
    else { s with errs := { s.errs with dropped := tput s.errs.dropped e.part (d + 1) } }

/-! Leaving a wait, and killing a workgroup (R202, R393) -/

/-- The SPAWN that a warp waits with (R320). -/
def State.waitingSpawn (s : State) (w : WarpRef) : Option Nat :=
  match (s.warp? w).bind (·.wait) with | some (.spawn id) => some id | _ => none

/-- The queue links of a warp are removed, and NWAIT follows (R202, R214). -/
def State.unlink (s : State) (w : WarpRef) : State :=
  let key (pa : Nat) : Option Nat := match (s.warp? w).bind (·.wait) with
    | some (.lanes ls) => (ls.find? fun l => l.addr = pa && l.kind = .qwait).bind (·.key)
    | _ => none
  s.queues.foldl (fun (s : State) (q : Nat × List (WarpRef × Nat)) =>
    let l := q.2.filter fun x => decide (x.1 ≠ w)
    if l.length = q.2.length then s
    else { s with queues := tsetD [] s.queues q.1 l }.gWrite (key q.1) (q.1 + 4) (toBytes 2 l.length)) s

/-- The waits of a warp are withdrawn: entries and queue links go, and it performs nothing more of them (R202); a SPAWN
that waits for room is taken back. -/
def State.withdraw (s : State) (w : WarpRef) : State :=
  let taken := s.waitingSpawn w
  let s := (s.modWarp w fun x => match taken with | some id => { x with h := x.h.filter fun e => e.2 ≠ id } | none => x).unlink w
  { s with
    cmds := match taken with | some id => terase s.cmds id | none => s.cmds
    waits := s.waits.filter fun e => decide (e.w ≠ w)
    walks := s.walks.map fun (a, k) => (a, { k with joined := k.joined.filter fun j => decide (j ≠ .warp w) })
    errs := { s.errs with
      parks := s.errs.parks.filter fun x => decide (x.2 ≠ w)
      parked := s.errs.parked.filter fun x => decide (x.2.2 ≠ w) } }

/-- Every thread of a warp exits and the warp retires; accesses that write stay to be performed. -/
def Warp.retire (w : Warp) : Warp :=
  { w with exited := w.exited ||| w.present, em := 0, wait := none, tr := [], retired := true, defers := [], frame := none, h := [],
           accs := w.accs.filter fun a => decide (a.kind ≠ .read), pends := [] }

/-- The KIND of a status word (R218). -/
def statusStat (d : DWord) : Nat := bitsOf d.toNat 0 4

/-- Completed commands without a handle in their workgroup leave the table (R217). -/
def State.sweep (s : State) (g : Nat) : State :=
  let held := (s.wg g).warps.flatMap fun w => w.h.map (·.2)
  { s with cmds := s.cmds.filter fun c => !(c.2.wg = g && c.2.status ≠ 0 && (!c.2.entry || !held.contains c.1)) }

/-- Commands that have not completed are cancelled; a copy past its contribution ends as it was (R224, R237, R393). -/
def State.cancelCmds (s : State) (p : Cmd → Bool) : State :=
  { s with cmds := s.cmds.map fun (i, c) => (i, if p c && c.status = 0 && (c.landed.isNone || c.kind > 3) then { c with cancel := true } else c) }

/-- Change a run of the unfolding engine, in whichever cluster it is (R343). -/
def State.modRun (s : State) (id : Nat) (f : Run → Run) : State :=
  { s with clus := s.clus.map fun (i, k) => (i, { k with runs := k.runs.map fun r => if r.cmd = id then f r else r }) }

/-- Lanes of a wave have ended their tasks, each with a value of V0 (R322, R340). -/
def State.endTasks (s : State) (g : Nat) (ls : List (Nat × Nat)) : State :=
  let wg := s.wg g
  match wg.kind with
  | .grid => s
  | .wave => s.modWg wg.origin fun k => { k with tasks := k.tasks - ls.length }
  | .runWave run _ slots =>
    ls.foldl (fun s x => match slots[x.1]? with
      | some slot => (s.modWg wg.origin fun k => { k with tasks := k.tasks - 1 }).modRun run fun r => { r with ended := r.ended ++ [(slot, x.2)] }
      | none => s) s

/-- Every task of a wave whose lane is still present ends without a result (R315, R345). -/
def State.endWave (s : State) (g mark : Nat) : State :=
  match (s.wg g).warps with
  | w :: _ => s.endTasks g ((maskLanes w.present).map fun t => (t, mark))
  | [] => s

/-- Pending tasks leave their gatherers without running (R315, R345, R393). -/
def State.dropTasks (s : State) (p : Task → Bool) : State :=
  let gone := s.cores.flatMap fun k => k.2.tasks.filter p
  let s1 := { s with cores := s.cores.map fun (i, k) => (i, { k with tasks := k.tasks.filter fun t => !p t }) }
  gone.foldl (fun s t =>
    (s.modWg t.origin fun g => { g with tasks := g.tasks - 1 }).modRun t.run fun r => { r with running := r.running.filter (· ≠ t.slot) }) s1

/-- Every warp of a workgroup retires at once; its waits, baton, barriers and subscriptions go (R393). -/
def State.retireAll (s : State) (g : Nat) : State :=
  let refs := (List.range (s.wg g).warps.length).map fun i => ({ wg := g, wix := i } : WarpRef)
  let s1 := (refs.foldl State.withdraw (s.endWave g (2 ^ 33))).modWg g fun x =>
    { x with warps := x.warps.map Warp.retire, bars := [], baton := { holder := none, reserved := none }, subs := [] }
  let s2 := s1.cancelCmds fun c => c.wg = g
  (s2.sweep g).modClu (cluOf (s.wg g).core) fun c =>
    { c with streams := c.streams.map fun (i, rs) =>
        (i, (rs.map fun r => { r with todo := r.todo.filter (· ≠ g) }).filter fun r => !r.todo.isEmpty) }

/-- PROV of a KILL record (R391): the class of the unit whose error killed, where one did (R389, R392). -/
def killProv (cause : Nat) : Nat := if cause = Cause.aUncorr.code then 0x300 else if cause = Cause.regUncorr.code then 0x400 else 0

/-- Kill a workgroup: its warps and its waves end, its tasks go, one KILL record is written (R393). -/
def State.kill (s : State) (g : Nat) (cause addr : Nat) : State :=
  match tfind s.wgs g with
  | none => s
  | some wg =>
    if wg.killed.isSome then s
    else
      let s1 := (s.retireAll g).modWg g fun x => { x with killed := some cause }
      let waves := (s.wgs.filter fun x => x.1 ≠ g && x.2.kind ≠ .grid && x.2.origin = g).map (·.1)
      let s2 := waves.foldl (fun s i => (s.retireAll i).modWg i fun x => { x with cancelled := true }) (s1.dropTasks fun t => t.origin = g)
      s2.errRecord { part := wg.part, kind := 3, prov := killProv cause, fid := 0, addr := addr, cause := cause, core := wg.core, time := s.time }

/-! Split entries (R287) -/

/-- Pop the newest entry; extra lane cycles where K0-K7 empty and the cupboard refills (R287). -/
def Warp.popSplit (w : Warp) : Warp × Nat :=
  let rest := w.splits.drop 1
  if w.kUsed ≤ 1 then
    if rest.isEmpty then ({ w with splits := rest, kUsed := 0 }, 0) else ({ w with splits := rest, kUsed := 1 }, 4)
  else ({ w with splits := rest, kUsed := w.kUsed - 1 }, 0)

/-- Push an entry; extra lane cycles where the oldest of eight moves to the cupboard (R287). -/
def Warp.pushSplit (w : Warp) (e : Split) : Warp × Nat :=
  if w.kUsed ≥ 8 then ({ w with splits := e :: w.splits, kUsed := 8 }, 4)
  else ({ w with splits := e :: w.splits, kUsed := w.kUsed + 1 }, 0)

/-! Taking a trap and returning from one (R374-R381) -/

/-- What a trap reports (R375, R376). -/
structure TrapInfo where
  cause : Cause
  lane  : Nat  := 0
  mask  : Mask := 0
  defer : Bool := false
  ilen  : Nat  := 1
  after : Bool := false      -- NPC is PC + 8·ILEN
  hname : Word := 0
  info0 : Word := 0
  info1 : Word := 0
  info2 : Word := 0
  deriving DecidableEq, Repr

/-- The trap frame as 32 words (R375). -/
def trapFrame (w : Warp) (time : Nat) (x : TrapInfo) : List Word :=
  let npc := if x.after then w.pc + BitVec.ofNat 57 (8 * x.ilen) else w.pc
  let pbyte (i : Nat) : Nat :=
    (List.range 7).foldl (fun acc k => acc + if (tgetD (0 : Mask) w.p k).getLsbD i then 2 ^ k else 0) 0
  let pword (j : Nat) : Word :=
    BitVec.ofNat 32 (pbyte (4 * j) + 256 * pbyte (4 * j + 1) + 65536 * pbyte (4 * j + 2) + 16777216 * pbyte (4 * j + 3))
  [BitVec.ofNat 32 (x.cause.code + 256 * x.lane + (if x.defer then 8192 else 0) + 65536 * x.ilen + 2 ^ 18 * w.splits.length),
   x.mask, w.pc.truncate 32, (w.pc >>> 32).truncate 32, npc.truncate 32, (npc >>> 32).truncate 32,
   w.em, w.xi, w.status, w.tbase.zeroExtend 32, w.stored (.s 62), w.stored (.s 63),
   x.hname, x.info0, x.info1, x.info2] ++
  (List.range 8).map pword ++
  [BitVec.ofNat 32 time, BitVec.ofNat 32 (time / 2 ^ 32), 0, 0, 0, 0, 0, 0]

/-- A peer port that is not trained (R417). -/
def State.portDown (s : State) (pa : Nat) : Bool := paSpace pa = 2 && (tfind s.boot.ports (paPort pa)).isNone

/-- The handler of a warp: entry 0 of the link table at its base (R374), none where it cannot be read. -/
def State.handlerOf (s : State) (core part : Nat) (w : Warp) : DWord :=
  match s.transNow core part w.ltbase.toNat with
  | some t => if s.portDown t.pa then 0 else s.dword (pteSlot t.pte) t.pa
  | none => 0

/-- The lane cycles between a flushing instruction's start and the next start (R291). -/
def flushCycles : Nat := 10

/-- What a withdrawn wait leaves for the instruction that executes again: the arrival of a BAR (R253), the target of a SLEEP
(R303). -/
def keptWait (w : Warp) : Option Wait :=
  match w.wait with
  | some (.bar b) => some (.bar b)
  | some (.sleep t _) => some (.sleep t false)
  | _ => w.kept

/-- Take a trap (R374).  A second trap in handler mode and a bad handler address kill the workgroup. -/
def State.takeTrap (s : State) (r : WarpRef) (start : Nat) (x : TrapInfo) : State :=
  match tfind s.wgs r.wg, s.warp? r with
  | some wg, some w =>
    let h := s.handlerOf wg.core wg.part w
    if w.frame.isSome then (s.modWg r.wg fun g => { g with inner := some x.cause.code }).kill r.wg Cause.doubleTrap.code w.pc.toNat
    else if h = 0 || bitsOf h.toNat 57 7 ≠ 0 || bitsOf h.toNat 0 3 ≠ 0 || bitsOf h.toNat 32 25 ≠ bitsOf w.pc.toNat 32 25 then
      s.kill r.wg Cause.handlerBad.code w.pc.toNat
    else
      let s1 := s.withdraw r
      s1.modWarp r fun w =>
        let w1 := w.settleAll
        { w1 with
          frame := some (trapFrame w1 s.time x), em := w1.present, pc := h.truncate 57, wait := none, tr := []
          heldLanes := (match w.wait with | some (.lanes ls) => ls.filter (·.finished) | _ => w.doneLanes), doneLanes := []
          heldKept := keptWait w, kept := none
          next := max w1.next (start + flushCycles), atSafe := false }
  | _, _ => s

/-- Word `k` of a trap frame. -/
def frameWord (f : List Word) (k : Nat) : Word := f.getD k 0

/-- TRAPRET.RESUME may resume (R381). -/
def resumable (w : Warp) (f : List Word) : Bool :=
  let npc := (pairOf (frameWord f 4) (frameWord f 5)).toNat
  bitsOf npc 0 3 = 0 && bitsOf npc 57 7 = 0 && bitsOf npc 32 25 = bitsOf w.pc.toNat 32 25 &&
  w.splits.length = bitsOf (frameWord f 0).toNat 18 7

/-- The state that TRAPRET.RESUME restores (R381); P0-P6 in every present thread. -/
def Warp.resume (w : Warp) (f : List Word) : Warp :=
  let w1 := w.settleAll
  let pres := w1.present
  let pbit (t k : Nat) : Bool := (frameWord f (16 + t / 4)).getLsbD (8 * (t % 4) + k)
  let newP (k : Nat) : Mask := laneMask ((List.range 32).filter fun t => pbit t k)
  let w2 := (List.range 7).foldl (fun w k => { w with p := tsetD 0 w.p k ((tgetD (0 : Mask) w.p k &&& ~~~pres) ||| (newP k &&& pres)) }) w1
  let w3 := (w2.store (.s 62) (frameWord f 10)).store (.s 63) (frameWord f 11)
  { w3 with
    em := frameWord f 6 &&& pres, xi := frameWord f 7, status := frameWord f 8 &&& 0x7F
    tbase := (frameWord f 9).truncate 8, frame := none, heldLanes := [], heldKept := none
    doneLanes := if pairOf (frameWord f 4) (frameWord f 5) = pairOf (frameWord f 2) (frameWord f 3) then w.heldLanes else []
    kept := if pairOf (frameWord f 4) (frameWord f 5) = pairOf (frameWord f 2) (frameWord f 3) then w.heldKept else none
    pc := (pairOf (frameWord f 4) (frameWord f 5)).truncate 57 }

/-! Paths (R288, R289) -/

/-- The JOIN loop at `pc`, at most `n` entries deep: the warp, whether a path was switched, extra lane cycles, and
whether PC was set. -/
def Warp.joinLoop (pc : GAddr) : Nat → Warp → Nat → Warp × Bool × Nat
  | 0, w, extra => (w, false, extra)
  | n + 1, w, extra =>
    match w.splits with
    | [] => (w, false, extra)
    | t :: rest =>
      if t.ja ≠ pc then (w, false, extra)
      else
        let m := t.pend &&& ~~~w.exited
        if m ≠ 0 then
          ({ w with splits := { t with pend := 0, resume := true } :: rest, em := m, pc := t.pstart }, true, extra)
        else
          let (w1, x) := w.popSplit
          joinLoop pc n { w1 with em := t.u &&& ~~~(w.exited ||| w.never) } (extra + x)

/-- Length of the instruction that stands at an address, read as memory holds it (R289). -/
def State.lengthAt (s : State) (core part : Nat) (pc : GAddr) : Nat :=
  match s.transNow core part pc.toNat with
  | some t =>
    let w := (s.dword (pteSlot t.pte) t.pa).toNat
    let op := bitsOf w 39 8
    if assigned op then lengthOf op (w / 2 ^ 63 = 1) else if w / 2 ^ 63 = 1 then 16 else 8
  | none => 8

/-- complete(b) of R250: the phase ends when every warp its mask names has arrived or retired. -/
def barComplete (warps : List Warp) (b : Barrier) : Barrier :=
  match b.pmask with
  | none => b
  | some m =>
    if warps.zipIdx.all fun (w, k) => !m.getLsbD k || b.arr.getLsbD k || w.retired then
      { phase := b.phase + 1, pmask := none, arr := 0 }
    else b

/-- A free baton goes to the warp it is reserved for, or to the waiting warp whose TAKE issued first (R124). -/
def Workgroup.grantBaton (g : Workgroup) : Workgroup :=
  if g.baton.holder.isSome then g
  else
    let waiting := g.warps.zipIdx.filter fun x => x.1.wait = some .baton && !x.1.stopped &&
      (match g.baton.reserved with | some r => x.2 = r | none => true)
    match waiting.foldl (fun acc x => match acc with
        | none => some x
        | some y => if x.1.batonSeq < y.1.batonSeq then some x else some y) (none : Option (Warp × Nat)) with
    | some x => { g with baton := { holder := some x.2, reserved := none } }
    | none => g

/-- Warp `wix` has retired: barriers complete (R250) and its baton is free (R124). -/
def Workgroup.warpGone (g : Workgroup) (wix : Nat) : Workgroup :=
  { g with
    bars := g.bars.map fun (i, b) => (i, barComplete g.warps b)
    baton := { holder := if g.baton.holder = some wix then none else g.baton.holder
               reserved := if g.baton.reserved = some wix then none else g.baton.reserved } }.grantBaton

/-- A warp retires (R289, R304); its handles go, and with them the completed entries they held (R217). -/
def State.retireWarp (s : State) (r : WarpRef) (w : Warp) : State :=
  ((s.setWarp r w.retire).modWg r.wg fun g => g.warpGone r.wix).sweep r.wg

/-- How a path that has ended goes on (R289): another path, the word after a join, or not at all. -/
inductive PathEnd where
  | switched
  | after (ja : GAddr)
  | over
  deriving DecidableEq, Repr

/-- A path that has ended acts as a JOIN at the top entry's join address, again at the next one where EM stays 0
(R289; notes/assumptions/72.md). -/
def Warp.endLoop : Nat → Warp → Nat → Warp × PathEnd × Nat
  | 0, w, extra => (w, .over, extra)
  | n + 1, w, extra =>
    match w.splits with
    | [] => (w, .over, extra)
    | t :: _ =>
      let (w1, switched, x) := w.joinLoop t.ja w.splits.length extra
      if switched then (w1, .switched, x)
      else if w1.em &&& w1.present = 0 then w1.endLoop n x
      else (w1, .after t.ja, x)

/-- A path has ended with EM = 0 (R289): the warp goes on as `endLoop` says, or retires. -/
def State.endPath (s : State) (r : WarpRef) : State :=
  match tfind s.wgs r.wg, s.warp? r with
  | some wg, some w =>
    let (w1, ended, extra) := w.endLoop (w.splits.length + 1) 0
    match ended with
    | .switched => s.setWarp r { w1 with next := w1.next + extra }
    | .over => s.retireWarp r w1
    | .after ja => s.setWarp r { w1 with pc := ja + BitVec.ofNat 57 (s.lengthAt wg.core wg.part ja), next := w1.next + extra }
  | _, _ => s

end Sys2Proof.Machine
end

