-- ==== Sys2Proof/Machine/Operands.lean ====
section
/-!
DEFINITION. Operands.lean: the registers that operand codes name and the values read through them (R38-R40, R78).
-/
namespace Sys2Proof.Machine

/-- How many registers a field names. -/
def slotRegs : Slot → Nat
  | .opnd k => k.w
  | _ => 0

/-- The registers that an operand of `n` registers names for thread `t`. -/
def operandKeys (xi : Int) (code : Code9) (n t : Nat) : List RegKey :=
  match opnd code with
  | .v r => (List.range n).map fun i => .v (r + i) t
  | .vx b => (List.range n).map fun i => .v (((b : Int) + xi).toNat + i) t
  | .s r => (List.range n).map fun i => .s (r + i)
  | .p k => [.p k t]
  | _ => []

/-- The registers of a field; none where the field is blank or names no operand. -/
def slotKeys (xi : Int) (code : Code9) (sl : Slot) (t : Nat) : List RegKey :=
  match sl with
  | .opnd k => if k.blank && code = 0 then [] else operandKeys xi code k.w t
  | _ => []

/-- The value that registers hold at a lane cycle, low word first, and whether one was read too early (R48). -/
def readKeys (w : Warp) (keys : List RegKey) (t : Nat) : Nat × Bool :=
  keys.foldr (fun k acc => let r := w.readAt k t; (r.1.toNat + 4294967296 * acc.1, r.2 || acc.2)) (0, false)

/-- The value of an operand of `n` registers for thread `t` at a lane cycle; an immediate is sign-extended (R40). -/
def readOperand (w : Warp) (code : Code9) (n t at_ : Nat) : Nat × Bool :=
  match opnd code with
  | .imm x => (wrapTo (32 * n) x, false)
  | _ => readKeys w (operandKeys w.xi.toInt code n t) at_

/-- The index of an H register operand. -/
def hIndex (code : Code9) : Nat := match opnd code with | .h r => r | _ => 0
/-- The index of an S register operand. -/
def sIndex (code : Code9) : Nat := match opnd code with | .s r => r | _ => 0
/-- A field that may be left 0x000 names an operand. -/
def given (code : Code9) : Bool := code ≠ 0

/-- A direct or indirect register outside the names the warp may use (R19, R39). -/
def boundsBad (w : Warp) (code : Code9) (sl : Slot) : Bool :=
  match sl with
  | .opnd k =>
    let n := max k.w 1
    let okV (r : Int) : Bool := 0 ≤ r && r + (n : Int) ≤ (w.vAllot : Int)
    let okS (r : Nat) : Bool := (List.range n).all fun i => r + i < w.sAllot || (61 ≤ r + i && r + i ≤ 63)
    if k.blank && code = 0 then false
    else match opnd code with
      | .v r => !okV r
      | .vx b => !okV ((b : Int) + w.xi.toInt)
      | .s r => !okS r
      | _ => false
  | _ => false

/-- The promise pair lies outside the allotment (R225). -/
def prsBounds (w : Warp) (op : Nat) (f : Fields) : Bool :=
  0xA0 ≤ op && op ≤ 0xA3 && xPre f.ext &&
    !([0, 1].all fun i => xPrs f.ext + i < w.sAllot || (61 ≤ xPrs f.ext + i && xPrs f.ext + i ≤ 63))

/-- The instruction names an empty handle as a source (R44). -/
def handleBad (w : Warp) (sg : Sig) (f : Fields) : Bool :=
  match sg.a, opnd f.a with
  | .opnd _, .h r => (tfind w.h r).isNone
  | _, _ => false

/-- A token that still has a command to settle it (R223). -/
def Warp.tokenBusy (w : Warp) (k : Nat) : Bool := (tfind w.tok k).isSome

/-- The instruction assigns an unsettled token that its WM does not name (R51). -/
def tokenBad (w : Warp) (op : Nat) (f : Fields) : Bool :=
  0xA0 ≤ op && op ≤ 0xA3 && xTke f.ext && w.tokenBusy (xTok f.ext) && !f.wm.getLsbD (xTok f.ext)

/-- The decode-time fault of an instruction: the lowest code that applies (R44). -/
def decodeFault (w : Warp) (op : Nat) (f : Fields) : Option Cause :=
  if !assigned op then some .opcodeIllegal
  else match wordFault (some w.xi.toInt) op f with
  | some 0x01 => some .modifierReserved
  | some 0x02 => some .fieldReserved
  | some 0x03 => some .selectorIllegal
  | other =>
    match sigOf op f with
    | none => some .modifierReserved
    | some sg =>
      if boundsBad w f.d sg.d || boundsBad w f.a sg.a || boundsBad w f.b sg.b || boundsBad w f.c sg.c || prsBounds w op f
      then some .regBounds
      else if other.isSome then some .operandKind
      else if handleBad w sg f then some .handleEmpty
      else if tokenBad w op f then some .tokenBusy
      else none

/-- The registers an instruction reads or writes for one thread, its guard included (R49, R50). -/
def namedKeys (w : Warp) (op : Nat) (f : Fields) (sg : Sig) (t : Nat) : List RegKey :=
  let xi := w.xi.toInt
  (if f.gp = 7 then [] else [.p f.gp.toNat t]) ++
  slotKeys xi f.a sg.a t ++ slotKeys xi f.b sg.b t ++ slotKeys xi f.c sg.c t ++ (if op = 0xA1 then [] else slotKeys xi f.d sg.d t) ++
  (if op = 0x05 || op = 0x06 || op = 0x07 then [.s 62] else []) ++
  (if op = 0xE3 then [.s 62, .s 63] ++ (List.range 7).map fun k => .p k t else []) ++
  (if 0xA0 ≤ op && op ≤ 0xA3 && xPre f.ext then [.s (xPrs f.ext), .s (xPrs f.ext + 1)] else [])

end Sys2Proof.Machine
end

