-- ==== Sys2Proof/Machine/Issue.lean ====
section
/-!
DEFINITION. Issue.lean: what every instruction of a warp does alike: its start (R46), the waits before it (R49, R51), the
traps in their order (R377), its guards (R42, R43), its end (R46, R291), and a trap in some of its lanes (R45).
-/
namespace Sys2Proof.Machine

/-- An instruction that has started. -/
structure Ctx where
  w     : WarpRef
  op    : Nat
  f     : Fields
  sg    : Sig
  start : Nat
  uni   : Bool
  n     : Nat                    -- active threads at issue, or 1 (R46)
  lanes : List (Nat × Nat)       -- executing threads with their positions (R42, R47)
  prev  : Option Wait            -- the wait the instruction comes from
  len   : Nat
  sb    : Bool                   -- SBCHECK (R48)
  early : List Nat               -- threads that read a register too early (R48)
  deriving DecidableEq, Repr

/-- The lane cycle at which an executing thread reads (R47); the cross-lane instructions read at their start (R254). -/
def Ctx.readTime (c : Ctx) (j : Nat) : Nat := if c.uni || (0x60 ≤ c.op && c.op ≤ 0x66) then c.start else c.start + j

def Ctx.ilen (c : Ctx) : Nat := c.len / 8

/-- The opcode weight of the power record (R330). -/
def weightOf (op : Nat) (f : Fields) : Nat :=
  if op ≤ 0x0B || (0x70 ≤ op && op ≤ 0x77) || 0xE0 ≤ op then 1
  else if 0x14 ≤ op && op ≤ 0x17 then 4
  else if op ≤ 0x2C then 2
  else if 0x50 ≤ op && op ≤ 0x52 then 6
  else if op ≤ 0x42 then (if f.c = 1 then 6 else 4)
  else if op = 0x43 then (if f.m = 1 then 6 else 4)
  else if 0x46 ≤ op && op ≤ 0x4A then 8
  else if op ≤ 0x4F then 4
  else if op ≤ 0x66 then 3
  else if op = 0x85 then 4
  else if 0x82 ≤ op && op ≤ 0x84 then 6
  else if op = 0x8B || op = 0x8C then 8
  else if op ≤ 0x8A then 3
  else 2

/-- An instruction has been issued: its lane is taken, its draw is charged (R330). -/
def Ctx.charge (c : Ctx) (s : State) (extra : Nat) : State :=
  let draw := weightOf c.op c.f * c.n
  let core := (s.wg c.w.wg).core
  (s.modWarp c.w fun w => { w with busy := c.start + max 1 c.n + extra, draw := draw }).modClu (cluOf core) fun k =>
    { k with power := k.power + draw }

/-- At a safe point a warp of a cancelled level retires (R315), and a warp that is to be pre-empted stops (R385). -/
def State.safePoint (s : State) (r : WarpRef) : State :=
  let g := s.wg r.wg
  if g.cancelled then
    match s.warp? r with
    | some w => if w.retired then s else (s.endWave r.wg (2 ^ 34)).retireWarp r w
    | none => s
  else if g.preempt then s.modWarp r fun w => { w with stopped := true }
  else s

/-- The lane cycles before which the next instruction does not start (R46). -/
def Ctx.span (c : Ctx) : Nat := max (max 1 c.n) c.f.gap.toNat

/-- The warp goes on at `pc` (R36, R46, R291), and the core has made progress (R331). -/
def Ctx.advance (c : Ctx) (s : State) (pc : GAddr) (flush : Bool) (extra : Nat) : State :=
  let next := max (c.start + c.span + extra) (if flush then c.start + flushCycles else 0)
  ((c.charge s extra).modCore (s.wg c.w.wg).core fun k => { k with progress := 0 }).modWarp c.w fun w =>
    { w with pc := pc, next := next, wait := none, doneLanes := [], kept := none, tr := [], atSafe := c.f.sp, live := if c.f.sp then c.f.live else w.live }

/-- The instruction retires; one with SP = 1 is a safe point (R52). -/
def Ctx.finish (c : Ctx) (s : State) (pc : GAddr) (flush : Bool) (extra : Nat) : State :=
  if c.f.sp then (c.advance s pc flush extra).safePoint c.w else c.advance s pc flush extra

/-- The address of the next instruction in line (R36). -/
def Ctx.fall (c : Ctx) (w : Warp) : GAddr := w.pc + BitVec.ofNat 57 c.len

/-- The instruction retires and the warp goes on with the next in line. -/
def Ctx.done (c : Ctx) (w : Warp) (s : State) : Res := .next (c.finish s (c.fall w) false 0)

/-- The warp waits at the instruction; a wait that only goes on keeps the moment it began (R332). -/
def Ctx.block (c : Ctx) (s : State) (x : Wait) : Res :=
  .next (s.modWarp c.w fun w =>
    { w with wait := some x, waitAt := if c.prev = some x then w.waitAt else s.time, slotLanes := c.lanes })

/-- The instruction traps (R374); its spacing holds for the handler too (R46). -/
def Ctx.trap (c : Ctx) (s : State) (x : TrapInfo) : Res :=
  .next (((c.charge s 0).modWarp c.w fun w => { w with next := c.start + c.span }).takeTrap c.w c.start { x with ilen := c.ilen })

/-- A trap without detail, at a uniform instruction. -/
def Ctx.trapU (c : Ctx) (s : State) (cause : Cause) : Res := c.trap s { cause := cause }

/-- The fault of one lane (R45) with its detail (R376). -/
structure LaneFault where
  lane  : Nat
  cause : Cause
  info0 : Word := 0
  info1 : Word := 0
  info2 : Word := 0
  deriving DecidableEq, Repr

/-- An address or alignment cause: INFO0:INFO1 hold the address (R376). -/
def Cause.hasAddress : Cause → Bool
  | .gNoncanon | .gAlign | .gPerm | .gPte | .gExec | .gRefused | .aRange | .localAlign | .cWindow | .wRange | .scopeSpace | .rangeLocked
  | .atticIndex => true
  | _ => false

/-- The trap of the lowest faulting lane, with the mask of the lanes that fault with the same code (R45). -/
def Ctx.laneTrap (c : Ctx) (s : State) (fs : List LaneFault) : Res :=
  match fs with
  | [] => .next s
  | f :: _ =>
    c.trap s { cause := f.cause, lane := if c.uni then 0 else f.lane,
               mask := if c.uni then 0 else laneMask ((fs.filter fun g => decide (g.cause = f.cause)).map (·.lane)),
               info0 := f.info0, info1 := f.info1, info2 := f.info2 }

/-- The opcode whose next issue raises a deferred trap (R116, R145, R238, R346). -/
def deferOp : Cause → Nat
  | .aq64Sat => 0xB0
  | .copyvFailed => 0xA1
  | .recurDepth | .recurArena | .recurFanout | .recurObject | .recurTask => 0xD7
  | _ => 0xC0

/-- The name of a completion-table entry (R222). -/
def nameOf (cmd : Nat) : Word := BitVec.ofNat 32 cmd ^^^ Config.nameKey

/-- An instruction at which a deferred trap is raised: one that executes (R131), or whose WM names the token (R238).  GRUN
raises those of gate runs after its own checks (R142). -/
def deferHits (cmds : Table Cmd) (w : Warp) (op : Nat) (f : Fields) (executes : Bool) (d : Deferred) : Bool :=
  (match d.token with | some k => f.wm.getLsbD k | none => false) ||
  (executes && (op = 0x0B || (op = deferOp d.cause && op ≠ 0xC0) ||
    (d.cause ≠ .copyvFailed &&
      match opnd f.a with
      | .h r => (op = 0xA6 || op = 0xA7 || op = 0xA8 || op = 0xC1) && tfind w.h r = some d.cmd
      | .s r => (op = 0xA6 || op = 0xA7 || op = 0xA8) && w.stored (.s r) = nameOf d.cmd && (tfind cmds d.cmd).isSome
      | _ => false)))

/-- The lowest code among deferred traps (R377). -/
def lowestDefer (l : List Deferred) : Option Deferred :=
  l.foldl
    (fun acc d => match acc with
      | none => some d
      | some b => if d.cause.code < b.cause.code then some d else some b) none

/-- The deferred trap due at an instruction (R377). -/
def deferDue (cmds : Table Cmd) (w : Warp) (op : Nat) (f : Fields) (executes : Bool) : Option Deferred :=
  lowestDefer (w.defers.filter (deferHits cmds w op f executes))

/-- The trap information of a deferred trap (R375, R376). -/
def deferInfo (d : Deferred) : TrapInfo :=
  if d.cause = .copyvFailed then
    { cause := d.cause, defer := true, info0 := loWord d.status, info1 := hiWord d.status }
  else { cause := d.cause, defer := true, hname := nameOf d.cmd }

/-- The instruction raises a deferred trap, which is consumed (R376). -/
def Ctx.trapDeferred (c : Ctx) (s : State) (d : Deferred) : Res :=
  c.trap (s.modWarp c.w fun w => { w with defers := w.defers.erase d }) (deferInfo d)

/-- The fields read by each executing thread, for the check of R48. -/
def sourceShort (w : Warp) (op : Nat) (f : Fields) (sg : Sig) (t at_ : Nat) : Bool :=
  let xi := w.xi.toInt
  let ks := slotKeys xi f.a sg.a t ++ slotKeys xi f.b sg.b t ++ (if op = 0x88 then [] else slotKeys xi f.c sg.c t) ++
    (if op = 0x4E || op = 0xD8 then slotKeys xi f.d sg.d t else []) ++ (if op = 0x07 then [.s 62] else [])
  (readKeys w ks at_).2

/-- The context of an instruction that starts at `start`: its executing threads by guard (R42, R43). -/
def mkCtx (r : WarpRef) (w : Warp) (op : Nat) (f : Fields) (sg : Sig) (prev : Option Wait) (sb : Bool) : Ctx × List Nat :=
  let start := w.now
  let uni := isUniform sg f
  let act := maskLanes w.active
  let n := if uni then 1 else act.length
  let base : Ctx := { w := r, op, f, sg, start, uni, n, lanes := [], prev, len := lengthOf op f.sp, sb, early := [] }
  let guard (t at_ : Nat) : Bool × Bool :=
    if f.gp = 7 then (!f.gn, false)
    else let x := w.readAt (.p f.gp.toNat t) at_; (x.1.getLsbD 0 ^^ f.gn, x.2)
  if uni then
    match act with
    | [] => (base, [])
    | t :: _ =>
      let g := guard t start
      ({ base with lanes := if g.1 then [(t, 0)] else [] }, if g.2 && sb then [t] else [])
  else
    let gs := act.zipIdx.map fun (t, j) => (t, j, guard t (base.readTime j))
    ({ base with lanes := (gs.filter fun x => x.2.2.1).map fun x => (x.1, x.2.1) },
     (gs.filter fun x => x.2.2.2 && sb).map (·.1))

/-- The warp comes from a wait inside an instruction that has started already. -/
def inProgress : Option Wait → Bool
  | some (.lanes _) | some (.bar _) | some (.sleep ..) | some .baton | some (.cclr ..) | some (.spawn _) => true
  | _ => false

/-- The lane cycle at which the next instruction of a warp starts (R46). -/
def Warp.startAt (w : Warp) : Nat := max w.now w.next

/-- The warp as the instruction that starts finds it: what has become available by then stands in its registers (R47). -/
def Warp.begun (w : Warp) : Warp := { w.settle w.startAt with now := w.startAt, wait := none }

/-- The signature under which an instruction is checked; a reserved M has none. -/
def sigFor (op : Nat) (f : Fields) : Sig := (sigOf op f).getD {}

/-- The context in which an instruction of the current warp `w` starts, and the threads whose guard is read too early. -/
def startCtx (op : Nat) (f : Fields) (s : State) (w : Warp) : Ctx × List Nat :=
  mkCtx s.cur w.begun op f (sigFor op f) w.wait (s.flag s.cur.wg (·.sbcheck))

/-- Tokens that the instruction waits for (R51). -/
def busyTokens (f : Fields) (w : Warp) : List Nat := (List.range 8).filter fun k => f.wm.getLsbD k && w.tokenBusy k

/-- Registers with results still to come that the instruction waits for (R49); LXCH names those of every thread (R256). -/
def pendingKeys (op : Nat) (f : Fields) (w : Warp) : List RegKey :=
  if w.pends.isEmpty then []
  else ((if op = 0x60 then List.range 32 else maskLanes w.active).flatMap (namedKeys w op f (sigFor op f))).filter fun k => w.isPending [k]

/-- Threads that read a register too early where SBCHECK checks it (R48); the cross-lane instructions check their own. -/
def earlyLanes (c : Ctx) (guards : List Nat) (w : Warp) : List Nat :=
  let short := if c.sb && !(0x60 ≤ c.op && c.op ≤ 0x66) then
      (c.lanes.filter fun x => sourceShort w c.op c.f c.sg x.1 (c.readTime x.2)).map (·.1)
    else []
  (List.range 32).filter fun t => guards.contains t || short.contains t

/-- Start an instruction of the current warp: its waits, then its traps in the order of R377, then its effect.  One that
checks its lanes itself finds among them those that read too early. -/
def issueLanes (op : Nat) (f : Fields) (s : State) (body : Ctx → Warp → State → Res) : Res :=
  match s.warp? s.cur with
  | none => .fault .noWarp
  | some w0 =>
    if w0.present = 0 then .fault .noWarp
    else
      let w := w0.begun
      let s1 := s.setWarp s.cur w
      let c := (startCtx op f s w0).1
      if inProgress w0.wait then body { c with lanes := w0.slotLanes } w s1
      else if !(busyTokens f w).isEmpty then c.block s1 (.token ((busyTokens f w).foldl (fun m k => m ||| (1#8 <<< k)) 0))
      else if !(pendingKeys op f w).isEmpty then c.block s1 (.pending (pendingKeys op f w))
      else match deferDue s.cmds w op f (!c.lanes.isEmpty) with
        | some d => c.trapDeferred s1 d
        | none =>
          match decodeFault w op f with
          | some cause => c.trapU s1 cause
          | none => body { c with early := earlyLanes c (startCtx op f s w0).2 w } w s1

/-- The fault of a lane that has read a register too early (R48). -/
def stallFault (t : Nat) : LaneFault := { lane := t, cause := .stallShort }

/-- The faults of an instruction: of a lane that read too early that one, else what its checks found (R45). -/
def Ctx.faults (c : Ctx) (fs : List LaneFault) : List LaneFault :=
  if c.early.isEmpty then fs
  else (List.range 32).filterMap fun t => if c.early.contains t then some (stallFault t) else fs.find? fun x => x.lane = t

/-- Start an instruction whose lanes have no faults but that of R48. -/
def issue (op : Nat) (f : Fields) (s : State) (body : Ctx → Warp → State → Res) : Res :=
  issueLanes op f s fun c w s => match c.early with
    | [] => body c w s
    | l => c.laneTrap s (l.map stallFault)

/-- The value of a field for an executing thread (R47). -/
def Ctx.val (c : Ctx) (w : Warp) (code : Code9) (sl : Slot) (t j : Nat) : Nat :=
  match sl with
  | .opnd k => (readOperand w code k.w t (c.readTime j)).1
  | _ => code.toNat

def Ctx.valA (c : Ctx) (w : Warp) (x : Nat × Nat) : Nat := c.val w c.f.a c.sg.a x.1 x.2
def Ctx.valB (c : Ctx) (w : Warp) (x : Nat × Nat) : Nat := c.val w c.f.b c.sg.b x.1 x.2
def Ctx.valC (c : Ctx) (w : Warp) (x : Nat × Nat) : Nat := c.val w c.f.c c.sg.c x.1 x.2
def Ctx.valD (c : Ctx) (w : Warp) (x : Nat × Nat) : Nat := c.val w c.f.d c.sg.d x.1 x.2

/-- The destination registers for a thread. -/
def Ctx.dest (c : Ctx) (w : Warp) (t : Nat) : List RegKey := slotKeys w.xi.toInt c.f.d c.sg.d t

/-- Fixed-latency results of a thread at position `j`, and its flags (R25, R47). -/
def Warp.putResult (w : Warp) (keys : List RegKey) (v : Nat) (flags : Word) (avail : Nat) : Warp :=
  let w1 := keys.zipIdx.foldl (fun w (k, i) => w.launch k (BitVec.ofNat 32 (v >>> (32 * i))) avail) w
  if flags = 0 then w1 else { w1 with flagsIn := { flags := flags, avail := avail } :: w1.flagsIn }

/-- A result of the compute instructions: a value and the flags it raises. -/
structure Val where
  v     : Nat
  flags : Word := 0
  deriving DecidableEq, Repr

/-- Every executing thread computes a value into D, with the latency of the opcode (R47, R101). -/
def compute (op : Nat) (f : Fields) (s : State) (fn : Ctx → Warp → Nat × Nat → Val) : Res :=
  issue op f s fun c w s =>
    let lat := (latency op).getD 0
    let w1 := c.lanes.foldl
      (fun acc x =>
        let r := fn c w x
        acc.putResult (c.dest w x.1) r.v r.flags (c.readTime x.2 + lat)) w
    c.done w (s.setWarp c.w w1)

/-- A uniform instruction: nothing happens where its guard is false (R43). -/
def uniform (op : Nat) (f : Fields) (s : State) (body : Ctx → Warp → Nat × Nat → State → Res) : Res :=
  issue op f s fun c w s =>
    match c.lanes with
    | [] => c.done w s
    | x :: _ => body c w x s

end Sys2Proof.Machine
end

