-- ==== Sys2Proof/Machine/Integer.lean ====
section
/-!
DEFINITION. Integer.lean: the integer and address instructions, opcodes 0x10-0x2C (R80-R89).  Each is a function of its
operand patterns; `compute` reads them and writes the result.
-/
namespace Sys2Proof.Machine

/-- Bits of an operand under a form (R80). -/
def bitsIf (wideForm : Bool) : Nat := if wideForm then 64 else 32

/-- ADD and SUB (R81): the exact result `x` of `w` bits under form `m`. -/
def addForm (m : Nat) (op : Int → Int → Int) (a b : Nat) : Val :=
  let w := bitsIf (m ≥ 3)
  let sg := op (asI w a) (asI w b)
  let us := op ((a : Int)) ((b : Int))
  if m = 1 || m = 4 then let r := satI w sg; { v := r.1, flags := r.2 }
  else if m = 2 || m = 5 then let r := satN w us; { v := r.1, flags := r.2 }
  else { v := wrapTo w us }

/-- MUL (R81). -/
def mulForm (m a b : Nat) : Val :=
  if m = 1 then let r := satI 32 (asI 32 a * asI 32 b); { v := r.1, flags := r.2 }
  else if m = 2 then let r := satN 32 ((a : Int) * b); { v := r.1, flags := r.2 }
  else { v := wrapTo (bitsIf (m = 3)) ((a : Int) * b) }

/-- MULH (R81): bits [63:32] of the exact product. -/
def mulhForm (m a b : Nat) : Nat :=
  if m = 0 then wrapTo 64 (asI 32 a * asI 32 b) / 2 ^ 32 else a * b / 2 ^ 32

/-- MAD (R81): one rounding of the exact a·b + c. -/
def madForm (m a b c : Nat) : Val :=
  if m = 1 then let r := satI 32 (asI 32 a * asI 32 b + asI 32 c); { v := r.1, flags := r.2 }
  else if m = 2 then let r := satN 32 ((a : Int) * b + c); { v := r.1, flags := r.2 }
  else { v := wrapTo 32 ((a : Int) * b + c) }

/-- MADW (R81). -/
def madwForm (m a b c : Nat) : Nat :=
  if m = 0 then wrapTo 64 (asI 32 a * asI 32 b + asI 64 c) else wrapTo 64 ((a : Int) * b + c)

def notForm (w a : Nat) : Nat := 2 ^ w - 1 - a
def shlForm (w a n : Nat) : Nat := if n ≥ w then 0 else a * 2 ^ n % 2 ^ w
def shrForm (w a n : Nat) : Nat := if n ≥ w then 0 else a / 2 ^ n
def sarForm (w a n : Nat) : Nat := wrapTo w (asI w a / (2 ^ min n w : Int))
def rotlForm (w a n : Nat) : Nat :=
  let k := n % w
  (a * 2 ^ k) % 2 ^ w + a / 2 ^ (w - k)

/-- Position and length of a bit field from a control word (R83). -/
def fieldOf (ctl : Nat) : Nat × Nat :=
  let p := min (ctl % 256) 32
  (p, min (ctl / 256 % 256) (32 - p))

def bfeForm (m a ctl : Nat) : Nat :=
  let (p, l) := fieldOf ctl
  let f := bitsOf a p l
  if l = 0 then 0 else if m = 0 then f else wrapTo 32 (asI l f)

def bfiForm (a b ctl : Nat) : Nat :=
  let (p, l) := fieldOf ctl
  if l = 0 then b else b % 2 ^ p + bitsOf a 0 l * 2 ^ p + b / 2 ^ (p + l) * 2 ^ (p + l)

/-- The number of 1 bits among the low `w` bits. -/
def popc : Nat → Nat → Nat
  | 0, _ => 0
  | w + 1, a => a % 2 + popc w (a / 2)

/-- The number of 0 bits above the most significant 1 bit of `w` bits (R84). -/
def clz (w a : Nat) : Nat := if a = 0 then w else w - 1 - a.log2

/-- Bit order reversed (R84). -/
def brev : Nat → Nat → Nat
  | 0, _ => 0
  | w + 1, a => a % 2 * 2 ^ w + brev w (a / 2)

/-- Numbers of `w` bits each, the first lowest. -/
def joinFields (w : Nat) : List Nat → Nat
  | [] => 0
  | x :: xs => x + 2 ^ w * joinFields w xs

/-- PERM (R85). -/
def permForm (m a b c : Nat) : Nat :=
  if m = 0 then
    let src := a + b * 2 ^ 32
    joinFields 8 ((List.range 4).map fun k =>
      let s := bitsOf c (4 * k) 4
      if s ≥ 8 then 0 else bitsOf src (8 * (s % 8)) 8)
  else if m = 1 then joinFields 4 ((List.range 8).map fun k => bitsOf b (4 * bitsOf a (4 * k) 4) 4)
  else
    let sh := if m = 2 then 0 else 4
    joinFields 8 ((List.range 4).map fun k => bitsOf b (8 * bitsOf a (8 * k + sh) 4) 8)

/-- a precedes b in the integer type that M names: I32, N32, I64, N64 (R86, R87). -/
def intLt (m a b : Nat) : Bool :=
  let w := bitsIf (m ≥ 2)
  if m % 2 = 0 then decide (asI w a < asI w b) else decide (a < b)

def absForm (m a : Nat) : Val :=
  let w := bitsIf (m ≥ 2)
  let x := asI w a
  let y := if x < 0 then -x else x
  if m % 2 = 1 then let r := satI w y; { v := r.1, flags := r.2 } else { v := wrapTo w y }

/-- A comparison by its selector (R87). -/
def cmpSel (sel : Nat) (lt eq : Bool) : Bool :=
  match sel with
  | 0 => eq
  | 1 => !eq
  | 2 => lt
  | 3 => lt || eq
  | 4 => !(lt || eq)
  | _ => !lt

def execMov (f : Fields) (s : State) : Res := compute 0x10 f s fun c w x => { v := c.valA w x }

def execMovi (f : Fields) (s : State) : Res :=
  compute 0x11 f s fun c _ _ => { v := if c.f.m = 0 then c.f.ext.toNat % 2 ^ 32 else c.f.ext.toNat }

def execAdd (f : Fields) (s : State) : Res :=
  compute 0x12 f s fun c w x => addForm c.f.m.toNat (· + ·) (c.valA w x) (c.valB w x)

def execSub (f : Fields) (s : State) : Res :=
  compute 0x13 f s fun c w x => addForm c.f.m.toNat (· - ·) (c.valA w x) (c.valB w x)

def execMul (f : Fields) (s : State) : Res :=
  compute 0x14 f s fun c w x => mulForm c.f.m.toNat (c.valA w x) (c.valB w x)

def execMulh (f : Fields) (s : State) : Res :=
  compute 0x15 f s fun c w x => { v := mulhForm c.f.m.toNat (c.valA w x) (c.valB w x) }

def execMad (f : Fields) (s : State) : Res :=
  compute 0x16 f s fun c w x => madForm c.f.m.toNat (c.valA w x) (c.valB w x) (c.valC w x)

def execMadw (f : Fields) (s : State) : Res :=
  compute 0x17 f s fun c w x => { v := madwForm c.f.m.toNat (c.valA w x) (c.valB w x) (c.valC w x) }

def execAnd (f : Fields) (s : State) : Res :=
  compute 0x18 f s fun c w x => { v := Nat.land (c.valA w x) (c.valB w x) }

def execOr (f : Fields) (s : State) : Res :=
  compute 0x19 f s fun c w x => { v := Nat.lor (c.valA w x) (c.valB w x) }

def execXor (f : Fields) (s : State) : Res :=
  compute 0x1A f s fun c w x => { v := Nat.xor (c.valA w x) (c.valB w x) }

def execNot (f : Fields) (s : State) : Res :=
  compute 0x1B f s fun c w x => { v := notForm (bitsIf (c.f.m = 1)) (c.valA w x) }

def execShl (f : Fields) (s : State) : Res :=
  compute 0x1C f s fun c w x => { v := shlForm (bitsIf (c.f.m = 1)) (c.valA w x) (c.valB w x) }

def execShr (f : Fields) (s : State) : Res :=
  compute 0x1D f s fun c w x => { v := shrForm (bitsIf (c.f.m = 1)) (c.valA w x) (c.valB w x) }

def execSar (f : Fields) (s : State) : Res :=
  compute 0x1E f s fun c w x => { v := sarForm (bitsIf (c.f.m = 1)) (c.valA w x) (c.valB w x) }

def execRotl (f : Fields) (s : State) : Res :=
  compute 0x1F f s fun c w x => { v := rotlForm (bitsIf (c.f.m = 1)) (c.valA w x) (c.valB w x) }

def execBfe (f : Fields) (s : State) : Res :=
  compute 0x20 f s fun c w x => { v := bfeForm c.f.m.toNat (c.valA w x) (c.valB w x) }

def execBfi (f : Fields) (s : State) : Res :=
  compute 0x21 f s fun c w x => { v := bfiForm (c.valA w x) (c.valB w x) (c.valC w x) }

def execPopc (f : Fields) (s : State) : Res :=
  compute 0x22 f s fun c w x => { v := popc 64 (c.valA w x) }

def execClz (f : Fields) (s : State) : Res :=
  compute 0x23 f s fun c w x => { v := clz (bitsIf (c.f.m = 1)) (c.valA w x) }

def execBrev (f : Fields) (s : State) : Res :=
  compute 0x24 f s fun c w x => { v := brev (bitsIf (c.f.m = 1)) (c.valA w x) }

def execPerm (f : Fields) (s : State) : Res :=
  compute 0x25 f s fun c w x => { v := permForm c.f.m.toNat (c.valA w x) (c.valB w x) (c.valC w x) }

def execMin (f : Fields) (s : State) : Res :=
  compute 0x26 f s fun c w x =>
    { v := if intLt c.f.m.toNat (c.valB w x) (c.valA w x) then c.valB w x else c.valA w x }

def execMax (f : Fields) (s : State) : Res :=
  compute 0x27 f s fun c w x =>
    { v := if intLt c.f.m.toNat (c.valA w x) (c.valB w x) then c.valB w x else c.valA w x }

def execAbs (f : Fields) (s : State) : Res :=
  compute 0x28 f s fun c w x => absForm c.f.m.toNat (c.valA w x)

/-- SEL (R87); with an S destination the predicate is that of the lowest active thread (log 12). -/
def execSel (f : Fields) (s : State) : Res :=
  compute 0x29 f s fun c w x => { v := if c.valC w x % 2 = 1 then c.valA w x else c.valB w x }

def execSetp (f : Fields) (s : State) : Res :=
  compute 0x2A f s fun c w x =>
    { v := if cmpSel c.f.c.toNat (intLt c.f.m.toNat (c.valA w x) (c.valB w x)) (c.valA w x = c.valB w x) then 1 else 0 }

def execLea (f : Fields) (s : State) : Res :=
  compute 0x2B f s fun c w x =>
    { v := wrapTo 64 ((c.valA w x : Int) + asI 32 (c.valB w x) * 2 ^ c.f.m.toNat + asI 32 (c.valC w x)) }

def execLeaPc (f : Fields) (s : State) : Res :=
  compute 0x2C f s fun c w _ => { v := wrapTo 57 ((w.pc.toNat : Int) + extDisp c.f.ext) }

end Sys2Proof.Machine
end

