-- ==== Sys2Proof/Machine/Order.lean ====
section
/-!
DEFINITION. Order.lean: which of the accesses that a warp has issued must be performed before which (R164-R177): the classes
of R169, the four matrices of R172-R175 as R170 reads them, and what follows for an access, a wait and a command.
-/
namespace Sys2Proof.Machine

/-- The classes of R169 that accesses and fences of a warp have; a fence keeps its kind (R177). -/
inductive OrdClass where
  | ld | st | ldi | acq | rel | atm
  | fen (kind : Nat)
  deriving DecidableEq, Repr

/-- Cells of the matrices (R171); O cells are those of range locks (R176 note 4). -/
inductive Cell where
  | kept | none | same
  deriving DecidableEq, Repr

def Scope.level : Scope → Nat
  | .blk => 0 | .clu => 1 | .dev => 2 | .sys => 3
/-- The instance of scope `a` contains that of scope `o`, for one warp (R168). -/
def Scope.covers (a o : Scope) : Bool := o.level ≤ a.level

/-- The classes of an access towards an observer at scope `o`: an ordering operation of a narrower scope is read as its
weaker class, a fence of one as no operation (R170). -/
def Access.classes (o : Scope) (x : Access) : List OrdClass :=
  let acq := if x.acq then [if x.scope.covers o then OrdClass.acq else .ld] else []
  let rel := if x.rel then [if x.scope.covers o then OrdClass.rel else .st] else []
  if x.ldi then [.ldi]
  else match x.kind with
    | .read => if x.acq then acq else [.ld]
    | .write => if x.rel then rel else [.st]
    | .atom _ | .cas => .atm :: (acq ++ rel)
    | .qwake .. | .starr | .arrive .. => [if x.scope.covers o then .rel else .st]
    | .fence k => if x.scope.covers o then [.fen k] else []

/-- The row of a fence (R177). -/
def fenceRow (kind : Nat) (y : OrdClass) : Cell := if kind = 1 && (y = .ld || y = .acq) then .none else .kept
/-- The column of a fence (R177). -/
def fenceColumn (kind : Nat) (x : OrdClass) : Cell := if kind = 2 && (x = .st || x = .rel) then .none else .kept

/-- The matrix of scope .blk (R172). -/
def cellBlk : OrdClass → OrdClass → Cell
  | .ldi, _ | _, .ldi => .none
  | .fen k, y => fenceRow k y
  | x, .fen k => fenceColumn k x
  | .st, .ld | .st, .acq | .rel, .ld | .rel, .acq => .same
  | _, _ => .kept

/-- The matrices of scopes .clu, .dev and .sys (R173-R175); `atoms` is the cell ATM, ATM. -/
def cellWide (atoms : Cell) : OrdClass → OrdClass → Cell
  | .ldi, _ | _, .ldi => .none
  | .fen k, y => fenceRow k y
  | x, .fen k => fenceColumn k x
  | .acq, _ | _, .rel => .kept
  | .atm, .atm => atoms
  | _, _ => .same

/-- A location of the core's banks: all but G space (R176 note 1). -/
def Access.banked (x : Access) : Bool := x.space ≠ .g

/-- LD, ST and ATM, whose K cells at .blk hold for locations of the core's banks only (R176 note 1). -/
def OrdClass.plain : OrdClass → Bool
  | .ld | .st | .atm => true
  | _ => false

/-- The cell for two accesses towards an observer at scope `o` (R172-R176). -/
def cellAt (o : Scope) (x y : Access) (cx cy : OrdClass) : Cell :=
  match o with
  | .blk =>
    if cx = .atm && cy = .atm then (if x.scope = .blk && y.scope = .blk then .kept else .same)
    else if cx.plain && cy.plain && !(x.banked && y.banked) then cellWide .same cx cy
    else cellBlk cx cy
  | .clu => cellWide (if x.scope = .clu && y.scope = .clu then .kept else .same) cx cy
  | .dev | .sys => cellWide .same cx cy

/-- The words of two accesses meet (R166). -/
def accOverlap (x y : Access) : Bool :=
  x.space = y.space && x.pa / 4 < (y.pa + y.bytes + 3) / 4 && y.pa / 4 < (x.pa + x.bytes + 3) / 4

/-- Two paths of one BR that have not met at its JOIN (R164). -/
def pathsApart (p q : List (Nat × Bool)) : Bool := p.any fun a => q.any fun b => a.1 = b.1 && a.2 ≠ b.2

/-- The order of `x` before a later `y` is kept for an observer at scope `o` (R170): diverged paths keep none (R164), nor do
the lanes of one instruction but at one location (R165). -/
def keptAt (o : Scope) (x y : Access) : Bool :=
  let same := accOverlap x y
  !pathsApart x.path y.path && (x.inst ≠ y.inst || same) &&
    (x.classes o).any fun cx => (y.classes o).any fun cy => match cellAt o x y cx cy with | .kept => true | .same => same | .none => false

/-- `x` has to be performed before the later `y`.  A location of the core's banks is seen within the workgroup alone; a fence
orders at its own scope; an arrival has been recorded already (notes/assumptions/46.md). -/
def mustPrecede (x y : Access) : Bool :=
  match x.kind, y.kind with
  | .arrive .., _ => false
  | _, .fence _ => keptAt y.scope x y
  | _, _ => keptAt (if x.banked || y.banked then .blk else .dev) x y

/-- The widest scope whose agents must see `x` before `y`, where not every agent of the module must (R170). -/
def veiledAt (x y : Access) : Option Scope :=
  match x.kind, y.kind with
  | .arrive .., _ | _, .fence _ => none
  | _, _ =>
    if x.banked || y.banked || keptAt .dev x y then none
    else if keptAt .clu x y then some .clu
    else if keptAt .blk x y then some .blk
    else none

/-- Both, for an access that takes effect where it stands. -/
def ordered (x y : Access) : Bool := mustPrecede x y || (veiledAt x y).isSome

/-- The divisions open where a warp stands, each with the path it runs (R164). -/
def Warp.path (w : Warp) : List (Nat × Bool) := (w.splits.filter fun k => k.did ≠ 0).map fun k => (k.did, k.resume)

/-- Accesses of a warp that come before what it issues now in program order (R164). -/
def Warp.earlier (w : Warp) : List Access := w.accs.filter fun x => !pathsApart x.path w.path

/-- The access `y` of the warp has to wait for an access issued earlier. -/
def Warp.held (w : Warp) (y : Access) : Bool := w.earlier.any fun x => ordered x { y with inst := 0, path := w.path }

/-- Every earlier access but invariant loads has been performed (R170: before a release that is no access). -/
def Warp.released (w : Warp) : Bool := w.earlier.all (·.ldi)

/-- Every earlier access to A space has been performed: an issue that reads A space reads it as it stands (R178). -/
def Warp.releasedA (w : Warp) : Bool := w.earlier.all fun x => x.ldi || x.space ≠ .a

/-- An access of a lane with nothing special about it. -/
def plainAccess (lane : Nat) (space : Space) (va pa bytes : Nat) (kind : AccKind) : Access :=
  { id := 0, lane, space, va, pa, bytes, kind, data := 0, cmp := 0, ldi := false, acq := false, rel := false, scope := .blk
    sx := false, dest := [], pend := 0, key := none, inst := 0, path := [] }

/-- What the issue of a command at a scope releases (R178): every earlier access, towards the observers of the scope. -/
def Warp.releasedBy (w : Warp) (scope : Scope) : List Nat :=
  (w.earlier.filter fun x => [Scope.blk, .clu, .dev, .sys].any fun o => scope.covers o && (x.classes o).any fun c => c ≠ .ldi).map (·.id)

/-- An acquire at .blk of no location (R252: a BARW that returns). -/
def acquireBlk : Access := { plainAccess 0 .a 0 0 0 .read with acq := true }

/-! Veils (R170): at most one at a time, so that none waits for another -/

/-- The veil in force: an access it waits for is still to be performed. -/
def State.veil? (s : State) : Option Veil :=
  s.veil.filter fun v => match s.warp? v.w with | some w => w.accs.any fun x => v.until_.contains x.id | none => false

/-- A veil keeps the agents of a workgroup and core from touching a location (R170). -/
def State.veiled (s : State) (wg core : Nat) (self : Option WarpRef) (pa n : Nat) (write : Bool) : Bool :=
  match s.veil? with
  | none => false
  | some v =>
    self ≠ some v.w && (v.write || write) && v.pa < pa + n && pa < v.pa + v.bytes &&
      (if v.scope = .blk then decide (wg = v.w.wg) else decide (cluOf core = cluOf (s.wg v.w.wg).core))

/-- A veil keeps the engines of a workgroup and core waiting. -/
def State.veilStops (s : State) (wg core : Nat) : Bool :=
  match s.veil? with
  | none => false
  | some v => if v.scope = .blk then decide (wg = v.w.wg) else decide (cluOf core = cluOf (s.wg v.w.wg).core)

/-- A command may act: what its issue released has been performed (R178). -/
def State.startable (s : State) (c : Cmd) : Bool :=
  !s.veilStops c.wg c.core && c.after.all fun x => match s.warp? { wg := c.wg, wix := x.1 } with
    | some w => w.accs.all fun a => a.id ≠ x.2
    | none => true

end Sys2Proof.Machine
end

