-- ==== Sys2Proof/Machine/Access.lean ====
section
/-!
DEFINITION. Access.lean: what the memory instructions share: the addresses of lanes (R192), their faults in the order of
R193, translation (R356) and poison (R390), the accesses a warp has issued and their performance (R165-R167), tags, stage
words, the wait table and queue records (R198, R208-R215).
-/
namespace Sys2Proof.Machine

/-! A space of a workgroup (R28) -/

def Workgroup.aRead (g : Workgroup) (addr n : Nat) : Nat := ofBytes (tgetRange 0 g.a addr n)
def Workgroup.aBytes (g : Workgroup) (addr n : Nat) : List Byte := tgetRange 0 g.a addr n
/-- Write bytes; a word written whole stops being poisoned (notes/assumptions/13.md). -/
def Workgroup.aPut (g : Workgroup) (addr : Nat) (bs : List Byte) : Workgroup :=
  { g with a := tsetRange 0 g.a addr bs
           aPoison := g.aPoison.filter fun x => !(addr ≤ 4 * x.1 && 4 * x.1 + 4 ≤ addr + bs.length) }
/-- The lowest tag of the poisoned words that `n` bytes touch (R389). -/
def Workgroup.aTag (g : Workgroup) (addr n : Nat) : Option Nat :=
  g.aPoison.foldl (fun acc x => if 4 * x.1 < addr + n && addr < 4 * x.1 + 4 then lowerTag acc (some (x.2 - 1)) else acc) none
/-- Mark the words that `n` bytes touch as poisoned; of two tags the lower is kept (R389). -/
def Workgroup.aMark (g : Workgroup) (addr n tag : Nat) : Workgroup :=
  if n = 0 then g
  else
    let mark (t : Table Nat) (k : Nat) : Table Nat := tput t k (match tfind t k with | some old => min old (tag + 1) | none => tag + 1)
    { g with aPoison := ((List.range ((addr + n - 1) / 4 - addr / 4 + 1)).map (· + addr / 4)).foldl mark g.aPoison }
def Workgroup.full (g : Workgroup) (addr : Nat) : Bool := tgetD false g.tags (addr / 4)
def Workgroup.setTag (g : Workgroup) (addr : Nat) (b : Bool) : Workgroup := { g with tags := tsetD false g.tags (addr / 4) b }

/-- One contribution of `b` bytes to the stage word at an address, and whether it set OVERRUN (R210). -/
def Workgroup.contribute (g : Workgroup) (addr b : Nat) : Workgroup × Bool :=
  let v := g.aRead addr 4
  let remain := v % 2 ^ 24
  let rest := bitsOf v 24 7 * 2 ^ 24
  let ov := v / 2 ^ 31 * 2 ^ 31
  if b = 0 then (g, false)
  else if g.full addr || remain = 0 then ((g.aPut addr (toBytes 4 (remain + rest + 2 ^ 31))).setTag addr true, true)
  else if b > remain then ((g.aPut addr (toBytes 4 (rest + 2 ^ 31))).setTag addr true, true)
  else
    let g1 := g.aPut addr (toBytes 4 (remain - b + rest + ov))
    (if remain = b then g1.setTag addr true else g1, false)

/-! Range locks (R183) -/

/-- A lock of the list stops an access to [lo, hi). -/
def lockHits (space : Space) (lo hi : Nat) (write : Bool) (ls : List RangeLock) : Bool :=
  ls.any fun l => l.space = space && l.lo < hi && lo < l.hi && (l.dest || write)

/-- A range of a command of the core stops an access to A space of a workgroup. -/
def State.lockedA (s : State) (core g lo n : Nat) (write : Bool) : Bool :=
  s.cmds.any fun c => c.2.core = core && s.home c.2.wg = s.home g && lockHits .a lo (lo + n) write c.2.locks

/-- A range of a command of the core stops an access to G space of a partition. -/
def State.lockedG (s : State) (core part lo n : Nat) (write : Bool) : Bool :=
  s.cmds.any fun c => c.2.core = core && c.2.part = part && lockHits .g lo (lo + n) write c.2.locks

/-- A row is under a chain's lock (R113). -/
def State.lockedC (s : State) (core row : Nat) : Bool := (s.core core).chains.any fun c => c.lo ≤ row && row < c.hi

/-! Lanes and their faults (R192, R193) -/

/-- A fault of a lane; an address cause reports the address formed (R376). -/
def addrFault (lane : Nat) (cause : Cause) (addr : Nat) : LaneFault :=
  if !cause.hasAddress then { lane, cause } else { lane, cause, info0 := BitVec.ofNat 32 addr, info1 := BitVec.ofNat 32 (addr / 2 ^ 32) }

/-- The faults of an access to A space whose bounds are those of `n` bytes, aligned to `align`, and that touches `used` bytes. -/
def State.aFaultUsed (s : State) (r : WarpRef) (lane addr align n used : Nat) (write : Bool) : Option LaneFault :=
  let g := s.wg r.wg
  if addr + n > g.aSize then some (addrFault lane .aRange addr)
  else if addr % align ≠ 0 then some (addrFault lane .localAlign addr)
  else if used ≠ 0 && s.lockedA g.core r.wg addr used write then some (addrFault lane .rangeLocked addr)
  else match (s.warp? r).bind fun w => w.tr.find? fun x => x.1 = 2 ^ 65 + addr / 4 with
    | some _ => some (addrFault lane .gRefused addr)
    | none => none

/-- The faults of an access of `n` bytes to A space, aligned to `align`. -/
def State.aFault (s : State) (r : WarpRef) (lane addr align n : Nat) (write : Bool) : Option LaneFault := s.aFaultUsed r lane addr align n n write

/-- An access to G space before its translation is known: its faults in the order of R193, the outcomes a walk or RESOLVE
left for it (R356, R359, R390), or its translation, if the TLBs hold one.  Whether an atomic is valid for its space shows only
once the page is known, and precedes its alignment. -/
def State.gTarget (s : State) (r : WarpRef) (w : Warp) (lane addr align n : Nat) (write needWr unitOk : Bool) :
    Except LaneFault (Option Trans) :=
  let g := s.wg r.wg
  let noted := w.tr.find? fun x => x.1 = pageOf addr || x.1 = 2 ^ 64 + addr / 32
  if addr ≥ 2 ^ 57 then .error (addrFault lane .gNoncanon addr)
  else if addr % align ≠ 0 && (unitOk || noted.isSome) then .error (addrFault lane .gAlign addr)
  else match noted with
    | some (_, .refused) => .error (addrFault lane .gRefused addr)
    | some (_, .badPte) => .error (addrFault lane .gPte addr)
    | none =>
      match s.tlbAt g.core g.part addr with
      | none => .ok none
      | some t =>
        if !unitOk && paSpace t.pa ≠ 0 then .error (addrFault lane .scopeSpace addr)
        else if addr % align ≠ 0 then .error (addrFault lane .gAlign addr)
        else if (needWr && !pteWr t.pte) || (!needWr && !pteRd t.pte) then .error (addrFault lane .gPerm addr)
        else if s.portDown t.pa then .error (addrFault lane .gRefused addr)
        else if s.lockedG g.core g.part addr n write then .error (addrFault lane .rangeLocked addr)
        else .ok (some t)

/-- A lane of a G access: thread, position, address. -/
abbrev LaneAddr := Nat × Nat × Nat

/-- A PARK record with the next fault id of the partition, for poisoned data at an address (R390). -/
def State.filePark (s : State) (r : WarpRef) (addr tag : Nat) : Nat × State :=
  let g := s.wg r.wg
  let fid := match tfind s.parts g.part with | some p => p.nextFid | none => 0
  let rec_ : ErrRec := { part := g.part, kind := 2, prov := tag, fid, addr, cause := 0, core := g.core, time := s.time }
  (fid, { s with
    parts := tmodify s.parts g.part fun p => { p with nextFid := (p.nextFid + 1) % 2 ^ 32 }
    errs := { s.errs with parks := s.errs.parks ++ [(rec_, r)] } })

/-- Park the warp on poisoned data with tag `tag` at the address a record gives (R390).  `keys` are the places, one for each
parked lane, where a refusal will be noted. -/
def State.parkPoison (s : State) (c : Ctx) (addr tag : Nat) (keys : List Nat) : Res :=
  let (fid, s1) := s.filePark c.w addr tag
  c.block s1 (.poison fid keys)

/-- A PARK record of the warp is due or unanswered. -/
def State.isParked (s : State) (r : WarpRef) : Bool := s.errs.parks.any (·.2 = r) || s.errs.parked.any (·.2.2 = r)

/-- A warp whose load meets poison when it is performed parks where it stands, unless it waits inside an instruction already
(R390; notes/assumptions/9.md). -/
def State.parkLate (s : State) (r : WarpRef) (addr tag : Nat) : State :=
  if s.isParked r then s
  else
    let (fid, s1) := s.filePark r addr tag
    s1.modWarp r fun w => if inProgress w.wait then w else { w with wait := some (.poison fid []), waitAt := s.time }

/-- What translating a lane's address gives: a fault, a translation, or none yet. -/
abbrev Target := Except LaneFault (Option Trans)
def Target.missed : Target → Bool
  | .ok none => true
  | _ => false
def Target.fault? : Target → Option LaneFault
  | .error f => some f
  | _ => none
def Target.trans? : Target → Option Trans
  | .ok t => t
  | _ => none

/-- The target of a lane; `early` are faults of items 1 and 2 of R193. -/
def laneTrans (c : Ctx) (w : Warp) (s : State) (early : Nat → Option Cause) (align n : Nat) (write needWr unitOk : Bool) (x : LaneAddr) : Target :=
  match early x.1 with
  | some cause => .error (addrFault x.1 cause x.2.2)
  | none => s.gTarget c.w w x.1 x.2.2 align n write needWr unitOk

/-- A warp joins the walks of pages that its core holds no translation of. -/
def State.walkPages (s : State) (r : WarpRef) (kind : Nat) (vas : List Nat) : List Nat × State :=
  let g := s.wg r.wg
  vas.foldl (fun acc va =>
    let (id, s1) := acc.2.joinWalk (dieOf (cluOf g.core)) g.part va kind g.core (.warp r)
    (if acc.1.contains id then acc.1 else acc.1 ++ [id], s1)) ([], s)

/-- The G accesses of an instruction (R356): all lanes are translated together, and while one misses the warp waits for the
walks of their pages; a fault traps it, poison under a load parks it; else its lanes go on. -/
def gLanes (c : Ctx) (w : Warp) (s : State) (early : Nat → Option Cause) (ls : List LaneAddr) (align n : Nat)
    (write needWr unitOk load : Bool) (k : List (LaneAddr × Trans) → Res) : Res :=
  let target := laneTrans c w s early align n write needWr unitOk
  let missing := if c.early.isEmpty then (ls.filter fun x => (target x).missed).map (·.2.2) else []
  if !missing.isEmpty then
    let (ids, s1) := s.walkPages c.w (if needWr then 1 else 0) missing
    c.block s1 (.walk ids)
  else
    let fs := c.faults (ls.filterMap fun x => (target x).fault?)
    if !fs.isEmpty then c.laneTrap s fs
    else
      let ts := ls.filterMap fun x => (target x).trans?.map fun t => (x, t)
      let bad := ts.filter fun x => load && (s.poisonAt x.2.pa n).isSome
      match bad with
      | x :: _ => s.parkPoison c x.1.2.2 ((s.poisonAt x.2.pa n).getD 0) (bad.map fun y => 2 ^ 64 + y.1.2.2 / 32)
      | [] => k ts

def scopeOf (n : Nat) : Scope := if n = 0 then .blk else if n = 1 then .clu else if n = 2 then .dev else .sys

/-- The new value of an atomic of `w` bits (R203). -/
def atomNew (aop w o v : Nat) : Nat :=
  match aop with
  | 0 => v
  | 1 => (o + v) % 2 ^ w
  | 2 => Nat.land o v
  | 3 => Nat.lor o v
  | 4 => Nat.xor o v
  | 5 => if asI w v < asI w o then v else o
  | 6 => if asI w o < asI w v then v else o
  | 7 => min o v
  | 8 => max o v
  | 9 => (fmtAdd fmtF32 0 o v).1
  | _ => if o ≥ v then 0 else o + 1

/-- A loaded value in its registers: a narrow value is zero-extended or sign-extended (R188). -/
def extendLoad (sx : Bool) (bytes v : Nat) : Nat := if sx then wrapTo 32 (asI (8 * bytes) v) else v

/-- A value arrives for a result (R49). -/
def Warp.deliver (w : Warp) (pend : Nat) (keys : List RegKey) (v : Nat) : Warp :=
  { w with pends := w.pends.map fun p =>
      if p.id = pend then
        { p with vals := p.vals ++ keys.zipIdx.map fun (k, i) => (k, BitVec.ofNat 32 (v >>> (32 * i))), left := p.left - 1 }
      else p }

/-- A result whose `left` parts are still to come marks its registers pending (R49). -/
def Warp.expect (w : Warp) (id : Nat) (keys : List RegKey) (left : Nat) (long : Bool) : Warp :=
  { w with pends := w.pends ++ [{ id, keys, vals := [], left, flags := 0, long }] }

/-- The values of a doubleword that writes since a mark of the history replaced, newest first. -/
def State.heldSince (s : State) (mark d : Nat) : List Held :=
  (s.gmeta.hist.take (s.gmeta.hist.length - mark)).filter fun x => x.dword = d

/-- One of the values that a doubleword has held since a mark, freely chosen where it was written since (R299). -/
def State.pickHeld (s : State) (key : Option Nat) (mark d : Nat) : DWord × State :=
  let vs := s.dword key (8 * d) :: (s.heldSince mark d).map (·.val)
  let (i, s1) := s.pick vs.length
  (vs.getD i 0, s1)

/-- A word of a doubleword. -/
def wordOf (d : DWord) (high : Bool) : Word := if high then hiWord d else loWord d

/-- A word read by an invariant load of a launch (R181, R182): its value when the launch became visible, or, where it has been
written since the placement of the first workgroup, freely one of those it has held since the launch became visible. -/
def State.ldiWord (s : State) (key : Option Nat) (mark first wd : Nat) : Word × State :=
  let high := wd % 2 = 1
  let written (l : List Held) : List Held := l.filter fun x => if high then x.hi else x.lo
  let old := written (s.heldSince mark (wd / 2))
  let vs := wordOf (s.dword key (8 * (wd / 2))) high :: old.map fun x => wordOf x.val high
  if (written (s.heldSince first (wd / 2))).isEmpty then (vs.getLastD 0, s)
  else
    let (i, s1) := s.pick vs.length
    (vs.getD i 0, s1)

/-- An invariant load of `n` bytes, each of its words on its own. -/
def State.ldiValue (s : State) (key : Option Nat) (mark first pa n : Nat) : Nat × State :=
  let words := (List.range ((pa + n - 1) / 4 - pa / 4 + 1)).map (· + pa / 4)
  let (bs, s1) := words.foldl
    (fun (acc : List Byte × State) wd => let (x, s1) := acc.2.ldiWord key mark first wd; (acc.1 ++ toBytes 4 x.toNat, s1)) ([], s)
  (ofBytes ((bs.drop (pa % 4)).take n), s1)

/-! Queue records (R214, R215) -/

/-- Write TOKENS and the mirror of the links of a record; HEAD and TAIL have no meaning to programs. -/
def State.queueMirror (s : State) (key : Option Nat) (pa tokens nwait : Nat) : State :=
  let (a, s1) := s.freeWord
  let (b, s2) := s1.freeWord
  let (c, s3) := s2.freeWord
  let (d, s4) := s3.freeWord
  s4.gWrite key pa (toBytes 4 tokens ++ toBytes 4 (nwait % 65536) ++ toBytes 4 a.toNat ++ toBytes 4 b.toNat ++ toBytes 4 c.toNat ++
    toBytes 4 d.toNat ++ toBytes 8 0)

/-- QWAKE of one lane: how many linked lanes it releases, in arrival order (R215). -/
def State.qwakeOp (s : State) (key : Option Nat) (pa n : Nat) (bank : Bool) : Nat × State :=
  let l := tgetD [] s.queues pa
  let k := min n l.length
  let freed := l.take k
  let tokens := (s.word key pa).toNat
  let tokens' := if bank then min (tokens + n - k) 0xFFFFFFFF else tokens
  let s1 := freed.foldl (fun s x => s.modWarp x.1 fun w => w.finishLane x.2 (some 1) true) s
  let s2 := { s1 with
    queues := tsetD [] s1.queues pa (l.drop k)
    waits := s1.waits.filter fun e => !(freed.contains (e.w, e.lane)) }
  (k, s2.queueMirror key pa tokens' (l.length - k))

/-! The wait table of a home slice (R212, R213) -/

/-- The home slice that owns a location (R432). -/
def sliceOf (pa : Nat) : Nat := Config.homeSlice (pa / 256) % 96

/-- The header of a launch queue's submission ring, or, from 64 on, of a partition's control queue (R361, R416). -/
def Partition.ringAt (p : Partition) (key : Nat) : Nat := if key < 64 then p.cq + 0x10000 + 0x1000 * key else p.cq

/-- Entries that the job engine keeps at a home slice on the rings of a partition (R416). -/
def State.ringWatches (s : State) (part : Nat) (p : Partition) (slice : Nat) : Nat :=
  (s.jobs.ring.filter fun x => (if x.1 < 64 then p.qmask.getLsbD x.1 else decide (x.1 = 64 + part)) && sliceOf (p.ringAt x.1) = slice).length

/-- The partition's share of the slice's table is full. -/
def State.shareFull (s : State) (part pa : Nat) : Bool :=
  let used := (s.waits.filter fun e => e.part = part && !e.shared && sliceOf e.pa = sliceOf pa).length
  match tfind s.parts part with | some p => p.wshare ≤ used + s.ringWatches part p (sliceOf pa) | none => true

/-- A lane that waits at a location starts: it finishes at once, takes an entry, or polls. -/
def State.startWait (s : State) (r : WarpRef) (l : LaneWait) : State :=
  let part := (s.wg r.wg).part
  let entry (shared : Bool) : WaitEntry := { pa := l.addr, part, w := r, lane := l.lane, shared }
  let polling (s : State) : State :=
    s.modWarp r fun w => match w.wait with
      | some (.lanes ls) => { w with wait := some (.lanes (ls.map fun x => if x.lane = l.lane then { x with poll := some (s.time + 1000) } else x)) }
      | _ => w
  let registered (s : State) : State :=
    s.modWarp r fun w => match w.wait with
      | some (.lanes ls) => { w with wait := some (.lanes (ls.map fun x => if x.lane = l.lane then { x with poll := none } else x)) }
      | _ => w
  match l.kind with
  | .waita bytes mask cmp expect =>
    let v := ofBytes (s.view l.key l.addr bytes)
    if waitaCond bytes mask cmp expect v then s.modWarp r fun w => w.finishLane l.lane (some v) true
    else
      let same := match (s.warp? r).bind (·.wait) with
        | some (.lanes ls) => s.waits.any fun e => e.w = r && ls.any fun x => x.lane = e.lane && x.addr = l.addr && x.kind = l.kind
        | _ => false
      if same then registered { s with waits := s.waits ++ [entry true] }
      else if s.shareFull part l.addr then polling s
      else registered { s with waits := s.waits ++ [entry false] }
  | .qwait =>
    let tokens := (s.word l.key l.addr).toNat
    if tokens > 0 then
      (s.queueMirror l.key l.addr (tokens - 1) (tgetD [] s.queues l.addr).length).modWarp r fun w => w.finishLane l.lane (some 0) true
    else if s.shareFull part l.addr then polling s
    else
      let q := tgetD [] s.queues l.addr ++ [(r, l.lane)]
      let s1 := { s with queues := tsetD [] s.queues l.addr q, waits := s.waits ++ [entry false] }
      registered (s1.queueMirror l.key l.addr 0 q.length)
  | _ => s

/-! Performing an access (R164-R167; notes/assumptions/9.md, 46.md) -/

/-- The marks of the value history at which the launch of a workgroup became visible and had its first workgroup placed
(R181); a placed workgroup that no launch stands for has both at the start of the history. -/
def State.markOf (s : State) (g : Nat) : Nat × Nat :=
  match s.launch? (s.wg g).launch with | some l => (l.mark, l.first.getD l.mark) | none => (0, 0)

/-- The accesses of a warp that stand before one. -/
def Warp.before (w : Warp) (id : Nat) : List Access := w.accs.takeWhile fun x => decide (x.id ≠ id)

/-- The scope of the agents that must see earlier accesses of the warp before the access `a` (R170), and those accesses. -/
def Warp.veilOf (w : Warp) (a : Access) : Option (Scope × List Nat) :=
  let xs := (w.before a.id).filterMap fun x => (veiledAt x a).map fun sc => (x.id, sc)
  if xs.isEmpty then none else some (if xs.any (·.2 = .clu) then .clu else .blk, xs.map (·.1))

/-- A lane waits at the location of an access (R212). -/
def State.awaited (s : State) (a : Access) : Bool := a.space = .g && s.waits.any fun e => e.pa < a.pa + a.bytes && a.pa < e.pa + 32

/-- An access of the warp that can be performed now: nothing issued before it holds it up, and no veil. -/
def State.performable (s : State) (r : WarpRef) (id : Nat) : Option Access :=
  (s.warp? r).bind fun w => (w.accs.find? fun a => a.id = id).filter fun a =>
    a.space ≠ .w && !((w.before id).any fun x => mustPrecede x a) && !((s.veil?.isSome || s.awaited a) && (w.veilOf a).isSome) &&
    !(a.space = .g && s.veiled r.wg (s.wg r.wg).core (some r) a.pa a.bytes (a.kind ≠ .read))

/-- The tag of the poison that an access meets, where it reads (R390). -/
def State.accPoison (s : State) (r : WarpRef) (a : Access) : Option Nat :=
  match a.kind with
  | .read | .atom _ | .cas | .qwake .. => if a.space = .a then (s.asp r.wg).aTag a.pa a.bytes else if a.space = .g then s.poisonAt a.pa a.bytes else none
  | _ => none

/-- One access is performed: by the bank for A space, by the home slice for G space. -/
def State.perform (s : State) (r : WarpRef) (a : Access) : State :=
  let veil := match (s.warp? r).bind fun w => w.veilOf a with
    | some (scope, ids) => some { w := r, scope, pa := a.pa, bytes := a.bytes, write := a.kind ≠ .read, until_ := ids }
    | none => s.veil
  let s0 := { s with veil }.modWarp r fun w => { w with accs := w.accs.filter fun x => decide (x.id ≠ a.id) }
  let give (v : Nat) (s : State) : State := s.modWarp r fun w => w.deliver a.pend a.dest v
  let put (v : Nat) (s : State) : State :=
    if a.space = .a then s.modA r.wg fun g => g.aPut a.pa (toBytes a.bytes v) else s.gWrite a.key a.pa (toBytes a.bytes v)
  let old : Nat := if a.space = .a then (s.asp r.wg).aRead a.pa a.bytes else ofBytes (s.view a.key a.pa a.bytes)
  match a.kind with
  | .fence _ | .arrive .. => s0
  | .read =>
    if a.ldi then
      let (v, s1) := s0.ldiValue a.key (s.markOf r.wg).1 (s.markOf r.wg).2 a.pa a.bytes
      give (extendLoad a.sx a.bytes v) s1
    else give (extendLoad a.sx a.bytes old) s0
  | .write => put a.data s0
  | .starr => s0.modA r.wg fun g => (g.contribute a.pa a.data).1
  | .atom aop => give old (put (atomNew aop (8 * a.bytes) old a.data) s0)
  | .cas => give old (if old = a.cmp then put a.data s0 else s0)
  | .qwake n bank =>
    let (k, s1) := s0.qwakeOp a.key a.pa n bank
    give k s1

/-- The accesses of one instruction join those the warp has issued, each with a number of its own. -/
def State.enqueue (s : State) (r : WarpRef) (as : List Access) : State :=
  let inst := s.fresh
  as.foldl (fun s a =>
    let (id, s1) := s.newId
    s1.modWarp r fun w => { w with accs := w.accs ++ [{ a with id, inst, path := w.path }] }) { s with fresh := s.fresh + 1 }

/-- The parts of an access: 16 bytes are two accesses of 8 (R166). -/
def splitAccess (a : Access) : List Access :=
  if a.bytes = 16 then
    [{ a with bytes := 8, data := a.data % 2 ^ 64, dest := a.dest.take 2 },
     { a with bytes := 8, va := a.va + 8, pa := a.pa + 8, data := a.data / 2 ^ 64, dest := a.dest.drop 2 }]
  else [a]

/-- The lanes of a wait begin, in ascending order. -/
def State.startLanes (s : State) (r : WarpRef) (lanes : List (Nat × Nat)) (done new : List LaneWait) : State :=
  let s1 := s.modWarp r fun w => { w with wait := some (.lanes (done ++ new)), waitAt := s.time, slotLanes := lanes }
  new.foldl (fun s l => s.startWait r l) s1

/-- A lane-waiting instruction (R199, R201, R202): lanes that finished before a withdrawal stay finished; the instruction
ends when all have. `start` gives the lanes that begin now. -/
def lanesWait (c : Ctx) (w : Warp) (s : State) (start : List (Nat × Nat) → (List LaneWait → Res) → Res) : Res :=
  let prev := match c.prev with | some (.lanes ls) => ls | _ => w.doneLanes
  if prev.any fun l => !l.finished then c.block s (.lanes prev)
  else
    let todo := c.lanes.filter fun x => !(prev.any fun l => l.lane = x.1)
    if todo.isEmpty && c.early.isEmpty then c.done w s
    else start todo fun new =>
      let s1 := s.startLanes c.w c.lanes prev new
      match (s1.warp? c.w).bind (·.wait) with
      | some (.lanes ls) => if ls.all (·.finished) then c.done w s1 else .next s1
      | _ => .next s1

end Sys2Proof.Machine
end

