-- ==== Sys2Proof/Machine/Float.lean ====
section
/-!
DEFINITION. Float.lean: the floating-point instructions, opcodes 0x40-0x52 (R90-R100).
-/
namespace Sys2Proof.Machine

/-- Element `k` of an operand in a format, elements `step` bits apart; an immediate supplies its integer value to every
element (R90, R100). -/
def Ctx.elem (c : Ctx) (w : Warp) (code : Code9) (sl : Slot) (x : Nat × Nat) (fm : Fmt) (step k : Nat) : Nat :=
  match opnd code with
  | .imm v => (roundVal fm 0 (ofInt v)).1
  | _ => bitsOf (c.val w code sl x.1 x.2) (step * k) (fm.mag + 1)

def Ctx.elemA (c : Ctx) (w : Warp) (x : Nat × Nat) (fm : Fmt) (step k : Nat) : Nat := c.elem w c.f.a c.sg.a x fm step k
def Ctx.elemB (c : Ctx) (w : Warp) (x : Nat × Nat) (fm : Fmt) (step k : Nat) : Nat := c.elem w c.f.b c.sg.b x fm step k
def Ctx.elemC (c : Ctx) (w : Warp) (x : Nat × Nat) (fm : Fmt) (step k : Nat) : Nat := c.elem w c.f.c c.sg.c x fm step k

/-- `n` elements computed apart, their flags ORed (R92, R100). -/
def elementwise (step n : Nat) (g : Nat → Nat × Word) : Val :=
  let rs := (List.range n).map g
  { v := joinFields step (rs.map (·.1)), flags := rs.foldl (fun a r => a ||| r.2) 0 }

/-- The format and the number of elements a packed selector names (R91). -/
def packedFmt (k : Nat) : Fmt := if k % 2 = 0 then fmtF16 else fmtBF16
def packedCount (k : Nat) : Nat := if k ≥ 2 then 4 else 2

def execFadd (f : Fields) (s : State) : Res :=
  compute 0x40 f s fun c w x =>
    elementwise 32 (c.f.c.toNat + 1) fun k => fmtAdd fmtF32 c.f.m.toNat (c.elemA w x fmtF32 32 k) (c.elemB w x fmtF32 32 k)

def execFsub (f : Fields) (s : State) : Res :=
  compute 0x41 f s fun c w x =>
    elementwise 32 (c.f.c.toNat + 1) fun k => fmtSub fmtF32 c.f.m.toNat (c.elemA w x fmtF32 32 k) (c.elemB w x fmtF32 32 k)

def execFmul (f : Fields) (s : State) : Res :=
  compute 0x42 f s fun c w x =>
    elementwise 32 (c.f.c.toNat + 1) fun k => fmtMul fmtF32 c.f.m.toNat (c.elemA w x fmtF32 32 k) (c.elemB w x fmtF32 32 k)

def execFma (f : Fields) (s : State) : Res :=
  compute 0x43 f s fun c w x =>
    elementwise 32 (c.f.m.toNat + 1) fun k =>
      fmtFma fmtF32 (c.elemA w x fmtF32 32 k) (c.elemB w x fmtF32 32 k) (c.elemC w x fmtF32 32 k)

/-- FMIN and FMAX (R93). -/
def fminmax (isMax : Bool) (m a b : Nat) : Val :=
  let na := isNan fmtF32 a
  let nb := isNan fmtF32 b
  let flags := whenFlag (isSnan fmtF32 a || isSnan fmtF32 b) flagINV
  if na && nb then { v := fmtF32.nan, flags }
  else if na || nb then
    if m = 1 && isMax then { v := fmtF32.nan, flags } else { v := if na then b else a, flags }
  else
    let less := fpOrd0 fmtF32 a < fpOrd0 fmtF32 b
    { v := if less = isMax then b else a, flags }

def execFmin (f : Fields) (s : State) : Res :=
  compute 0x44 f s fun c w x => fminmax false c.f.m.toNat (c.elemA w x fmtF32 32 0) (c.elemB w x fmtF32 32 0)

def execFmax (f : Fields) (s : State) : Res :=
  compute 0x45 f s fun c w x => fminmax true c.f.m.toNat (c.elemA w x fmtF32 32 0) (c.elemB w x fmtF32 32 0)

/-- Codes of FP32 that the tables of R94 name. -/
def f32One : Nat := 0x3F800000
def f32Inf (neg : Bool) : Nat := signCode fmtF32 neg 0x7F800000

def rcpVal (mode a : Nat) : Val :=
  match unpack fmtF32 a with
  | .nan sg => { v := fmtF32.nan, flags := whenFlag sg flagINV }
  | .inf neg => { v := zeroCode fmtF32 neg }
  | .zero neg => { v := f32Inf neg, flags := flagDZE }
  | .fin neg m e => let r := rcpFin mode neg m e; { v := r.1, flags := r.2 }

def rsqVal (mode a : Nat) : Val :=
  match unpack fmtF32 a with
  | .nan sg => { v := fmtF32.nan, flags := whenFlag sg flagINV }
  | .inf neg => if neg then { v := fmtF32.nan, flags := flagINV } else { v := 0 }
  | .zero neg => { v := f32Inf neg, flags := flagDZE }
  | .fin neg m e => if neg then { v := fmtF32.nan, flags := flagINV } else let r := rsqFin mode m e; { v := r.1, flags := r.2 }

def sqrtVal (mode a : Nat) : Val :=
  match unpack fmtF32 a with
  | .nan sg => { v := fmtF32.nan, flags := whenFlag sg flagINV }
  | .inf neg => if neg then { v := fmtF32.nan, flags := flagINV } else { v := f32Inf false }
  | .zero neg => { v := zeroCode fmtF32 neg }
  | .fin neg m e => if neg then { v := fmtF32.nan, flags := flagINV } else let r := sqrtFin mode m e; { v := r.1, flags := r.2 }

def exp2Val (mode a : Nat) : Val :=
  match unpack fmtF32 a with
  | .nan sg => { v := fmtF32.nan, flags := whenFlag sg flagINV }
  | .inf neg => if neg then { v := 0 } else { v := f32Inf false }
  | .zero _ => { v := f32One }
  | .fin neg m e => let r := exp2Fin mode neg m e; { v := r.1, flags := r.2 }

def log2Val (mode a : Nat) : Val :=
  match unpack fmtF32 a with
  | .nan sg => { v := fmtF32.nan, flags := whenFlag sg flagINV }
  | .inf neg => if neg then { v := fmtF32.nan, flags := flagINV } else { v := f32Inf false }
  | .zero _ => { v := f32Inf true, flags := flagDZE }
  | .fin neg m e => if neg then { v := fmtF32.nan, flags := flagINV } else let r := log2Fin mode m e; { v := r.1, flags := r.2 }

def execRcp (f : Fields) (s : State) : Res := compute 0x46 f s fun c w x => rcpVal c.f.m.toNat (c.elemA w x fmtF32 32 0)
def execRsq (f : Fields) (s : State) : Res := compute 0x47 f s fun c w x => rsqVal c.f.m.toNat (c.elemA w x fmtF32 32 0)
def execSqrt (f : Fields) (s : State) : Res := compute 0x48 f s fun c w x => sqrtVal c.f.m.toNat (c.elemA w x fmtF32 32 0)
def execExp2 (f : Fields) (s : State) : Res := compute 0x49 f s fun c w x => exp2Val c.f.m.toNat (c.elemA w x fmtF32 32 0)
def execLog2 (f : Fields) (s : State) : Res := compute 0x4A f s fun c w x => log2Val c.f.m.toNat (c.elemA w x fmtF32 32 0)

/-- FSETP (R95). -/
def fsetpVal (fm : Fmt) (sel a b : Nat) : Val :=
  let nan := isNan fm a || isNan fm b
  let snan := isSnan fm a || isSnan fm b
  let lt := decide (fpOrd fm a < fpOrd fm b)
  let eq := decide (fpOrd fm a = fpOrd fm b)
  let r := match sel with
    | 0 => !nan && eq
    | 1 => nan || !eq
    | 2 => !nan && lt
    | 3 => !nan && (lt || eq)
    | 4 => !nan && !(lt || eq)
    | 5 => !nan && !lt
    | 6 => !nan
    | _ => nan
  { v := if r then 1 else 0, flags := whenFlag (if 2 ≤ sel && sel ≤ 5 then nan else snan) flagINV }

def execFsetp (f : Fields) (s : State) : Res :=
  compute 0x4B f s fun c w x =>
    let fm := if c.f.m = 0 then fmtF32 else if c.f.m = 1 then fmtF16 else fmtBF16
    fsetpVal fm c.f.c.toNat (c.elemA w x fm 32 0) (c.elemB w x fm 32 0)

/-- The order key of R75 under rule 0 .TOTAL, 1 .NANMAX, 2 .NUM. -/
def orderKey (fm : Fmt) (rule a : Nat) : Nat :=
  let neg := a / 2 ^ fm.mag = 1
  let ones := 2 ^ (fm.mag + 1) - 1
  if isNan fm a then
    if rule = 1 then ones else if rule = 2 then 0 else if neg then 0 else ones
  else if neg then ones - a else a + 2 ^ fm.mag

def execFkey (f : Fields) (s : State) : Res :=
  compute 0x4C f s fun c w x =>
    let fm := if c.f.m.toNat < 3 then fmtF32 else fmtF16
    { v := orderKey fm (c.f.m.toNat % 3) (c.elemA w x fm 32 0) }

/-- The format of a floating-point type code of CVT (R97). -/
def cvtFmt (t : Nat) : Fmt := if t = 0 then fmtF32 else if t = 1 then fmtF16 else fmtBF16
/-- Width and signedness of an integer type code of CVT (R97). -/
def cvtBits (t : Nat) : Nat := if t ≤ 4 then 32 else if t ≤ 6 then 64 else if t ≤ 8 then 16 else 8
def cvtSigned (t : Nat) : Bool := t % 2 = 1

/-- The exact source value of CVT; `a` is the operand, in the format of the type where that is a floating-point one. -/
def cvtSource (t a : Nat) : FpVal :=
  if t ≤ 2 then unpack (cvtFmt t) a
  else
    let n := a % 2 ^ cvtBits t
    ofInt (if cvtSigned t then asI (cvtBits t) n else n)

/-- CVT (R97). -/
def cvtVal (mode dst src a : Nat) : Val :=
  let v := cvtSource src a
  if dst ≤ 2 then let r := roundVal (cvtFmt dst) mode v; { v := r.1, flags := r.2 }
  else
    let w := cvtBits dst
    let r := if cvtSigned dst then toIntType mode (minI w) (maxI w) v else toIntType mode 0 (maxN w) v
    { v := wrapTo (max w 32) r.1, flags := r.2 }

def execCvt (f : Fields) (s : State) : Res :=
  compute 0x4D f s fun c w x =>
    let sel := c.f.b.toNat
    let src := sel % 16
    cvtVal c.f.m.toNat (sel / 16) src (if src ≤ 2 then c.elemA w x (cvtFmt src) 32 0 else c.valA w x)

/-- The narrow format of a selector of NARROW and the low selectors of WIDEN (R91, R99). -/
def narrowFmt (sel : Nat) : Fmt :=
  match sel with
  | 0 => fmtE2M1
  | 1 => fmtE4M3
  | 2 => fmtE5M2
  | 3 => fmtF16
  | 4 => fmtBF16
  | 8 => fmtE2M1
  | _ => fmtE4M3

/-- Replace field `p` of `n` bits in a word. -/
def setField (old p n x : Nat) : Nat := old % 2 ^ (n * p) + x * 2 ^ (n * p) + old / 2 ^ (n * p + n) * 2 ^ (n * p + n)

/-- NARROW (R98): D's old value with the element in its field, and under .EF the new companion. -/
def narrowVal (mode sel a pos d : Nat) : Val :=
  let fm := narrowFmt sel
  let n := fm.mag + 1
  let p := pos % (32 / n)
  if mode = 4 then
    let r := roundEf fm a (d / 2 ^ 32)
    { v := setField (d % 2 ^ 32) p n r.1 + r.2.1 * 2 ^ 32, flags := r.2.2 }
  else
    let r := roundVal fm mode (unpack fmtF32 a)
    { v := setField d p n r.1, flags := r.2 }

def execNarrow (f : Fields) (s : State) : Res :=
  compute 0x4E f s fun c w x =>
    narrowVal c.f.m.toNat c.f.b.toNat (c.elemA w x fmtF32 32 0) (c.valC w x) (c.valD w x)

/-- WIDEN (R99). -/
def widenVal (mode sel : Nat) (tbase : Int) (a pos : Nat) : Val :=
  let fm := narrowFmt sel
  let n := fm.mag + 1
  let code := bitsOf a (n * (pos % (32 / n))) n
  if sel ≥ 8 then
    let r := roundVal fmtF32 mode (blockVal (sel = 9) (bitsOf a 32 8) tbase code)
    { v := r.1, flags := r.2 }
  else let r := roundVal fmtF32 0 (unpack fm code); { v := r.1, flags := r.2 }

def execWiden (f : Fields) (s : State) : Res :=
  compute 0x4F f s fun c w x => widenVal c.f.m.toNat c.f.b.toNat w.tbase.toInt (c.valA w x) (c.valC w x)

def execPkadd (f : Fields) (s : State) : Res :=
  compute 0x50 f s fun c w x =>
    let k := c.f.c.toNat
    elementwise 16 (packedCount k) fun i =>
      fmtAdd (packedFmt k) c.f.m.toNat (c.elemA w x (packedFmt k) 16 i) (c.elemB w x (packedFmt k) 16 i)

def execPkmul (f : Fields) (s : State) : Res :=
  compute 0x51 f s fun c w x =>
    let k := c.f.c.toNat
    elementwise 16 (packedCount k) fun i =>
      fmtMul (packedFmt k) c.f.m.toNat (c.elemA w x (packedFmt k) 16 i) (c.elemB w x (packedFmt k) 16 i)

def execPkfma (f : Fields) (s : State) : Res :=
  compute 0x52 f s fun c w x =>
    let k := c.f.m.toNat
    elementwise 16 (packedCount k) fun i =>
      fmtFma (packedFmt k) (c.elemA w x (packedFmt k) 16 i) (c.elemB w x (packedFmt k) 16 i) (c.elemC w x (packedFmt k) 16 i)

end Sys2Proof.Machine
end

