-- ==== Sys2Proof/Machine/Memory.lean ====
section
/-!
DEFINITION. Memory.lean: the memory instructions, opcodes 0x80-0x8C but LDW (R187-R206), and the steps that perform what
they issued.
-/
namespace Sys2Proof.Machine

/-- The address of a lane (R192): base A, index B scaled, displacement, modulo 2^`w`. -/
def Ctx.addr (c : Ctx) (w : Warp) (bits : Nat) (indexed : Bool) (x : Nat × Nat) : Nat :=
  let idx : Int := if indexed then asI 32 (c.valB w x) * (2 ^ extScale c.f.ext : Int) else 0
  wrapTo bits ((c.valA w x : Int) + idx + extDisp c.f.ext)

def Ctx.laneAddrs (c : Ctx) (w : Warp) (bits : Nat) (indexed : Bool) : List LaneAddr :=
  c.lanes.map fun x => (x.1, x.2, c.addr w bits indexed x)

def Ctx.bytes (c : Ctx) : Nat := widthBytes (extWidth c.f.ext)
def Ctx.signed (c : Ctx) : Bool := extWidth c.f.ext = 1 || extWidth c.f.ext = 3
def Ctx.scope (c : Ctx) : Scope := scopeOf (extScope c.f.ext)

/-- Faults of A accesses; a load of poisoned words parks (R390); else the instruction goes on. -/
def aLanes (c : Ctx) (s : State) (ls : List LaneAddr) (align n : Nat) (write load : Bool) (k : Unit → Res) : Res :=
  let fs := c.faults (ls.filterMap fun x => s.aFault c.w x.1 x.2.2 align n write)
  if !fs.isEmpty then c.laneTrap s fs
  else
    let g := s.asp c.w.wg
    let bad := ls.filter fun x => load && (g.aTag x.2.2 n).isSome
    match bad with
    | x :: _ => s.parkPoison c x.2.2 ((g.aTag x.2.2 n).getD 0) (bad.map fun y => 2 ^ 65 + y.2.2 / 4)
    | [] => k ()

/-- LDA (R194). -/
def execLda (f : Fields) (s : State) : Res :=
  issueLanes 0x80 f s fun c w s =>
    let n := c.bytes
    let ls := c.laneAddrs w 32 true
    aLanes c s ls n n false true fun _ =>
      if ls.any fun x => w.held { plainAccess x.1 .a x.2.2 x.2.2 n .read with acq := c.f.m = 1, scope := c.scope } then c.block s .drain
      else
        let g := s.asp c.w.wg
        let (id, s1) := s.newId
        let w1 := ls.foldl (fun w x => w.deliver id (c.dest w x.1) (extendLoad c.signed n (g.aRead x.2.2 n)))
          (w.expect id (ls.flatMap fun x => c.dest w x.1) ls.length false)
        c.done w (s1.setWarp c.w w1)

/-- STA (R194): the store passes through the write queue (R176 note 1). -/
def execSta (f : Fields) (s : State) : Res :=
  issueLanes 0x81 f s fun c w s =>
    let n := c.bytes
    let ls := c.laneAddrs w 32 true
    aLanes c s ls n n true false fun _ =>
      let as := ls.flatMap fun x => splitAccess
        { plainAccess x.1 .a x.2.2 x.2.2 n .write with
            data := c.valC w (x.1, x.2.1) % 2 ^ (8 * n), rel := c.f.m = 2, scope := c.scope }
      c.done w (s.enqueue c.w as)

/-- An acquire or release of scope .blk on a G address (R168). -/
def blkOnG (c : Ctx) (_ : Nat) : Option Cause := if c.f.m ≠ 0 && c.scope = .blk then some .scopeSpace else none

/-- Queue G accesses that return a value to their lanes (R49). -/
def gReads (c : Ctx) (w : Warp) (s : State) (ts : List (LaneAddr × Trans)) (mk : LaneAddr → Access) : Res :=
  let (id, s1) := s.newId
  let as := ts.flatMap fun (x, t) => splitAccess
    { mk x with va := x.2.2, pa := t.pa, key := pteSlot t.pte, dest := c.dest w x.1, pend := id }
  let s2 := s1.modWarp c.w fun w => w.expect id (ts.flatMap fun x => c.dest w x.1.1) as.length true
  c.done w (s2.enqueue c.w as)

/-- LDG (R194). -/
def execLdg (f : Fields) (s : State) : Res :=
  issueLanes 0x82 f s fun c w s =>
    let n := c.bytes
    gLanes c w s (blkOnG c) (c.laneAddrs w 64 true) n n false false true true fun ts =>
      gReads c w s ts fun x => { plainAccess x.1 .g 0 0 n .read with acq := c.f.m = 1, scope := c.scope, sx := c.signed }

/-- STG (R194). -/
def execStg (f : Fields) (s : State) : Res :=
  issueLanes 0x83 f s fun c w s =>
    let n := c.bytes
    gLanes c w s (blkOnG c) (c.laneAddrs w 64 true) n n true true true false fun ts =>
      let as := ts.flatMap fun (x, t) => splitAccess
        { plainAccess x.1 .g x.2.2 t.pa n .write with
            data := c.valC w (x.1, x.2.1) % 2 ^ (8 * n), rel := c.f.m = 2, scope := c.scope, key := pteSlot t.pte }
      c.done w (s.enqueue c.w as)

/-- LDI (R195). -/
def execLdi (f : Fields) (s : State) : Res :=
  issueLanes 0x84 f s fun c w s =>
    let n := c.bytes
    gLanes c w s (fun _ => none) (c.laneAddrs w 64 true) n n false false true true fun ts =>
      gReads c w s ts fun x => { plainAccess x.1 .g 0 0 n .read with ldi := true, sx := c.signed }

/-- Row and column of LDC and STC, each formed exactly (R197). -/
def Ctx.element (c : Ctx) (w : Warp) (x : Nat × Nat) : Nat × Nat :=
  (c.valA w x % 2 ^ 32 + bitsOf c.f.ext.toNat 8 8, c.valB w x % 2 ^ 32 + bitsOf c.f.ext.toNat 0 8)

/-- The fault of an access to an element of C space (R29, R197, R113). -/
def State.cFault (s : State) (core : Nat) (w : Warp) (lane row col : Nat) : Option LaneFault :=
  if !(w.cwb ≤ row && row < w.cwl) || col > 127 then some (addrFault lane .cWindow (row * 256 + col))
  else if s.lockedC core row then some (addrFault lane .rangeLocked (row * 256 + col))
  else none

/-- The fault of a read of an element; RESOLVE may have refused one that is poisoned (R390). -/
def State.cReadFault (s : State) (core : Nat) (w : Warp) (lane row col : Nat) : Option LaneFault :=
  match s.cFault core w lane row col with
  | some x => some x
  | none => if w.tr.any fun x => x.1 = 2 ^ 67 + (row * 128 + col) then some (addrFault lane .gRefused (row * 256 + col)) else none

/-- Park the warp on the poisoned elements among those its lanes read, each given with its row and column (R390). -/
def State.parkC (s : State) (c : Ctx) (core : Nat) (ls : List (Nat × Nat)) (k : Unit → Res) : Res :=
  match ls.filter fun x => ((s.core core).tagC (x.1 * 128 + x.2)).isSome with
  | [] => k ()
  | x :: rest => s.parkPoison c (x.1 * 256 + x.2) (((s.core core).tagC (x.1 * 128 + x.2)).getD 0) ((x :: rest).map fun y => 2 ^ 67 + (y.1 * 128 + y.2))

/-- LDC (R197). -/
def execLdc (f : Fields) (s : State) : Res :=
  issueLanes 0x86 f s fun c w s =>
    let core := (s.wg c.w.wg).core
    let ls := c.lanes.map fun x => (x.1, c.element w x)
    let fs := c.faults (ls.filterMap fun x => s.cReadFault core w x.1 x.2.1 x.2.2)
    if !fs.isEmpty then c.laneTrap s fs
    else if ls.any fun x => w.held (plainAccess x.1 .c 0 (4 * (x.2.1 * 128 + x.2.2)) 4 .read) then c.block s .drain
    else s.parkC c core (ls.map (·.2)) fun _ =>
      let (id, s1) := s.newId
      let w1 := ls.foldl (fun w x => w.deliver id (c.dest w x.1) (tgetD 0 (s.core core).c (x.2.1 * 128 + x.2.2)).toNat)
        (w.expect id (ls.flatMap fun x => c.dest w x.1) ls.length false)
      c.done w (s1.setWarp c.w w1)

/-- STC (R197). -/
def execStc (f : Fields) (s : State) : Res :=
  issueLanes 0x87 f s fun c w s =>
    let core := (s.wg c.w.wg).core
    let ls := c.lanes.map fun x => (x, c.element w x)
    let fs := c.faults (ls.filterMap fun x => s.cFault core w x.1.1 x.2.1 x.2.2)
    if !fs.isEmpty then c.laneTrap s fs
    else if ls.any fun x => w.held (plainAccess x.1.1 .c 0 (4 * (x.2.1 * 128 + x.2.2)) 4 .write) then c.block s .drain
    else
      c.done w (s.modCore core fun k => k.putC (ls.map fun x => (x.2.1 * 128 + x.2.2, BitVec.ofNat 64 (c.valC w x.1))))

/-- The limit of a wait that starts now (R199). -/
def Ctx.waitLimit (c : Ctx) (s : State) : Option Nat :=
  if extWlim c.f.ext = 0 then none else some (s.time + 1024 * extWlim c.f.ext)

/-- The predicate a tag instruction names. -/
def predKey (code : Code9) (t : Nat) : Option RegKey :=
  match opnd code with
  | .p k => if code = 0 then none else some (.p k t)
  | _ => none

/-- LDTF (R199). -/
def execLdtf (f : Fields) (s : State) : Res :=
  issueLanes 0x88 f s fun c w s =>
    lanesWait c w s fun todo k =>
      let ls := todo.map fun x => (x.1, x.2, c.addr w 32 true x)
      aLanes c s ls 4 4 false false fun _ =>
        if ls.any fun x => w.held { plainAccess x.1 .a x.2.2 x.2.2 4 .read with acq := c.f.m = 1 || c.f.m = 5, scope := c.scope } then c.block s .drain
        else k (ls.map fun x =>
          { lane := x.1, addr := x.2.2, va := 0, kind := .ldtf (c.f.m.toNat ≥ 4), dest := c.dest w x.1, pred := predKey c.f.c x.1
            limit := c.waitLimit s, poll := none, key := none, finished := false })

/-- STTE (R199). -/
def execStte (f : Fields) (s : State) : Res :=
  issueLanes 0x89 f s fun c w s =>
    lanesWait c w s fun todo k =>
      let ls := todo.map fun x => (x.1, x.2, c.addr w 32 true x)
      aLanes c s ls 4 4 true false fun _ =>
        if ls.any fun x => w.held { plainAccess x.1 .a x.2.2 x.2.2 4 .write with rel := c.f.m = 2, scope := c.scope } then c.block s .drain
        else k (ls.map fun x =>
          { lane := x.1, addr := x.2.2, va := 0, kind := .stte (BitVec.ofNat 32 (c.valC w (x.1, x.2.1))), dest := [], pred := predKey c.f.d x.1
            limit := c.waitLimit s, poll := none, key := none, finished := false })

/-- TAGSET (R200) sets the tags of a run of words. -/
def tagset (full : Bool) (f : Fields) (s : State) : Res :=
  issueLanes 0x8A f s fun c w s =>
    let ls := c.lanes.map fun x => (x, c.addr w 32 true x, c.valC w x % 2 ^ 32)
    let fs := c.faults (ls.filterMap fun x => s.aFaultUsed c.w x.1.1 x.2.1 4 (4 * max x.2.2 1) (4 * x.2.2) true)
    if !fs.isEmpty then c.laneTrap s fs
    else if ls.any fun x => w.held (plainAccess x.1.1 .a x.2.1 x.2.1 (4 * x.2.2) .write) then c.block s .drain
    else
      c.done w (s.modA c.w.wg fun g =>
        ls.foldl (fun g x => (List.range x.2.2).foldl (fun g i => g.setTag (x.2.1 + 4 * i) full) g) g)

def execTagsetEmpty (f : Fields) (s : State) : Res := tagset false f s
def execTagsetFull (f : Fields) (s : State) : Res := tagset true f s

/-- An atomic of a scope wider than .blk in deterministic mode (R206). -/
def detForbids (c : Ctx) (s : State) (_ : Nat) : Option Cause :=
  if c.scope ≠ .blk && s.flag c.w.wg (·.det) then some .detForbidden else none

/-- ATOM and CAS (R204, R205): `kind` and, for a lane, its operand and its expected value. -/
def atomic (op : Nat) (f : Fields) (s : State) (indexed : Bool) (kind : Ctx → AccKind) (args : Ctx → Warp → Nat × Nat → Nat × Nat) : Res :=
  issueLanes op f s fun c w s =>
    let n := c.bytes
    let acc (x : LaneAddr) (sp : Space) : Access :=
      { plainAccess x.1 sp x.2.2 x.2.2 n (kind c) with
          data := (args c w (x.1, x.2.1)).1 % 2 ^ (8 * n), cmp := (args c w (x.1, x.2.1)).2 % 2 ^ (8 * n)
          acq := c.f.m = 1 || c.f.m = 3, rel := c.f.m = 2 || c.f.m = 3, scope := c.scope }
    if c.scope = .blk then
      let ls := c.laneAddrs w 32 indexed
      aLanes c s ls n n true true fun _ =>
        let (id, s1) := s.newId
        let s2 := s1.modWarp c.w fun w => w.expect id (ls.flatMap fun x => c.dest w x.1) ls.length false
        c.done w (s2.enqueue c.w (ls.map fun x => { acc x .a with dest := c.dest w x.1, pend := id }))
    else
      gLanes c w s (detForbids c s) (c.laneAddrs w 64 indexed) n n true true (c.scope = .sys) true fun ts =>
        gReads c w s ts fun x => acc x .g

/-- ATOM (R203, R204); the operand of .FADD is an FP32 one (R90). -/
def execAtom (f : Fields) (s : State) : Res :=
  atomic 0x8B f s true (fun c => .atom (extAop c.f.ext)) fun c w x =>
    (if extAop c.f.ext = 9 then c.elemC w x fmtF32 32 0 else c.valC w x, 0)

/-- CAS (R205). -/
def execCas (f : Fields) (s : State) : Res :=
  atomic 0x8C f s false (fun _ => .cas) fun c w x => (c.valC w x, c.valB w x)

/-! The steps that perform accesses and deliver results -/

/-- LOAD_RESULT_LAND (R49): a complete result lands in its registers, which stop being pending. -/
def execLoadResultLand (r : WarpRef) (pend : Nat) (s : State) : Res :=
  match s.warp? r with
  | none => .next s
  | some w =>
    match w.pends.find? fun p => p.id = pend && p.left = 0 with
    | none => .next s
    | some p =>
      let w1 := p.vals.foldl (fun w (k, v) => w.land k v) w
      .next (s.setWarp r { w1 with status := w1.status ||| p.flags, pends := w1.pends.filter fun q => decide (q.id ≠ pend) })

/-- G_ACCESS_PERFORM (R167): the home slice, or the bank, performs one access.  A load whose data has become poisoned
since its issue parks its warp (notes/assumptions/9.md). -/
def execGAccessPerform (r : WarpRef) (acc : Nat) (s : State) : Res :=
  match s.performable r acc with
  | none => .next s
  | some a => .next (match s.accPoison r a with
    | some tag => s.parkLate r a.va tag
    | none => s.perform r a)

/-- A lane of LDTF or STTE acts at its word (R199): the tag condition of the lane, its action, its end. -/
def State.tagLane (s : State) (r : WarpRef) (l : LaneWait) : Option State :=
  let g := s.asp r.wg
  match l.kind with
  | .ldtf empty =>
    if g.full l.addr then
      let s1 := if empty then s.modA r.wg fun g => g.setTag l.addr false else s
      some (s1.modWarp r fun w => w.finishLane l.lane (some (g.aRead l.addr 4)) true)
    else none
  | .stte v =>
    if !g.full l.addr then
      some ((s.modA r.wg fun g => (g.aPut l.addr (toBytes 4 v.toNat)).setTag l.addr true).modWarp r fun w => w.finishLane l.lane none true)
    else none
  | _ => none

/-- The tag of the poison that a lane of LDTF meets once its condition holds (R390). -/
def State.lanePoison (s : State) (r : WarpRef) (l : LaneWait) : Option Nat :=
  let g := s.asp r.wg
  match l.kind with
  | .ldtf _ => if g.full l.addr then g.aTag l.addr 4 else none
  | _ => none

/-- A waiting lane acts, or parks its warp on poisoned data. -/
def State.tagAct (s : State) (r : WarpRef) (l : LaneWait) : Option State :=
  match s.lanePoison r l with
  | some tag => if s.isParked r then none else some (s.parkLate r l.addr tag)
  | none => s.tagLane r l

/-- What becomes of the state when a waiting lane may act now; lanes on one word act in ascending order (R199). -/
def State.tagTurn (s : State) (r : WarpRef) (lane : Nat) : Option State :=
  match s.warp? r with
  | none => none
  | some w =>
    match w.wait, w.laneWait? lane with
    | some (.lanes ls), some l =>
      if ls.any fun x => !x.finished && x.addr = l.addr && x.lane < lane then none else s.tagAct r l
    | _, _ => none

/-- TAG_CONDITION_MET (R199). -/
def execTagConditionMet (r : WarpRef) (lane : Nat) (s : State) : Res := .next ((s.tagTurn r lane).getD s)

/-- The lane of a wait whose limit has passed ends (R199, R212); a tag condition that holds at that moment still acts. -/
def State.endLane (s : State) (r : WarpRef) (l : LaneWait) : State :=
  match l.kind with
  | .ldtf _ | .stte _ =>
    if (s.lanePoison r l).isSome then (s.tagAct r l).getD s
    else match s.tagLane r l with
      | some s1 => s1
      | none => s.modWarp r fun w => w.finishLane l.lane none false
  | .waita bytes .. =>
    let v := ofBytes (s.view l.key l.addr bytes)
    { s.modWarp r (fun w => w.finishLane l.lane (some v) false) with
      waits := s.waits.filter fun e => decide (e.w ≠ r ∨ e.lane ≠ l.lane) }
  | .qwait => s

/-- The lanes of a warp whose wait limit has passed, but for those that are parked on poison (R199, R212, R390). -/
def State.lanesDue (s : State) (r : WarpRef) : List LaneWait :=
  match (s.warp? r).bind (·.wait) with
  | some (.lanes ls) => ls.filter fun l => !l.finished && l.limit.any (· ≤ s.time) && !(s.isParked r && (s.lanePoison r l).isSome)
  | _ => []

/-- INSTR_WAIT_LIMIT (R199, R212): the limit of an instruction's own wait has passed. -/
def execInstrWaitLimit (r : WarpRef) (s : State) : Res := .next ((s.lanesDue r).foldl (fun s l => s.endLane r l) s)

/-- POLL_READ (R213): a lane that found its share of the table full reads the location again. -/
def execPollRead (r : WarpRef) (lane : Nat) (s : State) : Res :=
  match (s.warp? r).bind (·.laneWait? lane) with
  | some l =>
    match l.poll with
    | some t => if t ≤ s.time && !s.veiled r.wg (s.wg r.wg).core (some r) l.addr 32 true then .next (s.startWait r l) else .next s
    | none => .next s
  | none => .next s

end Sys2Proof.Machine
end

