-- ==== Sys2Proof/Machine/Sync.lean ====
section
/-!
DEFINITION. Sync.lean: barriers, fences, waits on addresses and queues, stage arrivals: opcodes 0x70-0x77 (R207, R209,
R212-R215, R248-R253).
-/
namespace Sys2Proof.Machine

/-- The effective mask of a barrier instruction among `n` warps (R249). -/
def barMask (n mask : Nat) : BitVec 16 := BitVec.ofNat 16 (mask % 2 ^ n)

/-- An arrival (R250): the cause it traps with, or the workgroup with the arrival recorded. -/
def Workgroup.arrive (g : Workgroup) (wix b mask : Nat) : Except Cause Workgroup :=
  let m := barMask g.warps.length mask
  let old := tgetD Barrier.clear g.bars b
  if b > 15 then .error .barState
  else if ((g.warps[wix]?).bind fun w => tfind w.barPend b).isSome then .error .barState
  else if !m.getLsbD wix then .error .barMask
  else if (match old.pmask with | some p => decide (p ≠ m) | none => false) then .error .barMask
  else
    let arrived : Barrier := { phase := old.phase, pmask := some m, arr := old.arr ||| (1#16 <<< wix) }
    .ok { g with
      warps := g.warps.modify wix fun w => { w with barPend := tput w.barPend b old.phase }
      bars := tput g.bars b (barComplete g.warps arrived) }

/-- The release of an arrival at barrier `b` takes effect once the warp's earlier accesses have been performed (R252). -/
def State.arriveRelease (s : State) (r : WarpRef) (w : Warp) (b : Nat) : State :=
  match if w.released then none else (s.warp? r).bind fun x => tfind x.barPend b with
  | some phase => s.enqueue r [plainAccess 0 .a 0 0 0 (.arrive b phase)]
  | none => s

/-- The release of an arrival at a phase of a barrier is still to take effect. -/
def Workgroup.arriving (g : Workgroup) (b phase : Nat) : Bool := g.warps.any fun w => w.accs.any fun x => x.kind = .arrive b phase

/-- BARA (R250): the arrival is recorded where the instruction issues; its release (R252) takes its place among the accesses. -/
def execBara (f : Fields) (s : State) : Res :=
  uniform 0x70 f s fun c w x s =>
    match (s.wg c.w.wg).arrive c.w.wix (c.valA w x) (c.valB w x) with
    | .error cause => c.trapU s cause
    | .ok g => c.done w ((s.modWg c.w.wg fun _ => g).arriveRelease c.w w (c.valA w x))

/-- A pending arrival at phase `mine` of a barrier may be waited for no longer: the phase has completed, its members' releases
have taken effect, and nothing of the warp holds up an acquire (R250, R252). -/
def State.barOver (s : State) (r : WarpRef) (w : Warp) (b mine : Nat) : Bool :=
  (tgetD Barrier.clear (s.wg r.wg).bars b).phase > mine && !(s.wg r.wg).arriving b mine && !w.held acquireBlk

/-- The wait of BARW: it ends once the phase of the pending arrival has completed. -/
def barWait (c : Ctx) (w : Warp) (s : State) (b : Nat) : Res :=
  match (s.warp? c.w).bind fun w => (tfind w.barPend b).map fun mine => (w, mine) with
  | none => c.trapU s .barState
  | some (w1, mine) =>
    if s.barOver c.w w1 b mine then c.done w (s.modWarp c.w fun w => { w with barPend := terase w.barPend b })
    else c.block s (.bar b)

/-- BARW (R250); one that waits already keeps its barrier. -/
def execBarw (f : Fields) (s : State) : Res :=
  uniform 0x71 f s fun c w x s =>
    match c.prev with
    | some (.bar b) => barWait c w s b
    | _ => if c.valA w x > 15 then c.trapU s .barState else barWait c w s (c.valA w x)

/-- BAR (R250): BARA, then BARW, as one instruction; one that comes back after its arrival waits only (R253). -/
def execBar (f : Fields) (s : State) : Res :=
  uniform 0x72 f s fun c w x s =>
    match (match c.prev, w.kept with | some (.bar b), _ | _, some (.bar b) => if (tfind w.barPend b).isSome then some b else none | _, _ => none) with
    | some b => barWait c w s b
    | none =>
      match (s.wg c.w.wg).arrive c.w.wix (c.valA w x) (c.valB w x) with
      | .error cause => c.trapU s cause
      | .ok g => barWait c w ((s.modWg c.w.wg fun _ => g).arriveRelease c.w w (c.valA w x)) (c.valA w x)

/-- FENCE (R207): where accesses are still to be performed, the fence keeps its place among them. -/
def execFence (f : Fields) (s : State) : Res :=
  uniform 0x73 f s fun c w _ s =>
    if w.released then c.done w s
    else c.done w (s.enqueue c.w [{ plainAccess 0 .g 0 0 0 (.fence c.f.m.toNat) with scope := scopeOf c.f.a.toNat }])

/-- A veil keeps a warp from waiting at a location. -/
def State.awaitVeiled (s : State) (r : WarpRef) (pa n : Nat) : Bool := s.veiled r.wg (s.wg r.wg).core (some r) pa n true

/-- WAITA (R212). -/
def execWaita (f : Fields) (s : State) : Res :=
  issueLanes 0x74 f s fun c w s =>
    lanesWait c w s fun todo k =>
      let n := c.bytes
      let early (_ : Nat) : Option Cause := if c.scope = .blk then some .scopeSpace else none
      gLanes c w s early (todo.map fun x => (x.1, x.2, c.addr w 64 false x)) n n false false true true fun ts =>
        if ts.any fun x => w.held { plainAccess x.1.1 .g x.1.2.2 x.2.pa n .read with acq := true, scope := c.scope } || s.awaitVeiled c.w x.2.pa n then
          c.block s .drain
        else k (ts.map fun (x, t) =>
          { lane := x.1, addr := t.pa, va := x.2.2
            kind := .waita n (c.valB w (x.1, x.2.1) % 2 ^ (8 * n)) c.f.m.toNat (c.valC w (x.1, x.2.1) % 2 ^ (8 * n))
            dest := c.dest w x.1, pred := none, limit := c.waitLimit s, poll := none, key := pteSlot t.pte, finished := false })

/-- A queue instruction in deterministic mode (R193). -/
def detQueue (c : Ctx) (s : State) (_ : Nat) : Option Cause := if s.flag c.w.wg (·.det) then some .detForbidden else none

/-- QWAIT (R215). -/
def execQwait (f : Fields) (s : State) : Res :=
  issueLanes 0x75 f s fun c w s =>
    lanesWait c w s fun todo k =>
      gLanes c w s (detQueue c s) (todo.map fun x => (x.1, x.2, c.valA w x)) 32 32 true false true true fun ts =>
        if ts.any fun x => w.held { plainAccess x.1.1 .g x.1.2.2 x.2.pa 32 .read with acq := true, scope := .dev } || s.awaitVeiled c.w x.2.pa 32 then
          c.block s .drain
        else k (ts.map fun (x, t) =>
          { lane := x.1, addr := t.pa, va := x.2.2, kind := .qwait, dest := c.dest w x.1, pred := none, limit := none, poll := none
            key := pteSlot t.pte, finished := false })

/-- QWAKE (R215), banking or dropping the wakes that find no lane. -/
def qwake (bank : Bool) (f : Fields) (s : State) : Res :=
  issueLanes 0x76 f s fun c w s =>
    gLanes c w s (detQueue c s) (c.lanes.map fun x => (x.1, x.2, c.valA w x)) 32 32 true true true true fun ts =>
      gReads c w s ts fun x =>
        { plainAccess x.1 .g 0 0 32 (.qwake (c.valB w (x.1, x.2.1) % 2 ^ 32) bank) with rel := true, scope := .dev }

def execQwakeBank (f : Fields) (s : State) : Res := qwake true f s
def execQwakeDrop (f : Fields) (s : State) : Res := qwake false f s

/-- STARR (R209): contributions to stage words, each a release, in ascending lane order on one word. -/
def execStarr (f : Fields) (s : State) : Res :=
  issueLanes 0x77 f s fun c w s =>
    let ls := c.lanes.map fun x => (x.1, c.valA w x % 2 ^ 32, c.valB w x % 2 ^ 32)
    let g := s.wg c.w.wg
    let fault (x : Nat × Nat × Nat) : Option LaneFault :=
      if x.2.1 + 4 > g.aSize then some (addrFault x.1 .aRange x.2.1)
      else if x.2.1 % 4 ≠ 0 then some (addrFault x.1 .localAlign x.2.1)
      else if x.2.2 > 0xFFFFFF then some { lane := x.1, cause := .stageCount }
      else if s.lockedA g.core c.w.wg x.2.1 4 true then some (addrFault x.1 .rangeLocked x.2.1)
      else none
    let fs := c.faults (ls.filterMap fault)
    if !fs.isEmpty then c.laneTrap s fs
    else c.done w (s.enqueue c.w (ls.map fun x => { plainAccess x.1 .a x.2.1 x.2.1 4 .starr with data := x.2.2 }))

end Sys2Proof.Machine
end

