-- ==== Sys2Proof/Machine/Control.lean ====
section
/-!
DEFINITION. Control.lean: fetching words of code (R299, R356) and the control-flow instructions, opcodes 0x00-0x0B and
CODEFENCE (R282-R304).
-/
namespace Sys2Proof.Machine

/-- What reading a doubleword of code gives. -/
inductive Fetched where
  | miss
  | fault (cause : Cause)
  | got (d : DWord) (s : State)
  deriving DecidableEq, Repr

/-- Read the doubleword of code that holds an address (R299): a published one as it is, one written since the last
CODEFENCE that covers the core as any value it has held. -/
def State.fetchDword (s : State) (r : WarpRef) (w : Warp) (va : Nat) : Fetched :=
  let g := s.wg r.wg
  match w.tr.find? fun x => x.1 = pageOf va with
  | some _ => .fault .gExec
  | none =>
    match s.tlbAt g.core g.part va with
    | none => .miss
    | some t =>
      if !pteEx t.pte || s.portDown t.pa || (s.poisonAt (t.pa / 8 * 8) 8).isSome then .fault .gExec
      else
        let (d, s1) := s.pickHeld (pteSlot t.pte) (s.core g.core).fence (t.pa / 8)
        .got d s1

/-- A miss on a page of code (R356). -/
def State.fetchMiss (s : State) (r : WarpRef) (va : Nat) : State :=
  let (ids, s1) := s.walkPages r 2 [va]
  s1.modWarp r fun w => { w with wait := some (.walk ids), waitAt := s.time }

/-- The target of a displacement (R282). -/
def relTarget (pc : GAddr) (disp : Int) : GAddr := BitVec.ofInt 57 ((pc.toNat : Int) + disp)
def lowDisp (e : DWord) : Int := (BitVec.ofNat 32 e.toNat).toInt
def highDisp (e : DWord) : Int := (BitVec.ofNat 32 (e.toNat / 2 ^ 32)).toInt

/-- Go on at a target; anything but the next in line flushes (R291). -/
def Ctx.goTo (c : Ctx) (w : Warp) (s : State) (pc : GAddr) (extra : Nat) : Res :=
  .next (c.finish s pc (pc ≠ c.fall w) extra)

/-- NOP (R302). -/
def execNop (f : Fields) (s : State) : Res := uniform 0x00 f s fun c w _ s => c.done w s

/-- The BR of R284 on a warp: its new state, its next address and extra lane cycles, or a full split stack.  A division takes
the number `did` (R164). -/
def brTo (did : Nat) (w : Warp) (x : Mask) (ft : Bool) (fall t j : GAddr) : Option (Warp × GAddr × Nat) :=
  let e := w.active
  let y := e &&& ~~~x
  if x = 0 then some (w, fall, 0)
  else if y = 0 then some (w, t, 0)
  else
    let (first, fpc, second, spc) := if ft then (y, fall, x, t) else (x, t, y, fall)
    let topHasJ := match w.splits with | k :: _ => decide (k.ja = j) | [] => false
    if spc = j && topHasJ then some ({ w with em := first }, fpc, 0)
    else if w.splits.length ≥ 64 then none
    else
      let (w1, extra) := w.pushSplit { ja := j, u := e, pend := if spc = j then 0 else second, pstart := spc, resume := false, did }
      some ({ w1 with em := first }, fpc, extra)

/-- BR (R284). -/
def execBr (f : Fields) (s : State) : Res :=
  issue 0x01 f s fun c w s =>
    match brTo s.fresh w (laneMask (c.lanes.map (·.1))) (c.f.m = 1) (c.fall w) (relTarget w.pc (lowDisp c.f.ext)) (relTarget w.pc (highDisp c.f.ext)) with
    | none => c.trapU s .splitOverflow
    | some (w1, pc, extra) => c.goTo w ({ s with fresh := s.fresh + 1 }.setWarp c.w w1) pc extra

/-- BRU (R285). -/
def execBru (f : Fields) (s : State) : Res :=
  uniform 0x02 f s fun c w _ s => c.goTo w s (relTarget w.pc (lowDisp c.f.ext)) 0

/-- BRX (R286). -/
def execBrx (f : Fields) (s : State) : Res :=
  uniform 0x03 f s fun c w x s =>
    let k := c.valA w x % 2 ^ 32
    if k ≥ bitsOf c.f.ext.toNat 32 16 then c.done w s
    else
      let va := (relTarget (relTarget w.pc (lowDisp c.f.ext)) (4 * k)).toNat
      match s.fetchDword c.w w va with
      | .miss => .next (s.fetchMiss c.w va)
      | .fault cause => c.laneTrap s [addrFault 0 cause va]
      | .got d s1 =>
        let e := (BitVec.ofNat 32 (d.toNat / 2 ^ (8 * (va % 8)))).toInt
        if e % 8 ≠ 0 then c.trapU s1 .targetAlign else c.goTo w s1 (relTarget w.pc e) 0

/-- JOIN (R288). -/
def execJoin (f : Fields) (s : State) : Res :=
  issue 0x04 f s fun c w s =>
    let (w1, switched, extra) := w.joinLoop w.pc w.splits.length 0
    let s1 := s.setWarp c.w w1
    if switched then .next (c.finish s1 w1.pc true extra) else .next (c.finish s1 (c.fall w) false extra)

/-- Enter a function: S62 receives the return address (R292, R293). -/
def Ctx.enter (c : Ctx) (w : Warp) (s : State) (g : GAddr) (extra : Nat) : Res :=
  c.goTo w (s.modWarp c.w fun w => w.land (.s 62) ((c.fall w).truncate 32)) g extra

/-- CALL (R292). -/
def execCall (f : Fields) (s : State) : Res :=
  uniform 0x05 f s fun c w _ s =>
    let g := relTarget w.pc (lowDisp c.f.ext)
    if bitsOf g.toNat 32 25 ≠ bitsOf w.pc.toNat 32 25 then c.trapU s .callRegion else c.enter w s g 0

/-- The checks on a call target (R293), also made for task entries, among whose causes a target of 0 has none of its own
(R320, R334). -/
def targetFault (pc : GAddr) (call : Bool) (g : Nat) : Option Cause :=
  if bitsOf g 57 7 ≠ 0 then some .gNoncanon
  else if g = 0 && call then some .linkUnbound
  else if g % 8 ≠ 0 then some .targetAlign
  else if bitsOf g 32 25 ≠ bitsOf pc.toNat 32 25 then some .callRegion
  else none

/-- The fault of a lane's call target; an address cause reports the target (R376). -/
def laneTarget (pc : GAddr) (call : Bool) (lane g : Nat) : Option LaneFault :=
  (targetFault pc call g).map fun cause => if cause = .gNoncanon then addrFault lane cause g else { lane, cause }

/-- CALLI (R293). -/
def execCalli (f : Fields) (s : State) : Res :=
  issueLanes 0x06 f s fun c w s =>
    let ts := c.lanes.map fun x => (x.1, c.valA w x)
    let fs := c.faults (ts.filterMap fun x => laneTarget w.pc true x.1 x.2)
    if !fs.isEmpty then c.laneTrap s fs
    else match ts with
    | [] => c.done w s
    | t0 :: _ =>
      if c.uni then c.enter w s (BitVec.ofNat 57 t0.2) 0
      else
        let g1 := ts.foldl (fun m x => min m x.2) t0.2
        let grp := laneMask ((ts.filter fun x => x.2 = g1).map (·.1))
        let rest := laneMask (ts.map (·.1)) &&& ~~~grp
        let fall := c.fall w
        match w.splits with
        | k :: ks =>
          if k.resume && k.pstart = w.pc && k.ja = fall then
            c.enter w (s.setWarp c.w { w with splits := { k with pend := rest, resume := false } :: ks, em := grp }) (BitVec.ofNat 57 g1) 0
          else calliPush c w s grp rest g1
        | [] => calliPush c w s grp rest g1
where
  /-- A group that is not the whole of EM leaves an entry behind. -/
  calliPush (c : Ctx) (w : Warp) (s : State) (grp rest : Mask) (g1 : Nat) : Res :=
    if grp = w.active then c.enter w s (BitVec.ofNat 57 g1) 0
    else if w.splits.length ≥ 64 then c.trapU s .splitOverflow
    else
      let (w1, extra) := w.pushSplit { ja := c.fall w, u := w.active, pend := rest, pstart := w.pc, resume := false, did := 0 }
      c.enter w (s.setWarp c.w { w1 with em := grp }) (BitVec.ofNat 57 g1) extra

/-- RET (R294). -/
def execRet (f : Fields) (s : State) : Res :=
  uniform 0x07 f s fun c w _ s =>
    let a := (w.readAt (.s 62) c.start).1.toNat
    if a % 8 ≠ 0 then c.trapU s .targetAlign
    else c.goTo w s (BitVec.ofNat 57 (bitsOf w.pc.toNat 32 25 * 2 ^ 32 + a)) 0

/-- The warp gives up its turn (R326, R329). -/
def Sched.yield (k : Sched) (r : WarpRef) (det : Bool) : Sched :=
  if det then { k with yielded := some r, detRun := none }
  else match k.rq with
    | b :: rest =>
      { k with active := (k.active.filter fun x => decide (x.1 ≠ r)) ++ [(b.w, k.cycle)], rq := rest ++ [{ w := r, count := 0 }]
               lastSwap := k.cycle }
    | [] => { k with active := (k.active.filter fun x => decide (x.1 ≠ r)) ++ [(r, k.cycle)] }

/-- YIELD (R302, R326, R329). -/
def execYield (f : Fields) (s : State) : Res :=
  uniform 0x08 f s fun c w _ s =>
    let det := s.flag c.w.wg (·.det)
    c.done w (s.modCore (s.wg c.w.wg).core fun k => { k with sched := k.sched.yield c.w det })

/-- Wait for a CLK tick (R303). -/
def sleepTo (c : Ctx) (w : Warp) (s : State) (target : Nat) : Res :=
  if target ≤ s.clock.clk then c.done w s else c.block s (.sleep target false)

/-- SLEEP (R303): the target is fixed when it issues. -/
def execSleep (f : Fields) (s : State) : Res :=
  uniform 0x09 f s fun c w x s =>
    match c.prev, w.kept with
    | some (.sleep t _), _ | _, some (.sleep t _) => sleepTo c w s t
    | _, _ => sleepTo c w s (s.clock.clk + c.valA w x % 2 ^ 32)

/-- SLEEPT (R303). -/
def execSleept (f : Fields) (s : State) : Res :=
  uniform 0x0A f s fun c w x s =>
    match c.prev with
    | some (.sleep t _) => sleepTo c w s t
    | _ => sleepTo c w s (c.valA w x)

/-- SLEEP_END (R303): CLK has reached the target. -/
def execSleepEnd (r : WarpRef) (s : State) : Res :=
  match (s.warp? r).bind (·.wait) with
  | some (.sleep t false) =>
    if t ≤ s.clock.clk then .next (s.modWarp r fun w => { w with wait := some (.sleep t true) }) else .next s
  | _ => .next s

/-- Lanes exit (R304, R322): in a wave each ends its task with the value its V0 holds, and the warp goes on at the next
instruction, at the end of its path, or retires. -/
def exitLanes (c : Ctx) (w : Warp) (s : State) : Res :=
  let wave := decide ((s.wg c.w.wg).kind ≠ .grid)
  let m := laneMask (c.lanes.map (·.1))
  if wave && w.isPending (c.lanes.map fun x => .v 0 x.1) then c.block s (.pending (c.lanes.map fun x => .v 0 x.1))
  else if wave && !c.lanes.isEmpty && !w.released then c.block s .drain
  else
    let s1 := s.endTasks c.w.wg (c.lanes.map fun x => (x.1, (w.readAt (.v 0 x.1) (c.readTime x.2)).1.toNat))
    let s2 := s1.setWarp c.w { w with exited := w.exited ||| m, em := w.em &&& ~~~m }
    let ended := w.em ≠ 0 && w.em &&& ~~~m = 0
    let s3 := c.finish s2 (c.fall w) ended 0
    if ended then .next (s3.endPath c.w) else .next s3

/-- EXIT (R304). -/
def execExit (f : Fields) (s : State) : Res := issue 0x0B f s exitLanes

/-- TASKEND (R322). -/
def execTaskend (f : Fields) (s : State) : Res :=
  issueLanes 0xD2 f s fun c w s =>
    let fs := c.faults (if (s.wg c.w.wg).kind = .grid then c.lanes.map fun x => { lane := x.1, cause := .taskState } else [])
    if !fs.isEmpty then c.laneTrap s fs else exitLanes c w s

/-- The cores in the instance of a scope (R300). -/
def coresOf (scope core : Nat) : List Nat :=
  if scope = 0 then [core] else if scope = 1 then (List.range 8).map (· + core / 8 * 8) else List.range 384

/-- CODEFENCE (R300): a full fence, then every fetch of the instance's cores reads code as it stands. -/
def execCodefence (f : Fields) (s : State) : Res :=
  uniform 0xE5 f s fun c w _ s =>
    if !w.released then c.block s .drain
    else
      let mark := s.gmeta.hist.length
      let s1 := (coresOf c.f.a.toNat (s.wg c.w.wg).core).foldl (fun s k => s.modCore k fun x => { x with fence := mark }) s
      .next (c.finish s1 (c.fall w) true 0)

end Sys2Proof.Machine
end

