-- ==== Sys2Proof/Machine/Wspace.lean ====
section
/-!
DEFINITION. Wspace.lean: the mats: slots and their error correction (R102-R104), corrected-error counts and sparing (R399,
R400), attic lines and cells (R133, R147, R153), and LDW (R196).
-/
namespace Sys2Proof.Machine

/-! Error records (R389, R391) -/

/-- The partition that owns a cluster (R349). -/
def State.partOfClu (s : State) (clu : Nat) : Nat :=
  match s.parts.find? fun p => p.2.clmask.getLsbD clu with
  | some (i, _) => i
  | none => 0

/-- A new provenance tag of a unit class in a partition (R389). -/
def State.newTag (s : State) (part cls : Nat) : Nat :=
  match tfind s.parts part with
  | some p => cls * 256 + s.ownTail (s.errQueue p) % 256
  | none => cls * 256

/-- Write a record of kind `kind` about a unit of a core (R391). -/
def State.coreRecord (s : State) (core kind prov addr : Nat) : State :=
  s.errRecord { part := s.partOfClu (cluOf core), kind, prov, fid := 0, addr, cause := 0, core, time := s.time }

/-! Corrected errors (R399) -/

/-- Count a corrected error at TIME `t`: the new count, and whether the item is found lasting. -/
def Corr.bump (c : Corr) (t : Nat) : Corr × Bool :=
  if c.count = 0 || t - c.since ≥ 2 ^ 32 then ({ count := 1, since := t }, false)
  else if c.count = 2 then ({ count := 0, since := c.since }, true)
  else ({ count := c.count + 1, since := c.since }, false)

/-- Keys of the items of a core in its table of counts. -/
def slotItem (mat g : Nat) : Nat := mat * 11520 + g
def lineItem (mat axis p : Nat) : Nat := 2 ^ 24 + (mat * 2 + axis) * 256 + p
def rowItem (r : Nat) : Nat := 2 ^ 25 + r
def groupItem (r : Nat) : Nat := 2 ^ 26 + r

/-- Count a corrected error of an item of a core. -/
def State.countCorr (s : State) (core item : Nat) : State × Bool :=
  let (c, last) := (tgetD { count := 0, since := 0 } (s.core core).corr item).bump s.time
  (s.modCore core fun k => { k with corr := tput k.corr item c, lasting := if last then tput k.lasting item true else k.lasting }, last)

/-! Slots (R102-R104) -/

/-- The number of 1 bits of a slot's flips. -/
def bitCount (n : BitVec 1280) : Nat := popc 1280 n.toNat

/-- W address of a slot (R102). -/
def slotAddr (mat g : Nat) : Nat := mat * 2 ^ 24 + g / 3 * 2 ^ 12 + g % 3 * 1280

/-- A lasting slot's row moves to a spare row with corrected contents, or a NOSPARE record is written (R400). -/
def State.spareSlot (s : State) (core mat g : Nat) : State :=
  let used := tgetD 0 (s.core core).spares mat
  if used < 32 then
    let row := g / 3
    let fixed (t : Table (BitVec 1280)) (i : Nat) : Table (BitVec 1280) :=
      if bitCount (tgetD 0 t (slotItem mat (3 * row + i))) ≤ 4 then tsetD 0 t (slotItem mat (3 * row + i)) 0 else t
    (s.modCore core fun k =>
      { k with spares := tput k.spares mat (used + 1), lasting := terase k.lasting (slotItem mat g)
               flips := [0, 1, 2].foldl fixed k.flips }).coreRecord core 4 (6 * 256) (slotAddr mat g)
  else s.coreRecord core 5 (6 * 256) (slotAddr mat g)

/-- A read of a slot by an engine (R104): its 1,280 bits corrected or as they stand, the bits corrected, and its tag where
it is poisoned or found uncorrectable now. -/
def State.readSlot (s : State) (core mat g : Nat) : BitVec 1280 × Nat × Option Nat × State :=
  let k := s.core core
  let v := tgetD 0 k.band (slotItem mat g)
  let fl := tgetD 0 k.flips (slotItem mat g)
  match tfind k.slotTag (slotItem mat g) with
  | some t => (v ^^^ fl, 0, some (t - 1), s)
  | none =>
    if fl = 0 then (v, 0, none, s)
    else if bitCount fl ≤ 4 then
      let (s1, last) := s.countCorr core (slotItem mat g)
      (v, bitCount fl, none, if last then s1.spareSlot core mat g else s1)
    else
      let tag := s.newTag (s.partOfClu (cluOf core)) 6
      (v ^^^ fl, 0, some tag,
        (s.coreRecord core 1 tag (slotAddr mat g)).modCore core fun k => { k with slotTag := tput k.slotTag (slotItem mat g) (tag + 1) })

/-- Write all cells of a slot; its check bits follow from PAYLOAD and HDR (R102). -/
def State.writeSlot (s : State) (core mat g : Nat) (v : BitVec 1088) (tag : Option Nat) : State :=
  s.modCore core fun k =>
    { k with
      band := tsetD 0 k.band (slotItem mat g) (Config.ecc v ++ v)
      flips := terase k.flips (slotItem mat g)
      slotTag := match tag with | some t => tput k.slotTag (slotItem mat g) (t + 1) | none => terase k.slotTag (slotItem mat g) }

/-! Attics (R133, R147-R153) -/

def State.attic (s : State) (core mat axis : Nat) : Attic := tgetD Attic.delivered (s.core core).gates (mat * 2 + axis)
def State.modAttic (s : State) (core mat axis : Nat) (f : Attic → Attic) : State :=
  s.modCore core fun k => { k with gates := tput k.gates (mat * 2 + axis) (f (tgetD Attic.delivered k.gates (mat * 2 + axis))) }

/-- Physical line of a logical one, both as offsets from 0xF00. -/
def Attic.line (a : Attic) (l : Nat) : Nat := tgetD l a.map l
/-- Logical line held by a physical one. -/
def Attic.logical (a : Attic) (p : Nat) : Option Nat := (List.range 192).find? fun l => a.line l = p

def atticKey (mat axis line x : Nat) : Nat := ((mat * 2 + axis) * 256 + line) * 4096 + x

/-- CLK ticks for which an attic cell keeps its value: 1 s (R10, R153). -/
def atticKeeps : Int := 3000000000

/-- An attic cell; one not listed holds 0 since its core was last cleared (R349, R413). -/
def Core.cell (k : Core) (key : Nat) : ACell := (tfind k.attic key).getD { bit := false, time := k.wiped, lost := false }

/-- Read an attic cell: an unspecified bit once its retention has run out (R153). -/
def State.readAttic (s : State) (core mat axis line x : Nat) : Bool × State :=
  let c := (s.core core).cell (atticKey mat axis line x)
  if c.lost || c.time + atticKeeps ≤ (s.clock.clk : Int) then
    let (w, s1) := s.freeWord
    (w.getLsbD 0, s1)
  else (c.bit, s)

/-- Write attic cells of a physical line. -/
def State.writeAttic (s : State) (core mat axis line : Nat) (cells : List (Nat × Bool)) : State :=
  s.modCore core fun k =>
    { k with attic := cells.foldl (fun a (x, b) => tput a (atticKey mat axis line x) { bit := b, time := s.clock.clk, lost := false }) k.attic }

/-- A cell of the weight band as it stands. -/
def State.bandBit (s : State) (core mat row col : Nat) : Bool :=
  let i := slotItem mat (3 * row + col / 1280)
  (tgetD 0 (s.core core).band i ^^^ tgetD 0 (s.core core).flips i).getLsbD (col % 1280)

/-- A logical cell as it stands (R133, R135). -/
def State.readCell (s : State) (core mat row col : Nat) : Bool × State :=
  if row < 0xF00 && col < 0xF00 then (s.bandBit core mat row col, s)
  else if row < 0xF00 then s.readAttic core mat 0 ((s.attic core mat 0).line (col - 0xF00)) row
  else s.readAttic core mat 1 ((s.attic core mat 1).line (row - 0xF00)) col

def State.readCells (s : State) (core mat : Nat) (l : List (Nat × Nat)) : List Bool × State :=
  l.foldl (fun acc x => let (b, s1) := acc.2.readCell core mat x.1 x.2; (acc.1 ++ [b], s1)) ([], s)

/-- Bits with the first lowest. -/
def ofBits : List Bool → Nat
  | [] => 0
  | b :: bs => (if b then 1 else 0) + 2 * ofBits bs

/-- The mats a command works on as a writing command of R143, or a reading one. -/
def CmdBody.mats : CmdBody → List Nat
  | .grun m0 k .. => (List.range k).map (· + m0)
  | .gwrite _ mat .. => [mat]
  | .gration _ m0 k _ => (List.range k).map (· + m0)
  | .wstore _ mat .. => [mat]
  | .wscrub _ mat .. => [mat]
  | .gsnap _ _ mat _ => [mat]
  | .gread _ mat .. => [mat]
  | .mma _ mat .. => [mat]
  | _ => []

def CmdBody.writesMats : CmdBody → Bool
  | .grun .. | .gwrite .. | .gration .. | .wstore .. | .wscrub .. | .gsnap .. => true
  | _ => false

/-- An earlier writing command on one of the mats has not completed (R143). -/
def State.earlierOnMats (s : State) (core id : Nat) (mats : List Nat) : Bool :=
  s.cmds.any fun c => c.1 < id && c.2.core = core && c.2.status = 0 && c.2.body.writesMats && c.2.body.mats.any fun m => mats.contains m

/-- A gate run is active on a mat (R151): its grant is held, it no longer waits behind earlier commands, and its handle is not
complete. -/
def State.runOn (s : State) (core mat : Nat) : Bool :=
  s.cmds.any fun c => c.2.core = core && c.2.status = 0 && c.2.granted && (c.2.body matches .grun ..) && c.2.body.mats.contains mat &&
    !s.earlierOnMats core c.1 c.2.body.mats

/-! LDW (R196) -/

/-- Fields of a W address (R30, R196). -/
def wMat (a : Nat) : Nat := a / 2 ^ 24
def wRow (a : Nat) : Nat := bitsOf a 12 12
def wCol (a : Nat) : Nat := bitsOf a 0 12

/-- A W address that names no cell (R133). -/
def wHole (row col : Nat) : Bool := row ≥ 0xFC0 || col ≥ 0xFC0 || (row ≥ 0xF00 && col ≥ 0xF00)

/-- The tag of the poison that a read of 32 cells meets: a slot that is poisoned, or that the check of its PAYLOAD and HDR finds
uncorrectable, a row-attic line, or the lowest of the column-attic lines. -/
def State.wTag (s : State) (core a : Nat) : Option Nat :=
  let mat := wMat a; let row := wRow a; let col := wCol a
  if row < 0xF00 && col < 0xF00 then
    if col % 1280 < 1088 then (s.readSlot core mat (3 * row + col / 1280)).2.2.1
    else (tfind (s.core core).slotTag (slotItem mat (3 * row + col / 1280))).map (· - 1)
  else if row ≥ 0xF00 then (tfind (s.attic core mat 1).poison (row - 0xF00)).map (· - 1)
  else ((List.range 32).map fun j => (tfind (s.attic core mat 0).poison (col - 0xF00 + j)).map (· - 1)).foldl lowerTag none

/-- The 32 cells at a W address: a slot's PAYLOAD and HDR corrected, its ECC field and the attic as they stand. -/
def State.wRead (s : State) (core a : Nat) : Nat × State :=
  let mat := wMat a; let row := wRow a; let col := wCol a
  if row < 0xF00 && col < 0xF00 && col % 1280 < 1088 then
    let (v, _, _, s1) := s.readSlot core mat (3 * row + col / 1280)
    (bitsOf v.toNat (col % 1280) 32, s1)
  else
    let (bs, s1) := s.readCells core mat ((List.range 32).map fun j => (row, col + j))
    (ofBits bs, s1)

/-- The state after the check of a read at a W address: a slot found uncorrectable is poisoned from now on (R104). -/
def State.wChecked (s : State) (core a : Nat) : State :=
  if wRow a < 0xF00 && wCol a < 0xF00 && wCol a % 1280 < 1088 then (s.readSlot core (wMat a) (3 * wRow a + wCol a / 1280)).2.2.2 else s

/-- The access of LDW (class LD, R169): it stands among those of the warp while it waits for a step boundary. -/
def wAccess (lane a : Nat) : Access := plainAccess lane .w a (a / 8) 4 .read

/-- LDW (R196): under an active gate run the read waits for a step boundary (R151). -/
def execLdw (f : Fields) (s : State) : Res :=
  issueLanes 0x85 f s fun c w s =>
    let core := (s.wg c.w.wg).core
    let ls := c.lanes.map fun x => (x.1, c.addr w 32 true x)
    let fault (x : Nat × Nat) : Option LaneFault :=
      let a := x.2
      if wCol a % 32 ≠ 0 then some (addrFault x.1 .localAlign a)
      else if wMat a > 159 then some (addrFault x.1 .wRange a)
      else if wHole (wRow a) (wCol a) then some (addrFault x.1 .atticIndex a)
      else
        let item := slotItem (wMat a) (3 * wRow a + wCol a / 1280)
        if wRow a < 0xF00 && wCol a < 0xF00 && s.cmds.any fun k => k.2.core = core && lockHits .w item (item + 1) false k.2.locks then
          some (addrFault x.1 .rangeLocked a)
        else if (w.tr.find? fun t => t.1 = 2 ^ 66 + a / 32).isSome then some (addrFault x.1 .gRefused a)
        else none
    let fs := c.faults (ls.filterMap fault)
    let (queued, now) := ls.partition fun x => s.runOn core (wMat x.2)
    let bad := now.filter fun x => (s.wTag core x.2).isSome
    if !fs.isEmpty then c.laneTrap s fs
    else if ls.any fun x => w.held (wAccess x.1 x.2) then c.block s .drain
    else match bad with
      | x :: _ =>
        (bad.foldl (fun s y => s.wChecked core y.2) s).parkPoison c x.2 ((s.wTag core x.2).getD 0) (bad.map fun y => 2 ^ 66 + y.2 / 32)
      | [] =>
        let (id, s1) := s.newId
        let s2 := s1.modWarp c.w fun w => w.expect id (ls.flatMap fun x => c.dest w x.1) ls.length false
        let s3 := now.foldl (fun s x => let (v, s3) := s.wRead core x.2; s3.modWarp c.w fun w => w.deliver id (c.dest w x.1) v) s2
        let reads := queued.map fun x => ({ mat := wMat x.2, w := some (c.w, id), cmd := 0, lane := x.1, addr := x.2, dest := c.dest w x.1 } : GateRead)
        c.done w ((s3.modCore core fun k => { k with reads := k.reads ++ reads }).enqueue c.w
          (queued.map fun x => { wAccess x.1 x.2 with dest := c.dest w x.1, pend := id }))

end Sys2Proof.Machine
end

