-- ==== Sys2Proof/Machine/Commands.lean ====
section
/-!
DEFINITION. Commands.lean: engine commands: issue with handle, token, range locks and promise pair (R178, R183, R184, R217,
R223), the accesses engines make (R232, R356), and completion (R218, R224).
-/
namespace Sys2Proof.Machine

/-- A status word (R218). -/
def statusWord (stat cause prov kind count : Nat) : DWord :=
  BitVec.ofNat 64 (stat % 256 + cause % 256 * 2 ^ 8 + prov % 4096 * 2 ^ 16 + kind % 16 * 2 ^ 28 + count % 2 ^ 32 * 2 ^ 32)

def stOK : Nat := 1
def stCANCELLED : Nat := 2
def stPOISONED : Nat := 3
def stFAULT : Nat := 4
def stOVERRUN : Nat := 5
def stSATURATED : Nat := 6
def stNONFINITE : Nat := 7
def stSTOPPED : Nat := 8
def stSTALE : Nat := 9

/-- A range an issue registers: space, first and end, and whether it is a destination. -/
abbrev Range := Space × Nat × Nat × Bool

/-- A range of bytes; an empty one registers nothing. -/
def byteRange (sp : Space) (lo n : Nat) (dest : Bool) : List Range := if n = 0 then [] else [(sp, lo, lo + n, dest)]

/-- Entries that a command holds in the range-lock table: a SPAWN, whose records may be many, at most two (R183;
notes/assumptions/75.md). -/
def Cmd.lockEntries (c : Cmd) : Nat := match c.body with | .spawn _ => min 2 c.locks.length | _ => c.locks.length

/-- Entries in use in a core's range-lock table (R183). -/
def State.locksUsed (s : State) (core : Nat) : Nat :=
  s.cmds.foldl (fun n c => if c.2.core = core then n + c.2.lockEntries else n) 0 + (s.core core).chains.length

/-- Entries in use in a core's completion table (R217); a collective takes one for every participant. -/
def State.entriesUsed (s : State) (core : Nat) : Nat :=
  s.cmds.foldl (fun n c => if c.2.core = core && c.2.entry then n + max 1 c.2.holders.length else n) 0

/-- A word of the A space on which a lane waits in LDTF or STTE lies in one of the ranges (R201). -/
def State.laneInRanges (s : State) (g : Nat) (rs : List (Nat × Nat)) : Bool :=
  s.wgs.any fun x => s.home x.1 = s.home g && x.2.warps.any fun w => match w.wait with
    | some (.lanes ls) => ls.any fun l => !l.finished &&
        (match l.kind with | .ldtf _ | .stte _ => true | _ => false) &&
        rs.any fun r => r.1 < l.addr + 4 && l.addr < r.2
    | _ => false

/-- The A ranges of an issue. -/
def aRanges (rs : List Range) : List (Nat × Nat) := (rs.filter (·.1 = .a)).map fun r => (r.2.1, r.2.2.1)

/-- What holds up the issue of a command that needs `ranges` and `entries` (R184, R201, R217). -/
def issueHold (s : State) (core g : Nat) (ranges : List Range) (entries : Nat) : Option Wait :=
  if s.laneInRanges g (aRanges ranges) then some (.overlap (aRanges ranges))
  else if s.locksUsed core + ranges.length > 32 then some (.room 0 ranges.length)
  else if s.entriesUsed core + entries > 256 then some (.room 1 entries)
  else none

/-- The scope at which the issue of a command releases and its completion acquires (R178, R179).  A copy that reaches host
memory has scope .sys; nothing in the module tells it from .dev (notes/assumptions/46.md). -/
def CmdBody.scope : CmdBody → Scope
  | .copy ssp dsp .. => if ssp = .a && (dsp = .a || dsp = .stream) then .blk else .dev
  | .copyv ssp .. | .gather ssp .. => if ssp = .a then .blk else .dev
  | .redcopy ssp dsp .. => if ssp = .a && dsp = .a then .blk else .dev
  | .publish .. => .clu
  | .wscrub .. | .mma .. | .mend _ | .grun .. | .gread .. | .gwrite .. | .gsnap .. | .gration .. | .spawn _ => .blk
  | .wstore .. | .tree .. | .runrec .. | .launch .. | .qprio .. | .lvlcancel .. => .dev

/-- What an issue by a warp releases for a command: the earlier accesses that must be performed before it acts (R178). -/
def State.releases (s : State) (r : WarpRef) (body : CmdBody) : List (Nat × Nat) :=
  match s.warp? r with
  | some w => (w.releasedBy body.scope).map fun a => (r.wix, a)
  | none => []

/-- A fresh command of the current warp. -/
def mkCmd (s : State) (r : WarpRef) (kind : Nat) (body : CmdBody) (entry : Bool) (locks : List RangeLock) : Cmd :=
  let g := s.wg r.wg
  { wg := r.wg, wix := r.wix, core := g.core, part := g.part, kind, body, entry, status := 0, promise := none, tokens := [], prs := []
    locks, units := [], out := [], cancel := false, landed := none, overrun := false, failed := none, prov := none, tr := [], walk := none
    granted := false, since := s.clock.clk, holders := [], after := s.releases r body }

/-- A handle register receives the handle of a command; its earlier content is dropped (R217). -/
def State.setHandle (s : State) (r : WarpRef) (h id : Nat) : State :=
  (s.modWarp r fun w => { w with h := tput w.h h id }).sweep r.wg

/-- A handle register becomes empty. -/
def State.dropHandle (s : State) (r : WarpRef) (h : Nat) : State :=
  (s.modWarp r fun w => { w with h := terase w.h h }).sweep r.wg

/-- A token becomes unsettled for a command (R223). -/
def Warp.assign (w : Warp) (k id : Nat) : Warp := { w with tok := tput w.tok k (tgetD [] w.tok k ++ [id]) }
/-- A command no longer holds a token. -/
def Warp.settleTok (w : Warp) (k id : Nat) : Warp :=
  { w with tok := (w.tok.map fun e => (e.1, if e.1 = k then e.2.filter (· ≠ id) else e.2)).filter fun e => !e.2.isEmpty }

/-- Issue a command with a handle in D, the locks of its ranges and nothing else. -/
def startCmd (c : Ctx) (w : Warp) (s : State) (kind : Nat) (body : CmdBody) (hreg : Nat) (ranges : List Range) : Res :=
  match issueHold s (s.wg c.w.wg).core c.w.wg ranges 1 with
  | some x => c.block s x
  | none =>
    let (id, s1) := s.newId
    let locks := ranges.map fun (sp, lo, hi, dest) => ({ space := sp, lo, hi, dest, seq := id } : RangeLock)
    let s2 := { s1 with cmds := tput s1.cmds id (mkCmd s1 c.w kind body true locks) }
    c.done w (s2.setHandle c.w hreg id)

/-- A warp has a deferred trap to raise (R116, R145, R238, R346). -/
def State.defer (s : State) (r : WarpRef) (cause : Cause) (id : Nat) (status : DWord) (token : Option Nat) : State :=
  let d : Deferred := { cause, cmd := id, status, token }
  s.modWarp r fun w => if w.retired then w else { w with defers := w.defers ++ [d] }

/-- A warp of a command's workgroup. -/
def Cmd.warpRef (c : Cmd) (wix : Nat) : WarpRef := { wg := c.wg, wix }

/-- A pending result takes no more values. -/
def Warp.endPend (w : Warp) (id : Nat) : Warp := { w with pends := w.pends.map fun q => if q.id = id then { q with left := 0 } else q }

/-- A requester no longer waits for any walk. -/
def State.leaveWalks (s : State) (j : Joiner) : State :=
  { s with walks := s.walks.map fun (a, k) => (a, { k with joined := k.joined.filter fun x => decide (x ≠ j) }) }

/-- The handles, tokens and deferred traps of a warp follow a command to its new entry. -/
def Warp.rename (w : Warp) (id n : Nat) : Warp :=
  let ren (x : Nat) : Nat := if x = id then n else x
  { w with h := w.h.map fun e => (e.1, ren e.2), tok := w.tok.map fun e => (e.1, e.2.map ren), defers := w.defers.map fun d => { d with cmd := ren d.cmd } }

/-- The commands of a workgroup take new entries at a core, so that no name crosses cores (R222, R246). -/
def State.renameCmds (s : State) (g core : Nat) : State :=
  (s.cmds.filter fun c => c.2.wg = g).foldl (fun s x =>
    let (n, s1) := s.newId
    { s1 with cmds := tput (terase s1.cmds x.1) n { x.2 with core } }.modWg g fun k => { k with warps := k.warps.map fun (w : Warp) => w.rename x.1 n }) s

/-! Leave (R420) -/

/-- A command or a chain asks its cluster's leave governor for a grant. -/
def State.askLeave (s : State) (core id charge : Nat) (chain : Bool) : State :=
  s.modClu (cluOf core) fun k => { k with asks := k.asks ++ [(id, charge, chain)] }
/-- Its request or grant goes. -/
def State.dropLeave (s : State) (core id : Nat) : State :=
  s.modClu (cluOf core) fun k => { k with asks := k.asks.filter fun x => decide (x.1 ≠ id), grants := k.grants.filter fun x => decide (x.1 ≠ id) }

/-- A command completes with a status: locks go, tokens settle, a promise pair that was never written stops pending, and
the entry goes if no handle holds it (R185, R217, R223, R224). -/
def State.complete (s : State) (id stat cause prov count : Nat) : State :=
  match tfind s.cmds id with
  | none => s
  | some c =>
    let s1 := s.modCmd id fun c => { c with status := statusWord stat cause prov c.kind count, locks := [], granted := false, walk := none }
    let s2 : State := c.tokens.foldl (fun s x => s.modWarp (c.warpRef x.1) fun w => w.settleTok x.2 id) s1
    let s3 : State := c.prs.foldl (fun s x => s.modWarp (c.warpRef x.1) fun w => w.endPend x.2.2) s2
    ((s3.dropLeave c.core id).leaveWalks (.cmd id)).sweep c.wg

/-! The accesses of engines (R232, R356) -/

/-- What a range of G space is to an engine. -/
inductive Seg where
  | miss (va : Nat)
  | fault
  | ok (parts : List (Nat × Nat × Option Nat))     -- physical address, bytes, key slot
  deriving DecidableEq, Repr

/-- A range of G space page by page; `fuel` bounds the pages. -/
def State.segsFrom (s : State) (core part : Nat) (tr : List (Nat × TrOutcome)) (write : Bool) : Nat → Nat → Nat → Seg
  | 0, _, _ => .ok []
  | fuel + 1, va, n =>
    if n = 0 then .ok []
    else if va ≥ 2 ^ 57 then .fault
    else if tr.any fun x => x.1 = pageOf va then .fault
    else match s.tlbAt core part va with
      | none => .miss va
      | some t =>
        if (write && !pteWr t.pte) || (!write && !pteRd t.pte) || s.portDown t.pa then .fault
        else
          let m := min n (65536 - va % 65536)
          match s.segsFrom core part tr write fuel (va + m) (n - m) with
          | .ok l => .ok ((t.pa, m, pteSlot t.pte) :: l)
          | other => other

def State.segs (s : State) (core part : Nat) (tr : List (Nat × TrOutcome)) (va n : Nat) (write : Bool) : Seg :=
  s.segsFrom core part tr write (n / 65536 + 2) va n

/-- Bytes and lowest tag of the parts of a range. -/
def State.segRead (s : State) (l : List (Nat × Nat × Option Nat)) : List Byte × Option Nat :=
  (l.flatMap fun (pa, n, k) => s.view k pa n, l.foldl (fun acc (pa, n, _) => lowerTag acc (s.poisonAt pa n)) none)

/-- Mark the sectors that `n` bytes touch as poisoned; of two tags the lower is kept (R232, R389). -/
def GMeta.mark (m : GMeta) (pa n tag : Nat) : GMeta :=
  if n = 0 then m
  else
    let one (t : Table (Nat × BitVec 32)) (k : Nat) : Table (Nat × BitVec 32) :=
      tput t k (match tfind t k with | some (old, _) => min old tag | none => tag, 0)
    { m with poison := ((List.range ((pa + n - 1) / 32 - pa / 32 + 1)).map (· + pa / 32)).foldl one m.poison }

/-- The tag that poisoned parts (offset, bytes, tag) leave on `n` bytes at an offset. -/
def markAt (marks : List (Nat × Nat × Nat)) (off n : Nat) : Option Nat :=
  marks.foldl (fun acc x => if x.1 < off + n && off < x.1 + x.2.1 then lowerTag acc (some x.2.2) else acc) none

/-- The words in which an engine writes the parts of a range (R166). -/
def segDrips (unit : Nat) (marks : List (Nat × Nat × Nat)) : List (Nat × Nat × Option Nat) → List Byte → Nat → List Drip
  | [], _, _ => []
  | (pa, n, key) :: rest, bs, off =>
    ((List.range ((pa + n + 3) / 4 - pa / 4)).map fun i =>
      let lo := max pa (4 * (pa / 4 + i))
      let hi := min (pa + n) (4 * (pa / 4 + i + 1))
      { unit, key, pa := lo, data := (bs.drop (lo - pa)).take (hi - lo), tag := markAt marks (off + (lo - pa)) (hi - lo) }) ++
    segDrips unit marks rest (bs.drop n) (off + n)

/-- A word of a command is written; the tree a word belongs to stays as consistent as it was (R265). -/
def State.drip (s : State) (id : Nat) (c : Cmd) (k : Nat) : State :=
  match c.out[k]? with
  | none => s
  | some d =>
    if (c.out.take k).any fun e => e.pa / 4 = d.pa / 4 then s
    else
      let own (s1 : State) : State := match c.body with
        | .tree tid .. => { s1 with trees := tmodify s1.trees tid fun t => { t with tainted := (tfind s.trees tid).any (·.tainted) } }
        | _ => s1
      let s1 := own (s.gWrite d.key d.pa d.data)
      let s2 := match d.tag with | some t => { s1 with gmeta := s1.gmeta.mark d.pa d.data.length t } | none => s1
      s2.modCmd id fun c => { c with out := c.out.eraseIdx k }

/-- Write bytes to the parts of a range; poisoned data leaves its sectors poisoned. -/
def State.segWrite (s : State) (l : List (Nat × Nat × Option Nat)) (bs : List Byte) (tag : Option Nat) : State :=
  (l.foldl (fun (acc : State × List Byte) (pa, n, k) =>
    let s1 := acc.1.gWrite k pa (acc.2.take n)
    (match tag with | some t => { s1 with gmeta := s1.gmeta.mark pa n t } | none => s1, acc.2.drop n)) (s, bs)).1

/-- A command waits for a page walk (R232). -/
def State.cmdMiss (s : State) (id : Nat) (c : Cmd) (va : Nat) (clusterOnly : Bool) : State :=
  let (k, s1) := s.joinWalk (dieOf (cluOf c.core)) c.part va 3 (if clusterOnly then 0x1FF else c.core) (.cmd id)
  s1.modCmd id fun c => { c with walk := some k }

/-- A command notes the poison it met (R219). -/
def Cmd.meet (c : Cmd) (tag : Option Nat) : Cmd := { c with prov := lowerTag c.prov tag }

/-- A range of a command overlaps one that an earlier incomplete command of its core registered, one of the two being a
destination (R184). -/
def State.rangeHeld (s : State) (id seq : Nat) (c : Cmd) (rs : List Range) : Bool :=
  s.cmds.any fun x => x.1 ≠ id && x.2.core = c.core && x.2.locks.any fun l =>
    l.seq < seq && rs.any fun r =>
      r.1 = l.space && (r.1 ≠ .a || s.home x.2.wg = s.home c.wg) && (r.1 ≠ .g || x.2.part = c.part) && r.2.1 < l.hi && l.lo < r.2.2.1 && (l.dest || r.2.2.2)

end Sys2Proof.Machine
end

