-- ==== Sys2Proof/Machine/Copy.lean ====
section
/-!
DEFINITION. Copy.lean: the copy engine, opcodes 0xA0-0xA8 but the operand streams (R224-R241): issue, the units of work of a
command, and its end.
-/
namespace Sys2Proof.Machine

/-! Slices and their pieces (R229-R231) -/

def spaceOf (n : Nat) : Space := if n = 0 then .g else if n = 1 then .a else if n = 2 then .w else .stream

/-- The number of 32-byte granules that `len` bytes from `base` touch, and the `j`th as offset and length (R230). -/
def granules (base len : Nat) : Nat := if len = 0 then 0 else (base + len - 1) / 32 - base / 32 + 1
def granule (base len j : Nat) : Nat × Nat :=
  let lo := max base (32 * (base / 32 + j))
  let hi := min (base + len) (32 * (base / 32 + j + 1))
  (lo - base, hi - lo)

/-- Two ranges of bytes meet. -/
def meets (a n b m : Nat) : Bool := a < b + m && b < a + n && 0 < n && 0 < m

/-- The slot item of a W address that starts a slot (R102). -/
def slotOfAddr (a : Nat) : Nat := slotItem (wMat a) (3 * wRow a + wCol a / 1280)

/-- The source overlaps the destination of its own slice: the slice moves as one unit (R229). -/
def Slice.selfLap (ssp dsp : Space) (x : Slice) : Bool := ssp = dsp && meets x.src.toNat x.len x.dst.toNat x.len

/-- The address by which the granules of a slice are aligned: in G space where one side lies there (R230). -/
def Slice.alignAt (ssp dsp : Space) (x : Slice) : Nat := if ssp = .g && dsp ≠ .g then x.src.toNat else x.dst.toNat

/-- The granules or slots in which a slice that moves as one carries poison, as offset and length (R232). -/
def Slice.grains (ssp dsp : Space) (x : Slice) : List (Nat × Nat) :=
  if ssp = .w then (List.range (x.len / 136)).map fun j => (136 * j, 136)
  else
    let base := if dsp = .stream then x.src.toNat else x.alignAt ssp dsp
    (List.range (granules base x.len)).map (granule base x.len)

/-- Units of a slice, and the `j`th as offset and length. -/
def Slice.count (ssp dsp : Space) (x : Slice) : Nat :=
  if x.len = 0 then 0
  else if dsp = .stream then 1
  else if ssp = .w then x.len / 136
  else if x.selfLap ssp dsp then 1
  else granules (x.alignAt ssp dsp) x.len
def Slice.piece (ssp dsp : Space) (x : Slice) (j : Nat) : Nat × Nat :=
  if dsp = .stream then (0, x.len)
  else if ssp = .w then (136 * j, 136)
  else if x.selfLap ssp dsp then (0, x.len)
  else granule (x.alignAt ssp dsp) x.len j

/-- The slice and place of a unit of a collective. -/
def unitSlice (ssp dsp : Space) : List Slice → Nat → Option (Slice × Nat)
  | [], _ => none
  | x :: xs, u => if u < x.count ssp dsp then some (x, u) else unitSlice ssp dsp xs (u - x.count ssp dsp)

/-- The source and the destination of a slice share bytes with another slice's. -/
def Slice.apart (ssp dsp : Space) (x y : Slice) : Bool :=
  !meets x.dst.toNat x.len y.dst.toNat y.len &&
  !(ssp = dsp && (meets x.dst.toNat x.len y.src.toNat y.len || meets x.src.toNat x.len y.dst.toNat y.len))

/-- Bytes of an element of REDCOPY (R241). -/
def ropBytes (rop : Nat) : Nat := if rop = 1 || rop = 4 || rop = 5 then 8 else 4

/-- The element operation of REDCOPY (R241). -/
def ropNew (rop d x : Nat) : Nat :=
  match rop with
  | 0 => (d + x) % 2 ^ 32
  | 1 => (d + x) % 2 ^ 64
  | 2 => if asI 32 x < asI 32 d then x else d
  | 3 => if asI 32 d < asI 32 x then x else d
  | 4 => min d x
  | 5 => max d x
  | 6 => (fmtAdd fmtF32 0 d x).1
  | 7 => Nat.lor d x
  | _ => Nat.land d x

/-- V registers a COPYV deposits in each target (R239). -/
def copyvRegs (len : Nat) : Nat := (len + 127) / 128

/-- Units of a copy-engine command, and the bytes of one. -/
def CmdBody.unitCount : CmdBody → Nat
  | .copy ssp dsp _ slices _ mismatch _ => if mismatch then 0 else (slices.map (Slice.count ssp dsp)).sum
  | .copyv _ _ _ len warps => warps.length * copyvRegs len
  | .gather _ _ _ _ _ n _ => n
  | .redcopy _ _ _ _ n _ _ => n
  | _ => 0
def CmdBody.unitBytes (b : CmdBody) (u : Nat) : Nat :=
  match b with
  | .copy ssp dsp _ slices .. => match unitSlice ssp dsp slices u with | some (x, j) => (x.piece ssp dsp j).2 | none => 0
  | .copyv _ _ _ len .. => min 128 (len - 128 * (u % max 1 (copyvRegs len)))
  | .gather _ _ _ _ size .. => size
  | .redcopy _ _ _ _ _ rop _ => ropBytes rop
  | .wstore .. => 136
  | _ => 0

/-- Bytes a command still has to move (R233); a WSCRUB moves none (notes/assumptions/73.md). -/
def Cmd.bytesLeft (c : Cmd) : Nat :=
  let all := match c.body with
    | .copy _ _ _ slices _ mismatch _ => if mismatch then 0 else (slices.map (·.len)).sum
    | .copyv _ _ _ len warps => warps.length * len
    | .gather _ _ _ _ size n _ => n * size
    | .redcopy _ _ _ _ n rop _ => n * ropBytes rop
    | .wstore _ _ _ n => 136 * n
    | _ => 0
  all - (c.units.map c.body.unitBytes).sum

def Cmd.isCopy (c : Cmd) : Bool := c.kind ≤ 3
/-- A command that moves more than 64 KiB and therefore asks for leave (R420). -/
def Cmd.bulk (c : Cmd) : Bool := (c.kind = 0 || c.kind = 2 || c.kind = 3) && (c.bytesLeft + (c.units.map c.body.unitBytes).sum > 65536)
/-- A collective before its acceptance (R227). -/
def Cmd.assembling (c : Cmd) : Bool := match c.body with | .copy _ _ _ _ accepted .. => !accepted | _ => false

/-- The spaces and G ranges of a command, for R178 and R233. -/
def Cmd.gRanges (c : Cmd) : List (Nat × Nat) :=
  match c.body with
  | .copy ssp dsp _ slices .. => slices.flatMap fun x =>
      (if ssp = .g then [(x.src.toNat, x.len)] else []) ++ (if dsp = .g then [(x.dst.toNat, x.len)] else [])
  | .copyv ssp src _ len warps => if ssp = .g then [(src.toNat, len * warps.length)] else []
  | .gather ssp base .. => if ssp = .g then [(base.toNat, 1)] else []
  | .redcopy ssp dsp src dst n rop _ =>
      (if ssp = .g then [(src.toNat, n * ropBytes rop)] else []) ++ (if dsp = .g then [(dst.toNat, n * ropBytes rop)] else [])
  | _ => []
def Cmd.allInA (c : Cmd) : Bool :=
  match c.body with
  | .copy ssp dsp .. => ssp = .a && (dsp = .a || dsp = .stream)
  | .copyv ssp .. => ssp = .a
  | .gather ssp .. => ssp = .a
  | .redcopy ssp dsp .. => ssp = .a && dsp = .a
  | _ => false

/-- The promise of a command accepted at this CLK tick (R233). -/
def State.promiseOf (s : State) (c : Cmd) : Nat :=
  let host := c.gRanges.any fun r => (List.range ((r.1 + r.2 - 1) / 65536 - r.1 / 65536 + 1)).any fun i =>
    match s.transNow c.core c.part (max r.1 ((r.1 / 65536 + i) * 65536)) with | some t => paSpace t.pa = 1 | none => false
  let l0 := if c.allInA then 24 else if host then 3000 else 400
  let r := if c.allInA then 128 else 32
  let q := s.cmds.foldl (fun n x => if x.2.core = c.core && x.2.status = 0 && (x.2.isCopy || (x.2.body matches .wstore ..)) && !x.2.assembling then n + x.2.bytesLeft else n) 0
  s.clock.clk + l0 + (q + r - 1) / r

/-- A copy-engine command is accepted: its promise is kept and written to the pairs of R225. -/
def State.accept (s : State) (id : Nat) : State :=
  let s1 := s.modCmd id fun c =>
    { c with
      since := s.clock.clk
      body := match c.body with | .copy p q k sl _ m st => .copy p q k sl true m st | x => x
      failed := match c.body with | .copy _ _ _ _ _ true _ => some Cause.collectiveMismatch.code | _ => c.failed }
  match tfind s1.cmds id with
  | none => s1
  | some c =>
    let p := s1.promiseOf c
    let s2 := (if c.bulk then s1.askLeave c.core id 500 false else s1).modCmd id fun c => { c with promise := some (BitVec.ofNat 64 p), prs := [] }
    c.prs.foldl (fun s x => s.modWarp (c.warpRef x.1) fun w => w.deliver x.2.2 [.s x.2.1, .s (x.2.1 + 1)] p) s2

/-- Every warp of the workgroup has issued its slice or retired (R227). -/
def State.assembled (s : State) (c : Cmd) : Bool :=
  match c.body with
  | .copy _ _ _ slices .. => (s.wg c.wg).warps.zipIdx.all fun (w, i) => w.retired || slices.any fun x => x.wix = i
  | _ => true

/-! Issue -/

/-- A fault at a uniform issue; an address cause reports the address. -/
def Ctx.trapAt (c : Ctx) (s : State) (cause : Cause) (addr : Nat) : Res :=
  if !cause.hasAddress then c.trapU s cause else c.trap s { cause, info0 := BitVec.ofNat 32 addr, info1 := BitVec.ofNat 32 (addr / 2 ^ 32) }

/-- The first check of an issue that fails. -/
def firstFault : List (Bool × Cause × Nat) → Option (Cause × Nat)
  | [] => none
  | (bad, cause, addr) :: rest => if bad then some (cause, addr) else firstFault rest

/-- G range: canonical and not past 2^57.  A range: inside the allocation; aligned to `al` (R228). -/
def gBad (sp : Space) (addr len : Nat) : Bool × Cause × Nat := (sp = .g && (addr ≥ 2 ^ 57 || addr + len > 2 ^ 57), .gNoncanon, addr)
def aBad (size : Nat) (sp : Space) (addr len : Nat) : Bool × Cause × Nat := (sp = .a && (addr ≥ 2 ^ 20 || addr + len > size), .aRange, addr)
def alBad (sp : Space) (al addr : Nat) : Bool × Cause × Nat := (sp = .a && addr % al ≠ 0, .localAlign, addr)
def stageOf (e : DWord) : Option Nat := if xSte e then some (xStg e) else none
def stageAl (e : DWord) : Bool × Cause × Nat := (xSte e && xStg e % 4 ≠ 0, .localAlign, xStg e)
def stageBad (size : Nat) (e : DWord) : Bool × Cause × Nat := (xSte e && xStg e + 4 > size, .aRange, xStg e)

/-- The checks of a W source (R228, R231). -/
def wSource (src len : Nat) : List (Bool × Cause × Nat) :=
  let a := src % 2 ^ 32
  let col := wCol a
  [(src ≥ 2 ^ 32, .copyLength, 0), (wMat a > 159, .wRange, a),
   ((col ≠ 0 && col ≠ 0x500 && col ≠ 0xA00) || wRow a > 0xEFF || len % 136 ≠ 0 || 3 * wRow a + col / 1280 + len / 136 > 11520, .copyLength, 0)]

/-- What an issue of the copy engine adds to a command: the token, the promise pair. -/
def Cmd.withExt (c : Cmd) (wix : Nat) (e : DWord) (pend : Nat) (targets : List Nat) : Cmd :=
  { c with
    tokens := c.tokens ++ (if xTke e then targets.map fun t => (t, xTok e) else [])
    prs := c.prs ++ (if xPre e then [(wix, xPrs e, pend)] else []) }

/-- The warp's side of the same: its tokens and the pending promise pair. -/
def State.extWarp (s : State) (r : WarpRef) (e : DWord) (id pend : Nat) (targets : List Nat) : State :=
  let s1 := if xTke e then targets.foldl (fun s t => s.modWarp { r with wix := t } fun w => w.assign (xTok e) id) s else s
  if xPre e then s1.modWarp r fun w => w.expect pend [.s (xPrs e), .s (xPrs e + 1)] 1 false else s1

/-- Insert a slice in ascending WIX order. -/
def insertSlice (x : Slice) : List Slice → List Slice
  | [] => [x]
  | y :: ys => if x.wix < y.wix then x :: y :: ys else y :: insertSlice x ys

/-- COPY (R226-R228): the warp's slice joins the workgroup's collective. -/
def execCopy (f : Fields) (s : State) : Res :=
  uniform 0xA0 f s fun c w x s =>
    let e := c.f.ext
    let g := s.wg c.w.wg
    let ssp := spaceOf (xSsp e)
    let dsp := spaceOf (xDsp e)
    let src := c.valA w x
    let dst := c.valB w x
    let len := c.valC w x % 2 ^ 32
    let dspBad := !(xDsp e = 0 || xDsp e = 1 || xDsp e = 3)
    let checks : List (Bool × Cause × Nat) :=
      [(xSsp e > 2 || dspBad || (xSte e && xDsp e = 3), .copySpace, 0),
       gBad ssp src len, gBad dsp dst len, aBad g.aSize ssp src len, aBad g.aSize dsp dst len, alBad ssp 4 src, alBad dsp 4 dst,
       stageAl e, stageBad g.aSize e] ++
      (if xSsp e = 2 then wSource src len else []) ++
      [(xDsp e = 3 && (dst > 15 || len % 32 ≠ 0 || len > 32768), .copyLength, 0)]
    match firstFault checks with
    | some (cause, addr) => c.trapAt s cause addr
    | none =>
      let ranges : List Range :=
        if len = 0 then []
        else (if xSsp e = 2 then [(.w, slotOfAddr src, slotOfAddr src + len / 136, false)] else byteRange ssp src len false) ++
          (if xDsp e = 3 then [] else byteRange dsp dst len true)
      match issueHold s g.core c.w.wg ranges 1 with
      | some hold => c.block s hold
      | none =>
        let (seq, s1) := s.newId
        let (pend, s2) := s1.newId
        let slice : Slice := { wix := c.w.wix, seq, src := BitVec.ofNat 64 src, dst := BitVec.ofNat 64 dst, len }
        let locks := ranges.map fun (sp, lo, hi, dest) => ({ space := sp, lo, hi, dest, seq } : RangeLock)
        let open_ := s2.cmds.find? fun k => k.2.wg = c.w.wg && k.2.status = 0 && k.2.assembling &&
          (match k.2.body with | .copy _ _ n _ _ _ _ => n = w.nCopy | _ => false)
        let (id, cmd) := match open_ with
          | some (id, k) =>
            (id, { k with
              locks := k.locks ++ locks
              after := k.after ++ s2.releases c.w k.body
              body := match k.body with
                | .copy p q n sl acc mis st => .copy p q n (insertSlice slice sl) acc (mis || p ≠ ssp || q ≠ dsp || st ≠ stageOf e) st
                | y => y })
          | none => (seq, mkCmd s2 c.w 0 (.copy ssp dsp w.nCopy [slice] false false (stageOf e)) true locks)
        let cmd1 := { cmd.withExt c.w.wix e pend [c.w.wix] with holders := cmd.holders ++ [(c.w.wix, hIndex c.f.d)] }
        let s3 := ({ s2 with cmds := tput s2.cmds id cmd1 }.extWarp c.w e id pend [c.w.wix]).modWarp c.w fun w => { w with nCopy := w.nCopy + 1 }
        let s4 := s3.setHandle c.w (hIndex c.f.d) id
        c.done w (if s4.assembled cmd1 then s4.accept id else s4)

/-- Issue a copy-engine command that is no collective: it is accepted at once. -/
def copyIssue (c : Ctx) (w : Warp) (s : State) (kind : Nat) (body : CmdBody) (hreg : Option Nat) (ranges : List Range) (targets : List Nat) : Res :=
  match issueHold s (s.wg c.w.wg).core c.w.wg ranges (if hreg.isSome then 1 else 0) with
  | some hold => c.block s hold
  | none =>
    let (id, s1) := s.newId
    let (pend, s2) := s1.newId
    let locks := ranges.map fun (sp, lo, hi, dest) => ({ space := sp, lo, hi, dest, seq := id } : RangeLock)
    let cmd := (mkCmd s2 c.w kind body hreg.isSome locks).withExt c.w.wix c.f.ext pend targets
    let s3 := { s2 with cmds := tput s2.cmds id cmd }.extWarp c.w c.f.ext id pend targets
    let s4 := match hreg with | some h => s3.setHandle c.w h id | none => s3
    let s5 := match body with
      | .copyv _ _ reg len warps => warps.foldl (fun (s : State) (t : Nat) => s.modWarp { c.w with wix := t } fun w =>
          if len = 0 then w else w.expect id ((List.range (len / 4)).map fun i => .v (reg + i / 32) (i % 32)) (copyvRegs len) false) s4
      | _ => s4
    c.done w (s5.accept id)

/-- COPYV (R238, R239); its token is one of the issuer's as well (R223). -/
def execCopyv (f : Fields) (s : State) : Res :=
  uniform 0xA1 f s fun c w x s =>
    let e := c.f.ext
    let g := s.wg c.w.wg
    let ssp := spaceOf (xSsp e)
    let src := c.valA w x
    let mask := c.valB w x % 2 ^ 32
    let len := c.valC w x % 2 ^ 32
    let reg := match opnd c.f.d with | .v r => r | _ => 0
    let targets := (List.range 16).filter fun i => (BitVec.ofNat 32 mask).getLsbD i
    let absent := targets.any fun i => match g.warps[i]? with | some t => t.retired | none => true
    let total := len * targets.length
    let checks : List (Bool × Cause × Nat) :=
      [(xSsp e > 1 || xDsp e ≠ 2 || xSte e, .copySpace, 0), (match opnd c.f.d with | .v _ => false | _ => true, .operandKind, 0),
       (len % 4 ≠ 0 || len > 16384, .copyvSize, 0), (reg + copyvRegs len > w.vAllot, .regBounds, 0),
       (mask = 0 || mask ≥ 2 ^ 16 || absent, .copyvTarget, 0),
       gBad ssp src total, aBad g.aSize ssp src total, alBad ssp 4 src]
    match firstFault checks with
    | some (cause, addr) => c.trapAt s cause addr
    | none =>
      let keys : List RegKey := (List.range (len / 4)).map fun i => .v (reg + i / 32) (i % 32)
      let busy := targets.any fun i => match g.warps[i]? with
        | some t => (xTke e && i ≠ c.w.wix && t.tokenBusy (xTok e)) || t.isPending keys
        | none => false
      let tokens := if targets.contains c.w.wix then targets else c.w.wix :: targets
      if busy then c.block s (.room 4 0)
      else copyIssue c w s 1 (.copyv ssp (BitVec.ofNat 64 src) reg len targets) (if xHe e then some (xHix e) else none)
        (byteRange ssp src total false) tokens

/-- GATHER (R240). -/
def execGather (f : Fields) (s : State) : Res :=
  uniform 0xA2 f s fun c w x s =>
    let e := c.f.ext
    let g := s.wg c.w.wg
    let ssp := spaceOf (xSsp e)
    let base := c.valA w x
    let list := c.valB w x % 2 ^ 32
    let dst := c.valB w x / 2 ^ 32
    let n := c.valC w x % 2 ^ 32
    let size := 4 * 2 ^ xEsz e
    let checks : List (Bool × Cause × Nat) :=
      [(xSsp e > 1 || xDsp e ≠ 1, .copySpace, 0), (n = 0 || n > 65536, .copyLength, 0),
       gBad ssp base 0, aBad g.aSize ssp base 0, aBad g.aSize .a list (4 * n), aBad g.aSize .a dst (n * size),
       (base % 4 ≠ 0 && ssp = .a, .localAlign, base), alBad .a 4 list, alBad .a 4 dst, stageAl e, stageBad g.aSize e]
    match firstFault checks with
    | some (cause, addr) => c.trapAt s cause addr
    | none => copyIssue c w s 2 (.gather ssp (BitVec.ofNat 64 base) list dst size n (stageOf e)) (some (hIndex c.f.d))
        (byteRange .a list (4 * n) false ++ byteRange .a dst (n * size) true) [c.w.wix]

/-- REDCOPY (R241). -/
def execRedcopy (f : Fields) (s : State) : Res :=
  uniform 0xA3 f s fun c w x s =>
    let e := c.f.ext
    let g := s.wg c.w.wg
    let ssp := spaceOf (xSsp e)
    let dsp := spaceOf (xDsp e)
    let src := c.valA w x
    let dst := c.valB w x
    let n := c.valC w x % 2 ^ 32
    let len := n * ropBytes (xRop e)
    let checks : List (Bool × Cause × Nat) :=
      [(xSsp e > 1 || xDsp e > 1, .copySpace, 0), (xDsp e = 0 && s.flag c.w.wg (·.det), .detForbidden, 0),
       gBad ssp src len, gBad dsp dst len, aBad g.aSize ssp src len, aBad g.aSize dsp dst len, alBad ssp 4 src, alBad dsp 4 dst,
       stageAl e, stageBad g.aSize e]
    match firstFault checks with
    | some (cause, addr) => c.trapAt s cause addr
    | none => copyIssue c w s 3 (.redcopy ssp dsp (BitVec.ofNat 64 src) (BitVec.ofNat 64 dst) n (xRop e) (stageOf e)) (some (hIndex c.f.d))
        (byteRange ssp src len false ++ byteRange dsp dst len true) [c.w.wix]

/-! The units of work -/

/-- What an engine finds when it reads a range. -/
inductive Got where
  | wait (s : State)                       -- a miss: the command waits for a walk
  | fail (s : State)                       -- refused, or no permission
  | got (bs : List Byte) (tag : Option Nat) (s : State)
  deriving DecidableEq, Repr

/-- Read `n` bytes of a space for a command. -/
def State.cmdRead (s : State) (id : Nat) (c : Cmd) (sp : Space) (addr n : Nat) : Got :=
  match sp with
  | .g => match s.segs c.core c.part c.tr addr n false with
    | .miss va => .wait (s.cmdMiss id c va false)
    | .fault => .fail s
    | .ok l => let (bs, tag) := s.segRead l; .got bs tag s
  | .w =>
    let item := slotOfAddr addr
    let (v, _, tag, s1) := s.readSlot c.core (item / 11520) (item % 11520)
    .got ((toBytes 160 v.toNat).take 136) tag s1
  | _ => let g := s.asp c.wg; .got (g.aBytes addr n) (g.aTag addr n) s

/-- Where a command may write the bytes of a unit, of which parts are poisoned: nothing stands in its way, or it waits or fails.
In G space the words are written one by one from then on (R166). -/
def State.cmdWrite (s : State) (id : Nat) (c : Cmd) (unit : Nat) (sp : Space) (addr : Nat) (bs : List Byte) (marks : List (Nat × Nat × Nat)) : Got :=
  match sp with
  | .g => match s.segs c.core c.part c.tr addr bs.length true with
    | .miss va => .wait (s.cmdMiss id c va false)
    | .fault => .fail s
    | .ok l => .got [] none (s.modCmd id fun c => { c with out := c.out ++ segDrips unit marks l bs 0 })
  | _ => .got [] none (s.modA c.wg fun g => marks.foldl (fun g x => g.aMark (addr + x.1) x.2.1 x.2.2) (g.aPut addr bs))

/-- A unit is done: it is counted, with the poison it met. -/
def State.unitDone (s : State) (id u : Nat) (tag : Option Nat) : State :=
  s.modCmd id fun c => { c.meet tag with units := u :: c.units }
/-- The command has met a fault (R232, R240). -/
def State.cmdFail (s : State) (id : Nat) (cause : Cause) : State := s.modCmd id fun c => { c with failed := some cause.code }

/-- It has met a fault after it read data with a tag (R220). -/
def State.cmdFailMet (s : State) (id : Nat) (tag : Option Nat) (cause : Cause) : State := (s.modCmd id fun c => c.meet tag).cmdFail id cause

/-- The parts of a range, given as offsets and lengths, that a read finds poisoned. -/
def State.cmdMarks (s : State) (id : Nat) (c : Cmd) (sp : Space) (addr : Nat) (grains : List (Nat × Nat)) : List (Nat × Nat × Nat) :=
  grains.filterMap fun x => match s.cmdRead id c sp (addr + x.1) x.2 with
    | .got _ (some t) _ => some (x.1, x.2, t)
    | _ => none

/-- Move `n` bytes from one space to another as one unit whose grains carry poison each for itself (R229-R232). -/
def State.moveUnit (s : State) (id : Nat) (c : Cmd) (u : Nat) (ssp dsp : Space) (src dst n : Nat) (grains : List (Nat × Nat)) : State :=
  match s.cmdRead id c ssp src n with
  | .wait s1 => s1
  | .fail s1 => s1.cmdFail id .copyAccess
  | .got bs tag s1 =>
    let marks := match tag with
      | none => []
      | some t => match grains with | [] | [_] => [(0, n, t)] | l => s.cmdMarks id c ssp src l
    match s1.cmdWrite id c u dsp dst bs marks with
    | .wait s2 => s2
    | .fail s2 => s2.cmdFailMet id tag .copyAccess
    | .got _ _ s2 => s2.unitDone id u tag

/-- The W address of the slot `n` slots after another. -/
def slotAfter (a n : Nat) : Nat := let item := slotOfAddr a + n; slotAddr (item / 11520) (item % 11520)

/-- Unit `u` of a collective, unless an earlier slice or an earlier command still holds its range (R184, R229). -/
def State.copyUnit (s : State) (id : Nat) (c : Cmd) (u : Nat) (ssp dsp : Space) (slices : List Slice) : State :=
  match unitSlice ssp dsp slices u with
  | none => s
  | some (x, j) =>
    let (off, n) := x.piece ssp dsp j
    let earlier := slices.takeWhile fun y => decide (y ≠ x)
    let before := (earlier.map (Slice.count ssp dsp)).sum
    let todo := (List.range before).any fun v => (!c.units.contains v || c.out.any fun d => d.unit = v) && match unitSlice ssp dsp slices v with
      | some (y, _) => !y.apart ssp dsp x
      | none => false
    let srcRange : List Range := if ssp = .w then [(.w, slotOfAddr x.src.toNat + j, slotOfAddr x.src.toNat + j + 1, false)]
      else byteRange ssp (x.src.toNat + off) n false
    if todo || s.rangeHeld id x.seq c (srcRange ++ byteRange dsp (x.dst.toNat + off) n true) then s
    else
      let src := if ssp = .w then slotAfter x.src.toNat j else x.src.toNat + off
      s.moveUnit id c u ssp dsp src (x.dst.toNat + off) n (if x.selfLap ssp dsp then x.grains ssp dsp else [])

/-- Unit `u` of a COPYV: one register of one target; a poisoned word is deposited as 0 (R239). -/
def State.copyvUnit (s : State) (id : Nat) (c : Cmd) (u : Nat) (ssp : Space) (src reg len : Nat) (warps : List Nat) : State :=
  let regs := max 1 (copyvRegs len)
  let j := u / regs
  let r := u % regs
  let n := min 128 (len - 128 * r)
  let addr := src + j * len + 128 * r
  if s.rangeHeld id id c (byteRange ssp addr n false) then s
  else match s.cmdRead id c ssp addr n with
    | .wait s1 => s1
    | .fail s1 => s1.cmdFail id .copyAccess
    | .got bs tag s1 =>
      let clean (i : Nat) : List Byte :=
        let wordTag := match s1.cmdRead id c ssp (addr + 4 * i) 4 with | .got _ t _ => t | _ => none
        if wordTag.isSome then [0, 0, 0, 0] else (bs.drop (4 * i)).take 4
      let data := if tag.isSome then (List.range (n / 4)).flatMap clean else bs
      let keys : List RegKey := (List.range (n / 4)).map fun i => .v (reg + r) i
      (s1.modWarp (c.warpRef (warps.getD j 0)) fun w => w.deliver id keys (ofBytes data)).unitDone id u tag

/-- Element `i` of a GATHER (R240). -/
def State.gatherUnit (s : State) (id : Nat) (c : Cmd) (i : Nat) (ssp : Space) (base list dst size : Nat) : State :=
  let g := s.asp c.wg
  if s.rangeHeld id id c (byteRange .a (list + 4 * i) 4 false ++ byteRange .a (dst + i * size) size true) then s
  else
    let addr := base + g.aRead (list + 4 * i) 4 * size
    if ssp = .g && addr + size > 2 ^ 57 then s.cmdFail id .gNoncanon
    else if ssp = .a && addr + size > g.aSize then s.cmdFail id .aRange
    else
      let s1 := s.moveUnit id c i ssp .a addr (dst + i * size) size []
      match g.aTag (list + 4 * i) 4 with
      | some t => s1.modCmd id fun k => if k.units.contains i then k.meet (some t) else k
      | none => s1

/-- Element `i` of a REDCOPY: one indivisible read-modify-write (R241). -/
def State.redcopyUnit (s : State) (id : Nat) (c : Cmd) (i : Nat) (ssp dsp : Space) (src dst rop : Nat) : State :=
  let n := ropBytes rop
  if s.rangeHeld id id c (byteRange ssp (src + n * i) n false ++ byteRange dsp (dst + n * i) n true) then s
  else match s.cmdRead id c ssp (src + n * i) n, s.cmdRead id c dsp (dst + n * i) n with
    | .wait s1, _ => s1
    | _, .wait s1 => s1
    | .got a ta _, .got d td _ =>
      let tag := lowerTag ta td
      let bs := toBytes n (ropNew rop (ofBytes d) (ofBytes a))
      if dsp = .g then
        match s.segs c.core c.part c.tr (dst + n * i) n true with
        | .miss va => s.cmdMiss id c va false
        | .fault => s.cmdFailMet id tag .copyAccess
        | .ok l => (s.segWrite l bs tag).unitDone id i tag
      else match s.cmdWrite id c i dsp (dst + n * i) bs (match tag with | some t => [(0, n, t)] | none => []) with
        | .got _ _ s1 => s1.unitDone id i tag
        | _ => s
    | .got _ ta _, _ | _, .got _ ta _ => s.cmdFailMet id ta .copyAccess
    | _, _ => s.cmdFail id .copyAccess

/-- A copy-engine command can go on with its units. -/
def Cmd.working (c : Cmd) : Bool :=
  c.isCopy && c.status = 0 && !c.assembling && !c.cancel && c.failed.isNone && c.walk.isNone && c.landed.isNone &&
  (!c.bulk || c.granted) && c.units.length < c.body.unitCount

/-- What a command may do next: write a word, or a unit that remains. -/
def Cmd.choices (c : Cmd) : Nat := c.out.length + if c.working then c.body.unitCount - c.units.length else 0

/-- The `k`th of what a command may do next: a word, one of the units that remain where their order is free, else the next
unit (R166, R230, R240, R241). -/
def State.deposit (s : State) (id k : Nat) : State :=
  match tfind s.cmds id with
  | none => s
  | some c =>
    if c.status ≠ 0 then s
    else if k < c.out.length then s.drip id c k
    else if !c.working || !s.startable c then s
    else
      let left := (List.range c.body.unitCount).filter fun u => !c.units.contains u
      let u := left.getD ((k - c.out.length) % left.length) 0
      match c.body with
      | .copy ssp dsp _ slices _ _ _ => if dsp = .stream then s else s.copyUnit id c u ssp dsp slices
      | .copyv ssp src reg len warps => s.copyvUnit id c u ssp src.toNat reg len warps
      | .gather ssp base list dst size _ _ => s.gatherUnit id c c.units.length ssp base.toNat list dst size
      | .redcopy ssp dsp src dst _ rop _ => s.redcopyUnit id c c.units.length ssp dsp src.toNat dst.toNat rop
      | _ => s

/-! The end of a command (R224) -/

/-- The stage a command names. -/
def CmdBody.stage : CmdBody → Option Nat
  | .copy _ _ _ _ _ _ st => st
  | .gather _ _ _ _ _ _ st => st
  | .redcopy _ _ _ _ _ _ st => st
  | _ => none

/-- Bytes deposited so far. -/
def Cmd.deposited (c : Cmd) : Nat := (c.units.map c.body.unitBytes).sum

/-- Steps 1 and 2 of R224: locks are released and the stage receives its contribution. -/
def State.landCmd (s : State) (id : Nat) (c : Cmd) : State :=
  let (s1, ovr) := match if c.cancel || c.failed.isSome then none else c.body.stage with
    | some st => (s.modA c.wg fun g => (g.contribute st c.deposited).1, ((s.asp c.wg).contribute st c.deposited).2)
    | none => (s, false)
  s1.modCmd id fun k => { k with locks := [], landed := some s.clock.clk, overrun := ovr }

/-- Step 3 of R224: the status (R220), the handle and the token. -/
def State.finishCopy (s : State) (id : Nat) (c : Cmd) : State :=
  let stat := if c.cancel then stCANCELLED else if c.prov.isSome then stPOISONED else if c.failed.isSome then stFAULT
    else if c.overrun then stOVERRUN else stOK
  let cause := if stat = stFAULT then c.failed.getD 0 else 0
  let prov := if stat = stPOISONED then c.prov.getD 0 else 0
  let count := match c.body with | .gather .. | .redcopy .. => c.units.length | _ => c.deposited
  let s1 := match c.body with
    | .copyv _ _ _ _ warps =>
      let s1 := warps.foldl (fun (s : State) (t : Nat) => s.modWarp (c.warpRef t) fun w => w.endPend id) s
      if !c.entry && (stat = stPOISONED || stat = stFAULT) then
        s1.defer (c.warpRef c.wix) .copyvFailed id (statusWord stat cause prov 1 count) (c.tokens.head?.map Prod.snd)
      else s1
    | _ => s
  s1.complete id stat cause prov count

/-- COPY_COMPLETE (R224): the next of the steps by which a copy-engine command ends, or the acceptance of a collective whose
last missing warp has retired. -/
def execCopyComplete (id : Nat) (s : State) : Res :=
  match tfind s.cmds id with
  | none => .next s
  | some c =>
    if !c.isCopy || c.status ≠ 0 then .next s
    else if c.assembling then (if s.assembled c then .next (s.accept id) else .next s)
    else match c.landed with
      | some t => if t < s.clock.clk then .next (s.finishCopy id c) else .next s
      | none =>
        if !c.out.isEmpty || !s.startable c then .next s
        else if !c.cancel && c.failed.isNone && c.units.length < c.body.unitCount then .next s
        else if c.deposited = 0 then
          if c.since < s.clock.clk then
            let s1 := s.landCmd id c
            match tfind s1.cmds id with | some c1 => .next (s1.finishCopy id c1) | none => .next s1
          else .next s
        else .next (s.landCmd id c)

/-! WAITF, TESTF and CANCF (R234-R237) -/

/-- The command that A names: by an H register, or by a name in an S register (R222). -/
def Ctx.named (c : Ctx) (w : Warp) (x : Nat × Nat) (s : State) : Option (Nat × Cmd) :=
  match opnd c.f.a with
  | .h r => (tfind w.h r).bind fun id => (tfind s.cmds id).map fun k => (id, k)
  | _ =>
    let v := BitVec.ofNat 32 (c.valA w x)
    s.cmds.find? fun k => nameOf k.1 = v && k.2.wg = c.w.wg && k.2.entry

/-- A result without a fixed latency whose value is known (R49). -/
def State.result (s : State) (r : WarpRef) (keys : List RegKey) (v : Nat) (long : Bool) : State :=
  if keys.isEmpty then s
  else
    let (id, s1) := s.newId
    s1.modWarp r fun w => (w.expect id keys 1 long).deliver id keys v

/-- WAITF returns a status word; .DROP empties the handle. -/
def waitfReturn (c : Ctx) (w : Warp) (x : Nat × Nat) (s : State) (status : DWord) : Res :=
  let s1 := if c.f.m.toNat ≥ 2 then s.dropHandle c.w (hIndex c.f.a) else s
  c.done w (s1.result c.w (c.dest w x.1) status.toNat false)

/-- The command is incomplete at its promise (R235). -/
def Cmd.late (k : Cmd) (clk : Nat) : Bool := k.status = 0 && k.promise.any fun p => p.toNat ≤ clk

/-- WAITF (R235). -/
def execWaitf (f : Fields) (s : State) : Res :=
  uniform 0xA6 f s fun c w x s =>
    let prom : Bool := c.f.m = 1 || c.f.m = 3
    match c.named w x s with
    | none => waitfReturn c w x s (BitVec.ofNat 64 stSTALE)
    | some (id, k) =>
      if k.status ≠ 0 then waitfReturn c w x s k.status
      else if prom && k.late s.clock.clk then
        c.trap s { cause := .promiseMissed, hname := nameOf id }
      else c.block s (.handle id prom)

/-- TESTF.STAT (R236). -/
def execTestfStat (f : Fields) (s : State) : Res :=
  uniform 0xA7 f s fun c w x s =>
    let st := match c.named w x s with | none => BitVec.ofNat 64 stSTALE | some (_, k) => k.status
    c.done w (s.result c.w (c.dest w x.1) st.toNat false)

/-- TESTF.NAME (R236). -/
def execTestfName (f : Fields) (s : State) : Res :=
  uniform 0xA7 f s fun c w x s =>
    let v : Word := match c.named w x s with | none => 0 | some (id, _) => nameOf id
    c.done w (s.result c.w (c.dest w x.1) v.toNat false)

/-- CANCF (R237). -/
def execCancf (f : Fields) (s : State) : Res :=
  uniform 0xA8 f s fun c w x s =>
    match c.named w x s with
    | none => c.done w s
    | some (id, k) =>
      if k.kind > 4 then c.trapU s .handleKind
      else c.done w (if k.status = 0 && (k.landed.isNone || k.kind > 3) then s.modCmd id fun k => { k with cancel := true } else s)

/-- A trap at the instruction a warp waits at. -/
def State.trapWaiting (s : State) (r : WarpRef) (x : TrapInfo) : State :=
  match s.warp? r with
  | none => s
  | some w =>
    let g := s.wg r.wg
    s.takeTrap r (max w.now w.next) { x with ilen := s.lengthAt g.core g.part w.pc / 8 }

/-- The incomplete command past its promise that a warp waits for in WAITF.PROM (R235). -/
def State.missedBy (s : State) (r : WarpRef) : Option Nat :=
  match (s.warp? r).bind (·.wait) with
  | some (.handle id true) => if (tfind s.cmds id).any fun k => k.late s.clock.clk then some id else none
  | _ => none

/-- PROMISE_MISSED (R235): a warp that waits in WAITF.PROM finds its command incomplete at the promise. -/
def execPromiseMissed (r : WarpRef) (s : State) : Res :=
  .next (match s.missedBy r with
    | some id => s.trapWaiting r { cause := .promiseMissed, hname := nameOf id }
    | none => s)

end Sys2Proof.Machine
end

