-- ==== Sys2Proof/Machine/CrossLane.lean ====
section
/-!
DEFINITION. CrossLane.lean: the cross-lane instructions, opcodes 0x60-0x66 (R254-R260).  Sources are read as one snapshot
at the start; results come 8 lane cycles after it.
-/
namespace Sys2Proof.Machine

/-- The value of field A of a thread in the snapshot, and whether it was read too early (R254). -/
def Ctx.snapA (c : Ctx) (w : Warp) (t : Nat) : Nat × Bool := readOperand w c.f.a (slotRegs c.sg.a) t c.start
def Ctx.snapB (c : Ctx) (w : Warp) (t : Nat) : Nat × Bool := readOperand w c.f.b (slotRegs c.sg.b) t c.start
def Ctx.snapC (c : Ctx) (w : Warp) (t : Nat) : Nat × Bool := readOperand w c.f.c (slotRegs c.sg.c) t c.start

/-- A cross-lane instruction: from the participants, the value of each and the flags its step raises; `early` tells
whether a participant's result depends on a register read too early. -/
def crossLane (op : Nat) (f : Fields) (s : State) (early : Ctx → Warp → Nat → Bool)
    (fn : Ctx → Warp → List Nat → List (Nat × Nat × Word)) : Res :=
  issueLanes op f s fun c w s =>
    let parts := c.lanes.map (·.1)
    let bad := (List.range 32).filter fun t => c.early.contains t || (c.sb && parts.contains t && early c w t)
    if !bad.isEmpty then c.laneTrap s (bad.map stallFault)
    else
      let rs := fn c w parts
      let pos (t : Nat) : Nat := match c.lanes.find? fun x => x.1 = t with | some x => x.2 | none => 0
      let w1 :=
        if isS f.d then
          match rs with
          | [] => w
          | r :: _ => w.putResult (c.dest w r.1) r.2.1 (rs.foldl (fun a x => a ||| x.2.2) 0) (c.start + 8)
        else rs.foldl (fun acc r => acc.putResult (c.dest w r.1) r.2.1 r.2.2 (c.start + pos r.1 + 8)) w
      c.done w (s.setWarp c.w w1)

/-- The thread a participant reads (R256). -/
def exchangeFrom (m i t e : Nat) : Nat :=
  let seg := 2 ^ min (e % 8) 5
  let base := i - i % seg
  let o := i % seg
  match m % 4 with
  | 0 => base + t % seg
  | 1 => base + (o + (seg - t % seg)) % seg
  | 2 => base + (o + t) % seg
  | _ => base + Nat.xor o t % seg

def lxchFrom (c : Ctx) (w : Warp) (i : Nat) : Nat :=
  exchangeFrom c.f.m.toNat i (c.snapB w i).1 (c.snapC w i).1

def execLxch (f : Fields) (s : State) : Res :=
  crossLane 0x60 f s
    (fun c w i => (c.snapB w i).2 || (c.snapC w i).2 || (c.snapA w (lxchFrom c w i)).2)
    fun c w ps => ps.map fun i => (i, (c.snapA w (lxchFrom c w i)).1, 0)

/-- The predicates of the participants (R257). -/
def preds (c : Ctx) (w : Warp) (ps : List Nat) : List (Nat × Bool) := ps.map fun i => (i, (c.snapA w i).1 % 2 = 1)

/-- A result depends on every participant's source. -/
def anyEarly (c : Ctx) (w : Warp) (_ : Nat) : Bool := (c.lanes.map (·.1)).any fun t => (c.snapA w t).2

def execLpoll (f : Fields) (s : State) : Res :=
  crossLane 0x61 f s anyEarly fun c w ps =>
    let bs := (preds c w ps).map (·.2)
    let r := if c.f.m = 0 then bs.any id else if c.f.m = 1 then bs.all id else bs.all id || !bs.any id
    ps.map fun i => (i, if r then 1 else 0, 0)

def execLmask (f : Fields) (s : State) : Res :=
  crossLane 0x62 f s anyEarly fun c w ps =>
    let m := laneMask ((preds c w ps).filter (·.2) |>.map (·.1))
    ps.map fun i => (i, m.toNat, 0)

def execLfirst (f : Fields) (s : State) : Res :=
  crossLane 0x63 f s (fun _ _ _ => false) fun _ _ ps =>
    ps.zipIdx.map fun (i, k) => (i, if k = 0 then 1 else 0, 0)

def execLpeer (f : Fields) (s : State) : Res :=
  crossLane 0x64 f s anyEarly fun c w ps =>
    let vs := ps.map fun i => (i, (c.snapA w i).1)
    let same (v : Nat) : Nat := (laneMask ((vs.filter fun y => y.2 = v).map (·.1))).toNat
    let all := vs.all fun y => decide (some y.2 = vs.head?.map (·.2))
    vs.map fun y => (y.1, if c.f.m.toNat < 2 then same y.2 else if all then (laneMask ps).toNat else 0, 0)

/-- The combination a selector names (R259): a value and flags. -/
def foldOp (sel x y : Nat) : Nat × Word :=
  match sel with
  | 0 => ((x + y) % 2 ^ 32, 0)
  | 1 => ((x + y) % 2 ^ 64, 0)
  | 2 => (if asI 32 y < asI 32 x then y else x, 0)
  | 3 => (if asI 32 x < asI 32 y then y else x, 0)
  | 4 => (min x y, 0)
  | 5 => (max x y, 0)
  | 6 => (min x y, 0)
  | 7 => (max x y, 0)
  | 8 => (Nat.land x y, 0)
  | 9 => (Nat.lor x y, 0)
  | 10 => (Nat.xor x y, 0)
  | _ => fmtAdd fmtF32 0 x y

/-- The identity of a selector (R259). -/
def foldIdentity (sel : Nat) : Nat :=
  match sel with
  | 2 => 0x7FFFFFFF
  | 3 => 0x80000000
  | 4 => 0xFFFFFFFF
  | 6 => 0xFFFFFFFFFFFFFFFF
  | 8 => 0xFFFFFFFF
  | _ => 0

/-- The fold of R260 in ascending thread order: the results before and after each participant, and the flags of
its step. -/
def foldSteps (sel : Nat) : Option Nat → List (Nat × Nat) → List (Nat × Nat × Nat × Word)
  | _, [] => []
  | acc, (i, v) :: rest =>
    let before := acc.getD (foldIdentity sel)
    let (now, fl) := match acc with | none => (v, 0) | some a => foldOp sel a v
    (i, before, now, fl) :: foldSteps sel (some now) rest

def execLfold (f : Fields) (s : State) : Res :=
  crossLane 0x65 f s anyEarly fun c w ps =>
    let rs := foldSteps c.f.b.toNat none (ps.map fun i => (i, (c.snapA w i).1))
    let total := (rs.getLast?.map (·.2.2.1)).getD 0
    rs.map fun r => (r.1, total, r.2.2.2)

def execLscan (f : Fields) (s : State) : Res :=
  crossLane 0x66 f s
    (fun c w i => (c.lanes.map (·.1)).any fun t => (t < i || (c.f.m = 0 && t = i)) && (c.snapA w t).2)
    fun c w ps =>
      let rs := foldSteps c.f.b.toNat none (ps.map fun i => (i, (c.snapA w i).1))
      rs.map fun r => (r.1, if c.f.m = 0 then r.2.2.1 else r.2.1, r.2.2.2)

end Sys2Proof.Machine
end

