-- ==== Sys2Proof/Machine/Opcodes.lean ====
section
/-!
DEFINITION. Opcodes.lean: the opcode of every instruction and the instruction of every opcode (R54).  Where the table of
operations has one row for each variant of an opcode, M chooses among them; a reserved M goes to the first row, whose
decode-time check refuses it (R41).
-/
namespace Sys2Proof.Machine

/-- Opcode, the M of the row where the opcode has several rows, and the fields; none for a device step. -/
def opcodeOf : Instr → Option (Nat × Option Nat × Fields)
  | .nop f => some (0x00, none, f)
  | .br f => some (0x01, none, f)
  | .bru f => some (0x02, none, f)
  | .brx f => some (0x03, none, f)
  | .join f => some (0x04, none, f)
  | .call f => some (0x05, none, f)
  | .calli f => some (0x06, none, f)
  | .ret f => some (0x07, none, f)
  | .yield f => some (0x08, none, f)
  | .sleep f => some (0x09, none, f)
  | .sleept f => some (0x0A, none, f)
  | .exit f => some (0x0B, none, f)
  | .mov f => some (0x10, none, f)
  | .movi f => some (0x11, none, f)
  | .add f => some (0x12, none, f)
  | .sub f => some (0x13, none, f)
  | .mul f => some (0x14, none, f)
  | .mulh f => some (0x15, none, f)
  | .mad f => some (0x16, none, f)
  | .madw f => some (0x17, none, f)
  | .and f => some (0x18, none, f)
  | .or f => some (0x19, none, f)
  | .xor f => some (0x1A, none, f)
  | .not f => some (0x1B, none, f)
  | .shl f => some (0x1C, none, f)
  | .shr f => some (0x1D, none, f)
  | .sar f => some (0x1E, none, f)
  | .rotl f => some (0x1F, none, f)
  | .bfe f => some (0x20, none, f)
  | .bfi f => some (0x21, none, f)
  | .popc f => some (0x22, none, f)
  | .clz f => some (0x23, none, f)
  | .brev f => some (0x24, none, f)
  | .perm f => some (0x25, none, f)
  | .min f => some (0x26, none, f)
  | .max f => some (0x27, none, f)
  | .abs f => some (0x28, none, f)
  | .sel f => some (0x29, none, f)
  | .setp f => some (0x2A, none, f)
  | .lea f => some (0x2B, none, f)
  | .leaPc f => some (0x2C, none, f)
  | .fadd f => some (0x40, none, f)
  | .fsub f => some (0x41, none, f)
  | .fmul f => some (0x42, none, f)
  | .fma f => some (0x43, none, f)
  | .fmin f => some (0x44, none, f)
  | .fmax f => some (0x45, none, f)
  | .rcp f => some (0x46, none, f)
  | .rsq f => some (0x47, none, f)
  | .sqrt f => some (0x48, none, f)
  | .exp2 f => some (0x49, none, f)
  | .log2 f => some (0x4A, none, f)
  | .fsetp f => some (0x4B, none, f)
  | .fkey f => some (0x4C, none, f)
  | .cvt f => some (0x4D, none, f)
  | .narrow f => some (0x4E, none, f)
  | .widen f => some (0x4F, none, f)
  | .pkadd f => some (0x50, none, f)
  | .pkmul f => some (0x51, none, f)
  | .pkfma f => some (0x52, none, f)
  | .lxch f => some (0x60, none, f)
  | .lpoll f => some (0x61, none, f)
  | .lmask f => some (0x62, none, f)
  | .lfirst f => some (0x63, none, f)
  | .lpeer f => some (0x64, none, f)
  | .lfold f => some (0x65, none, f)
  | .lscan f => some (0x66, none, f)
  | .bara f => some (0x70, none, f)
  | .barw f => some (0x71, none, f)
  | .bar f => some (0x72, none, f)
  | .fence f => some (0x73, none, f)
  | .waita f => some (0x74, none, f)
  | .qwait f => some (0x75, none, f)
  | .qwakeBank f => some (0x76, some 0, f)
  | .qwakeDrop f => some (0x76, some 1, f)
  | .starr f => some (0x77, none, f)
  | .lda f => some (0x80, none, f)
  | .sta f => some (0x81, none, f)
  | .ldg f => some (0x82, none, f)
  | .stg f => some (0x83, none, f)
  | .ldi f => some (0x84, none, f)
  | .ldw f => some (0x85, none, f)
  | .ldc f => some (0x86, none, f)
  | .stc f => some (0x87, none, f)
  | .ldtf f => some (0x88, none, f)
  | .stte f => some (0x89, none, f)
  | .tagsetEmpty f => some (0x8A, some 0, f)
  | .tagsetFull f => some (0x8A, some 1, f)
  | .atom f => some (0x8B, none, f)
  | .cas f => some (0x8C, none, f)
  | .copy f => some (0xA0, none, f)
  | .copyv f => some (0xA1, none, f)
  | .gather f => some (0xA2, none, f)
  | .redcopy f => some (0xA3, none, f)
  | .subscribeOn f => some (0xA4, some 0, f)
  | .subscribeOff f => some (0xA4, some 1, f)
  | .publish f => some (0xA5, none, f)
  | .waitf f => some (0xA6, none, f)
  | .testfStat f => some (0xA7, some 0, f)
  | .testfName f => some (0xA7, some 1, f)
  | .cancf f => some (0xA8, none, f)
  | .mbegin f => some (0xB0, none, f)
  | .mma f => some (0xB1, none, f)
  | .mend f => some (0xB2, none, f)
  | .mwin f => some (0xB3, none, f)
  | .cread f => some (0xB4, none, f)
  | .cclr f => some (0xB5, none, f)
  | .batonTake f => some (0xB6, some 0, f)
  | .batonPass f => some (0xB6, some 1, f)
  | .wstore f => some (0xB7, none, f)
  | .wscrubCheck f => some (0xB8, some 0, f)
  | .wscrubFix f => some (0xB8, some 1, f)
  | .grun f => some (0xC0, none, f)
  | .gstop f => some (0xC1, none, f)
  | .gration f => some (0xC2, none, f)
  | .gread f => some (0xC3, none, f)
  | .gwrite f => some (0xC4, none, f)
  | .gmap f => some (0xC5, none, f)
  | .gwear f => some (0xC6, none, f)
  | .treecfgOn f => some (0xC8, some 0, f)
  | .treecfgOff f => some (0xC8, some 1, f)
  | .treecfgBeta f => some (0xC8, some 2, f)
  | .treesetSet f => some (0xC9, some 0, f)
  | .treesetInval f => some (0xC9, some 1, f)
  | .treeupd f => some (0xCA, none, f)
  | .treedraw f => some (0xCB, none, f)
  | .treesumRoot f => some (0xCC, some 0, f)
  | .treesumLeaf f => some (0xCC, some 1, f)
  | .treeclr f => some (0xCD, none, f)
  | .launchRun f => some (0xD0, some 0, f)
  | .launchGraph f => some (0xD0, some 1, f)
  | .launchPhase f => some (0xD0, some 2, f)
  | .launchJob f => some (0xD0, some 3, f)
  | .launchQprio f => some (0xD0, some 4, f)
  | .spawn f => some (0xD1, none, f)
  | .taskend f => some (0xD2, none, f)
  | .fetchw f => some (0xD3, none, f)
  | .migrateCore f => some (0xD4, some 0, f)
  | .migrateNear f => some (0xD4, some 1, f)
  | .lvlcancel f => some (0xD5, none, f)
  | .cntrd f => some (0xD6, none, f)
  | .runrec f => some (0xD7, none, f)
  | .csacc f => some (0xD8, none, f)
  | .check f => some (0xD9, none, f)
  | .srd f => some (0xE0, some 0, f)
  | .srdFrame f => some (0xE0, some 1, f)
  | .swr f => some (0xE1, some 0, f)
  | .swrFrame f => some (0xE1, some 1, f)
  | .trap f => some (0xE2, none, f)
  | .trapretResume f => some (0xE3, some 0, f)
  | .trapretKill f => some (0xE3, some 1, f)
  | .brk f => some (0xE4, none, f)
  | .codefence f => some (0xE5, none, f)
  | .pmark f => some (0xE6, none, f)
  | .workgroupRetire _ => none
  | .loadResultLand _ _ => none
  | .gAccessPerform _ _ => none
  | .tagConditionMet _ _ => none
  | .instrWaitLimit _ => none
  | .pollRead _ _ => none
  | .sleepEnd _ => none
  | .promiseMissed _ => none
  | .pageWalkComplete _ => none
  | .faultRecordWrite _ => none
  | .copyComplete _ => none
  | .roundaboutIntake _ => none
  | .roundaboutDelivery _ _ _ => none
  | .leaveGrant _ => none
  | .mmaStepRetire _ => none
  | .chainCommit _ => none
  | .cclrComplete _ => none
  | .wstoreSlotWrite _ _ => none
  | .wscrubSlotRead _ => none
  | .gateStep _ _ => none
  | .gateReadServe _ => none
  | .gateSnapshot _ => none
  | .treeAccept _ => none
  | .treeComplete _ => none
  | .runrecAccept _ => none
  | .routineTaskEnd _ _ => none
  | .taskPush _ => none
  | .waveForm _ => none
  | .waveWaitExpiry _ => none
  | .launchAccept _ => none
  | .levelCancelApply _ => none
  | .placementDecision _ => none
  | .passedOverTimeout _ => none
  | .fetchwDelivery _ => none
  | .migrateArrival _ => none
  | .laneCycleSchedule _ => none
  | .forcedSwap _ => none
  | .clockGate _ => none
  | .coreWake _ => none
  | .progressStall _ => none
  | .waitLimit _ _ => none
  | .preemptionTrigger _ => none
  | .preemptSave _ => none
  | .workgroupRestore _ _ => none
  | .uncorrectableError _ => none
  | .correctedError _ _ => none
  | .submissionRingService _ => none
  | .inval _ => none
  | .resolve _ => none
  | .keyload _ => none
  | .keyclr _ => none
  | .attest _ => none
  | .partcfg => none
  | .capset => none
  | .hostAccess _ _ => none
  | .peerAccess _ _ => none
  | .resetRelease _ => none
  | .chlTrain _ => none
  | .peerPortTrainingLoss _ => none
  | .ptpSyncMessage _ _ => none
  | .syncHoldoverTimeout => none
  | .patternBoundary _ _ _ => none
  | .markerCounterDump => none
  | .unassignedOpcode _ => none
  | .reset => none
  | .powerLoss => none
  | .peerPortTrain _ _ => none
  | .linkLevelReplay _ => none
  | .errorQueueRecordWrite _ => none
  | .atticRetentionExpiry _ _ => none

/-- The instruction of an opcode; none where the opcode map has no assignment (R54). -/
def instrOf (op : Nat) (f : Fields) : Option Instr :=
  match op with
  | 0x00 => some (.nop f)
  | 0x01 => some (.br f)
  | 0x02 => some (.bru f)
  | 0x03 => some (.brx f)
  | 0x04 => some (.join f)
  | 0x05 => some (.call f)
  | 0x06 => some (.calli f)
  | 0x07 => some (.ret f)
  | 0x08 => some (.yield f)
  | 0x09 => some (.sleep f)
  | 0x0A => some (.sleept f)
  | 0x0B => some (.exit f)
  | 0x10 => some (.mov f)
  | 0x11 => some (.movi f)
  | 0x12 => some (.add f)
  | 0x13 => some (.sub f)
  | 0x14 => some (.mul f)
  | 0x15 => some (.mulh f)
  | 0x16 => some (.mad f)
  | 0x17 => some (.madw f)
  | 0x18 => some (.and f)
  | 0x19 => some (.or f)
  | 0x1A => some (.xor f)
  | 0x1B => some (.not f)
  | 0x1C => some (.shl f)
  | 0x1D => some (.shr f)
  | 0x1E => some (.sar f)
  | 0x1F => some (.rotl f)
  | 0x20 => some (.bfe f)
  | 0x21 => some (.bfi f)
  | 0x22 => some (.popc f)
  | 0x23 => some (.clz f)
  | 0x24 => some (.brev f)
  | 0x25 => some (.perm f)
  | 0x26 => some (.min f)
  | 0x27 => some (.max f)
  | 0x28 => some (.abs f)
  | 0x29 => some (.sel f)
  | 0x2A => some (.setp f)
  | 0x2B => some (.lea f)
  | 0x2C => some (.leaPc f)
  | 0x40 => some (.fadd f)
  | 0x41 => some (.fsub f)
  | 0x42 => some (.fmul f)
  | 0x43 => some (.fma f)
  | 0x44 => some (.fmin f)
  | 0x45 => some (.fmax f)
  | 0x46 => some (.rcp f)
  | 0x47 => some (.rsq f)
  | 0x48 => some (.sqrt f)
  | 0x49 => some (.exp2 f)
  | 0x4A => some (.log2 f)
  | 0x4B => some (.fsetp f)
  | 0x4C => some (.fkey f)
  | 0x4D => some (.cvt f)
  | 0x4E => some (.narrow f)
  | 0x4F => some (.widen f)
  | 0x50 => some (.pkadd f)
  | 0x51 => some (.pkmul f)
  | 0x52 => some (.pkfma f)
  | 0x60 => some (.lxch f)
  | 0x61 => some (.lpoll f)
  | 0x62 => some (.lmask f)
  | 0x63 => some (.lfirst f)
  | 0x64 => some (.lpeer f)
  | 0x65 => some (.lfold f)
  | 0x66 => some (.lscan f)
  | 0x70 => some (.bara f)
  | 0x71 => some (.barw f)
  | 0x72 => some (.bar f)
  | 0x73 => some (.fence f)
  | 0x74 => some (.waita f)
  | 0x75 => some (.qwait f)
  | 0x76 => if f.m = 1 then some (.qwakeDrop f) else some (.qwakeBank f)
  | 0x77 => some (.starr f)
  | 0x80 => some (.lda f)
  | 0x81 => some (.sta f)
  | 0x82 => some (.ldg f)
  | 0x83 => some (.stg f)
  | 0x84 => some (.ldi f)
  | 0x85 => some (.ldw f)
  | 0x86 => some (.ldc f)
  | 0x87 => some (.stc f)
  | 0x88 => some (.ldtf f)
  | 0x89 => some (.stte f)
  | 0x8A => if f.m = 1 then some (.tagsetFull f) else some (.tagsetEmpty f)
  | 0x8B => some (.atom f)
  | 0x8C => some (.cas f)
  | 0xA0 => some (.copy f)
  | 0xA1 => some (.copyv f)
  | 0xA2 => some (.gather f)
  | 0xA3 => some (.redcopy f)
  | 0xA4 => if f.m = 1 then some (.subscribeOff f) else some (.subscribeOn f)
  | 0xA5 => some (.publish f)
  | 0xA6 => some (.waitf f)
  | 0xA7 => if f.m = 1 then some (.testfName f) else some (.testfStat f)
  | 0xA8 => some (.cancf f)
  | 0xB0 => some (.mbegin f)
  | 0xB1 => some (.mma f)
  | 0xB2 => some (.mend f)
  | 0xB3 => some (.mwin f)
  | 0xB4 => some (.cread f)
  | 0xB5 => some (.cclr f)
  | 0xB6 => if f.m = 1 then some (.batonPass f) else some (.batonTake f)
  | 0xB7 => some (.wstore f)
  | 0xB8 => if f.m = 1 then some (.wscrubFix f) else some (.wscrubCheck f)
  | 0xC0 => some (.grun f)
  | 0xC1 => some (.gstop f)
  | 0xC2 => some (.gration f)
  | 0xC3 => some (.gread f)
  | 0xC4 => some (.gwrite f)
  | 0xC5 => some (.gmap f)
  | 0xC6 => some (.gwear f)
  | 0xC8 => if f.m = 1 then some (.treecfgOff f) else if f.m = 2 then some (.treecfgBeta f) else some (.treecfgOn f)
  | 0xC9 => if f.m = 1 then some (.treesetInval f) else some (.treesetSet f)
  | 0xCA => some (.treeupd f)
  | 0xCB => some (.treedraw f)
  | 0xCC => if f.m = 1 then some (.treesumLeaf f) else some (.treesumRoot f)
  | 0xCD => some (.treeclr f)
  | 0xD0 => if f.m = 1 then some (.launchGraph f) else if f.m = 2 then some (.launchPhase f) else if f.m = 3 then some (.launchJob f) else if f.m = 4 then some (.launchQprio f) else some (.launchRun f)
  | 0xD1 => some (.spawn f)
  | 0xD2 => some (.taskend f)
  | 0xD3 => some (.fetchw f)
  | 0xD4 => if f.m = 1 then some (.migrateNear f) else some (.migrateCore f)
  | 0xD5 => some (.lvlcancel f)
  | 0xD6 => some (.cntrd f)
  | 0xD7 => some (.runrec f)
  | 0xD8 => some (.csacc f)
  | 0xD9 => some (.check f)
  | 0xE0 => if f.m = 1 then some (.srdFrame f) else some (.srd f)
  | 0xE1 => if f.m = 1 then some (.swrFrame f) else some (.swr f)
  | 0xE2 => some (.trap f)
  | 0xE3 => if f.m = 1 then some (.trapretKill f) else some (.trapretResume f)
  | 0xE4 => some (.brk f)
  | 0xE5 => some (.codefence f)
  | 0xE6 => some (.pmark f)
  | _ => none

end Sys2Proof.Machine
end

