-- ==== Sys2Proof/WellFormed.lean ====
section
/-!
DEFINITION. WellFormed.lean: which instructions and device steps are well formed: the checks of R37, R40, R41, R52 and
R283 on the words of an instruction, that an absent extension or live-mask word is 0, and the ranges of what a device
step names.
-/
namespace Sys2Proof

/-- The words are those of opcode `op` under the row whose M is `v`, and no decode-time check on them fails. -/
def wellFormedFields (op : Nat) (v : Option Nat) (f : Fields) : Bool :=
  (match v with | none => true | some m => f.m.toNat = m) &&
  (Machine.hasExt op || f.ext = 0) && (f.sp || f.live = 0) &&
  Machine.wordFault none op f = none

/-- Warp indices run from 0 to 15 (R15). -/
def WarpRef.ok (w : WarpRef) : Bool := w.wix < 16

def ErrSite.ok : ErrSite → Bool
  | .sector pa unit => pa < (match unit with | .chl | .fabric => 2 ^ 56 | _ => 2 ^ 39)
  | .slot core mat g => core < 384 && mat < 160 && g < 11520
  | .atticLine core mat axis line => core < 384 && mat < 160 && axis < 2 && line < 192
  | .aWord core addr => core < 384 && addr < 2 ^ 20
  | .register w => w.ok
  | .cElem core row col => core < 384 && row < 256 && col < 128
  | .buffer _ => true
  | .tree id => id < 64

def ErrItem.ok : ErrItem → Bool
  | .slot core mat g => core < 384 && mat < 160 && g < 11520
  | .atticLine core mat axis line => core < 384 && mat < 160 && axis < 2 && line < 256
  | .aRow core _ => core < 384
  | .regGroup core _ => core < 384
  | .hbmRow _ => true

/-- A step of the machine is well formed. -/
def wellFormed (i : Instr) : Bool :=
  match Machine.opcodeOf i with
  | some (op, v, f) => wellFormedFields op v f
  | none =>
    match i with
    | .unassignedOpcode w => !Machine.assigned (bitsOf w.toNat 39 8)
    | .loadResultLand w _ | .gAccessPerform w _ | .instrWaitLimit w | .sleepEnd w | .promiseMissed w | .cclrComplete w => w.ok
    | .tagConditionMet w lane | .pollRead w lane => w.ok && lane < 32
    | .roundaboutDelivery clu stream _ => clu < 48 && stream < 16
    | .leaveGrant clu | .patternBoundary clu _ _ => clu < 48
    | .chainCommit core | .waveForm core | .waveWaitExpiry core | .laneCycleSchedule core | .forcedSwap core
    | .clockGate core | .coreWake core | .progressStall core | .waitLimit core _ | .atticRetentionExpiry core _ => core < 384
    | .placementDecision die | .passedOverTimeout die | .preemptionTrigger die => die < 2
    | .submissionRingService queue => queue < 64
    | .inval part | .resolve part | .keyload part | .keyclr part | .attest part | .errorQueueRecordWrite part => part < 8
    | .hostAccess binding _ => binding ≤ 8
    | .peerAccess port _ | .peerPortTrain port _ | .peerPortTrainingLoss port => port < 8
    | .linkLevelReplay link => link < 9
    | .uncorrectableError site => site.ok
    | .correctedError item _ => item.ok
    | _ => true

end Sys2Proof
end

