-- ==== Sys2Proof/Decode.lean ====
section
/-!
DEFINITION. Decode.lean: the instruction that stands in a sequence of bytes (R35, R36, R55), and the bytes of an
instruction.  Decoding is total: words whose decode ends in a named trap decode to an instruction whose meaning is that
trap.
-/
namespace Sys2Proof

/-- Why bytes hold no instruction. -/
inductive DecodeError where
  /-- Fewer bytes than the instruction word, or than its length (R36). -/
  | tooShort
  deriving DecidableEq, Repr

/-- The fields of an instruction word with its further words (R35). -/
def fieldsOfWord (w ext live : DWord) : Fields :=
  { sp := w.getLsbD 63, gap := w.extractLsb' 59 4, wm := w.extractLsb' 51 8, gp := w.extractLsb' 48 3, gn := w.getLsbD 47,
    d := w.extractLsb' 30 9, a := w.extractLsb' 21 9, b := w.extractLsb' 12 9, c := w.extractLsb' 3 9, m := w.extractLsb' 0 3,
    ext := ext, live := live }

/-- OP of an instruction word (R35). -/
def opOfWord (w : DWord) : Nat := (w.extractLsb' 39 8).toNat

/-- The instruction word of an opcode with its fields (R35). -/
def wordOfFields (op : Nat) (f : Fields) : DWord :=
  BitVec.ofBool f.sp ++ f.gap ++ f.wm ++ f.gp ++ BitVec.ofBool f.gn ++ BitVec.ofNat 8 op ++ f.d ++ f.a ++ f.b ++ f.c ++ f.m

/-- How many words follow an instruction word (R36); an unassigned opcode is refused before any is examined (R55). -/
def followWords (w : DWord) : Nat :=
  let op := opOfWord w
  if Machine.assigned op then (if Machine.hasExt op then 1 else 0) + (if w.getLsbD 63 then 1 else 0) else 0

/-- The instruction that a word and the words after it make. -/
def decodeWords (w : DWord) (rest : List DWord) : Except DecodeError Instr :=
  let op := opOfWord w
  if Machine.assigned op then
    let sp := w.getLsbD 63
    match Machine.hasExt op, sp, rest with
    | true, true, e :: l :: _ => .ok ((Machine.instrOf op (fieldsOfWord w e l)).getD (.unassignedOpcode w))
    | true, false, e :: _ => .ok ((Machine.instrOf op (fieldsOfWord w e 0)).getD (.unassignedOpcode w))
    | false, true, l :: _ => .ok ((Machine.instrOf op (fieldsOfWord w 0 l)).getD (.unassignedOpcode w))
    | false, false, _ => .ok ((Machine.instrOf op (fieldsOfWord w 0 0)).getD (.unassignedOpcode w))
    | _, _, _ => .error .tooShort
  else .ok (.unassignedOpcode w)

/-- The first little-endian doubleword of a list of bytes (R4, R35). -/
def takeDWord : List Byte → Option (DWord × List Byte)
  | b0 :: b1 :: b2 :: b3 :: b4 :: b5 :: b6 :: b7 :: rest => some (b7 ++ b6 ++ b5 ++ b4 ++ b3 ++ b2 ++ b1 ++ b0, rest)
  | _ => none

/-- Up to `n` doublewords. -/
def takeDWords : Nat → List Byte → List DWord
  | 0, _ => []
  | n + 1, bs => match takeDWord bs with
    | some (w, rest) => w :: takeDWords n rest
    | none => []

/-- The instruction at the head of a list of bytes, with the bytes after it. -/
def decode (bs : List Byte) : Except DecodeError (Instr × List Byte) :=
  match takeDWord bs with
  | none => .error .tooShort
  | some (w, rest) =>
    match decodeWords w (takeDWords (followWords w) rest) with
    | .ok i => .ok (i, rest.drop (8 * followWords w))
    | .error e => .error e

/-- The words of an instruction (R35, R36); a device step has none. -/
def encode (i : Instr) : Option (List DWord) :=
  match Machine.opcodeOf i with
  | some (op, _, f) =>
    some (wordOfFields op f :: ((if Machine.hasExt op then [f.ext] else []) ++ (if f.sp then [f.live] else [])))
  | none => match i with
    | .unassignedOpcode w => some [w]
    | _ => none

/-- The little-endian bytes of a doubleword (R4). -/
def dwordBytes (w : DWord) : List Byte :=
  [w.extractLsb' 0 8, w.extractLsb' 8 8, w.extractLsb' 16 8, w.extractLsb' 24 8,
   w.extractLsb' 32 8, w.extractLsb' 40 8, w.extractLsb' 48 8, w.extractLsb' 56 8]

/-- The longest instruction, in doublewords (R36). -/
def maxWords : Nat := 3

/-- The doublewords of a number whose bit 0 is the least significant bit of the first. -/
def tableWords (w : Nat) : List DWord := (List.range maxWords).map fun k => BitVec.ofNat 64 (w >>> (64 * k))

/-- The bytes of the words of a number, as they stand in memory. -/
def tableBytes (w : Nat) : List Byte := (tableWords w).flatMap dwordBytes

/-- What decodes from an instruction of `nbits` bits, the bits above being 0. -/
def decodeTableWord (nbits w : Nat) : Option Instr :=
  match decode (tableBytes (w % 2 ^ nbits)) with
  | .ok (i, _) => some i
  | .error _ => none

end Sys2Proof
end

