-- ==== Sys2Proof/Machine/Streams.lean ====
section
/-!
DEFINITION. Streams.lean: operand streams: SUBSCRIBE, PUBLISH and the roundabout (R126, R242-R245).
-/
namespace Sys2Proof.Machine

def State.subOf (s : State) (g stream : Nat) : Option Sub := (s.wg g).subs.find? fun x => x.stream = stream

/-- Workgroups on a cluster that subscribe to a stream. -/
def State.subscribers (s : State) (clu stream : Nat) : List Nat :=
  (s.wgs.filter fun g => cluOf g.2.core = clu && g.2.subs.any fun x => x.stream = stream).map (·.1)

/-- Subscriptions a cluster holds. -/
def State.subCount (s : State) (clu : Nat) : Nat :=
  s.wgs.foldl (fun n g => if cluOf g.2.core = clu then n + g.2.subs.length else n) 0

/-- SUBSCRIBE.ON (R242). -/
def execSubscribeOn (f : Fields) (s : State) : Res :=
  uniform 0xA4 f s fun c w x s =>
    let g := s.wg c.w.wg
    let stream := c.valA w x % 2 ^ 32
    let base := c.valB w x % 2 ^ 32
    let ctl := c.valC w x % 2 ^ 32
    let slots := bitsOf ctl 0 5
    let size := bitsOf ctl 8 11
    let ctlBad := slots = 0 || slots > 16 || bitsOf ctl 5 3 ≠ 0 || size = 0 || size > 1024 || bitsOf ctl 19 5 ≠ 0 || bitsOf ctl 25 7 ≠ 0
    let checks : List (Bool × Cause × Nat) :=
      [(stream > 15 || ctlBad || (s.subOf c.w.wg stream).isSome || s.subCount (cluOf g.core) ≥ 64, .streamState, 0),
       (base % 32 ≠ 0, .localAlign, base), (base + 32 * size * slots > g.aSize, .aRange, base)]
    match firstFault checks with
    | some (cause, addr) => c.trapAt s cause addr
    | none =>
      if !w.released then c.block s .drain
      else
        let sub : Sub := { stream, base, slots, slotSz := size, byThreads := bitsOf ctl 24 1 = 1, nextIn := 0, nextUse := 0, seqNo := 0, inUse := [] }
        c.done w ((s.modA c.w.wg fun g => (List.range slots).foldl (fun g k => g.setTag (base + 32 * size * k) false) g).modWg c.w.wg fun g =>
          { g with subs := g.subs ++ [sub] })

/-- A workgroup takes no more records of a stream (R242). -/
def State.unsubscribe (s : State) (g stream : Nat) : State :=
  let clu := cluOf (s.wg g).core
  let cut (r : Record) : Record := { r with todo := r.todo.filter (· ≠ g) }
  (s.modWg g fun x => { x with subs := x.subs.filter fun y => decide (y.stream ≠ stream) }).modClu clu fun k =>
    { k with streams := tmodify k.streams stream fun rs => (rs.map cut).filter fun r => !r.todo.isEmpty }

/-- SUBSCRIBE.OFF (R242). -/
def execSubscribeOff (f : Fields) (s : State) : Res :=
  uniform 0xA4 f s fun c w x s =>
    let stream := c.valA w x % 2 ^ 32
    if stream > 15 || (s.subOf c.w.wg stream).isNone then c.trapU s .streamState
    else if !w.released then c.block s .drain
    else c.done w (s.unsubscribe c.w.wg stream)

/-- PUBLISH (R244). -/
def execPublish (f : Fields) (s : State) : Res :=
  uniform 0xA5 f s fun c w x s =>
    let g := s.wg c.w.wg
    let stream := c.valA w x % 2 ^ 32
    let addr := c.valB w x % 2 ^ 32
    let len := c.valC w x % 2 ^ 32
    let checks : List (Bool × Cause × Nat) :=
      [(addr % 32 ≠ 0, .localAlign, addr), (addr + len > g.aSize, .aRange, addr),
       (len = 0 || len % 32 ≠ 0 || len > 32768 || stream > 15, .copyLength, 0)]
    match firstFault checks with
    | some (cause, addr) => c.trapAt s cause addr
    | none => startCmd c w s 4 (.publish stream addr len) (hIndex c.f.d) (byteRange .a addr len false)

/-- Bytes a subscriber's slot has room for (R243). -/
def Sub.room (x : Sub) : Nat := if x.byThreads then 32 * x.slotSz - 32 else 32 * x.slotSz

/-- A record has gone into the next slot; under MODE 0 the engine has to free it. -/
def Sub.took (x : Sub) : Sub :=
  { x with nextIn := (x.nextIn + 1) % x.slots, seqNo := x.seqNo + 1, inUse := if x.byThreads then x.inUse else x.inUse ++ [x.nextIn] }

/-- The roundabout takes in one record (R244): none where the stream is full; else how many subscribers it has, or none
of them where it does not fit a slot. -/
def State.intake (s : State) (clu stream : Nat) (bs : List Byte) (marks : List (Nat × Nat × Nat)) : Option (Option Nat × State) :=
  let held := tgetD [] (s.cluster clu).streams stream
  if held.length ≥ 4 then none
  else
    let subs := s.subscribers clu stream
    if subs.any fun g => match s.subOf g stream with | some x => decide (x.room < bs.length) | none => false then some (none, s)
    else
      let s1 := if subs.isEmpty then s
        else s.modClu clu fun k => { k with streams := tput k.streams stream (held ++ [{ bytes := bs, marks, todo := subs }]) }
      some (some subs.length, s1)

/-- ROUNDABOUT_INTAKE (R244): the record of a PUBLISH, or the next slice of a COPY to a stream (R229). -/
def execRoundaboutIntake (id : Nat) (s : State) : Res :=
  match tfind s.cmds id with
  | none => .next s
  | some c =>
    if c.status ≠ 0 || !s.startable c then .next s
    else match c.body with
      | .publish stream addr len =>
        if c.cancel then .next (s.complete id stCANCELLED 0 0 0)
        else if s.rangeHeld id id c (byteRange .a addr len false) then .next s
        else
          let g := s.asp c.wg
          let tag := g.aTag addr len
          match s.intake (cluOf c.core) stream (g.aBytes addr len) (s.cmdMarks id c .a addr ((List.range (len / 32)).map fun j => (32 * j, 32))) with
          | none => .next s
          | some (none, s1) => .next (match tag with
            | some t => s1.complete id stPOISONED 0 t 0
            | none => s1.complete id stFAULT Cause.streamState.code 0 0)
          | some (some n, s1) =>
            .next (match tag with | some t => s1.complete id stPOISONED 0 t n | none => s1.complete id stOK 0 0 n)
      | .copy ssp .stream _ slices true _ _ =>
        if !c.working then .next s
        else
          let u := c.units.length
          match unitSlice ssp .stream slices u with
          | none => .next s
          | some (x, _) =>
            if (tgetD [] (s.cluster (cluOf c.core)).streams (x.dst.toNat % 16)).length ≥ 4 then .next s
            else if s.rangeHeld id x.seq c (if ssp = .w then [(.w, slotOfAddr x.src.toNat, slotOfAddr x.src.toNat + x.len / 136, false)]
                else byteRange ssp x.src.toNat x.len false) then .next s
            else match readAll ssp c x (x.len / 136) s with
              | .wait s1 => .next s1
              | .fail s1 => .next (s1.cmdFail id .copyAccess)
              | .got bs tag s1 =>
                match s1.intake (cluOf c.core) (x.dst.toNat % 16) bs (s1.cmdMarks id c ssp x.src.toNat (if ssp = .w then [] else x.grains ssp .stream) ++
                    if ssp = .w then slotMarks c x (x.len / 136) s1 else []) with
                | none => .next s1
                | some (none, s2) => .next (s2.cmdFailMet id tag .streamState)
                | some (some _, s2) => .next (s2.unitDone id u tag)
      | _ => .next s
where
  /-- The poisoned slots of a slice from a mat. -/
  slotMarks (c : Cmd) (x : Slice) (slots : Nat) (s : State) : List (Nat × Nat × Nat) :=
    (List.range slots).filterMap fun j => match s.cmdRead id c .w (slotAfter x.src.toNat j) 136 with
      | .got _ (some t) _ => some (136 * j, 136, t)
      | _ => none
  /-- The bytes of a whole slice, slot by slot from a mat. -/
  readAll (ssp : Space) (c : Cmd) (x : Slice) (slots : Nat) (s : State) : Got :=
    if ssp = .w then
      (List.range slots).foldl (fun acc j => match acc with
        | .got bs tag s1 => match s1.cmdRead id c .w (slotAfter x.src.toNat j) 136 with
          | .got more t s2 => .got (bs ++ more) (lowerTag tag t) s2
          | other => other
        | other => other) (.got [] none s)
    else s.cmdRead id c ssp x.src.toNat x.len

/-- The oldest record that workgroup `g` is still to receive has been received. -/
def serveFirst (g : Nat) : List Record → List Record
  | [] => []
  | r :: rs => if r.todo.contains g then { r with todo := r.todo.filter (· ≠ g) } :: rs else r :: serveFirst g rs

/-- ROUNDABOUT_DELIVERY (R245): the oldest record a subscriber has not received goes into the next slot of its ring, once
that slot's first word has its tag empty and, under MODE 0, the engine has freed it. -/
def execRoundaboutDelivery (clu stream g : Nat) (s : State) : Res :=
  let held := tgetD [] (s.cluster clu).streams stream
  match held.find? fun r => r.todo.contains g, s.subOf g stream, tfind s.wgs g with
  | some r, some x, some wg =>
    let slot := x.base + 32 * x.slotSz * x.nextIn
    if cluOf wg.core ≠ clu || wg.place ≠ .resident || (s.asp g).full slot || (!x.byThreads && x.inUse.contains x.nextIn) then .next s
    else
      let head := if x.byThreads then toBytes 32 (x.seqNo % 2 ^ 32) else []
      let s0 := s.modA g fun k =>
        (r.marks.foldl (fun k m => k.aMark (slot + head.length + m.1) m.2.1 m.2.2) (k.aPut slot (head ++ r.bytes))).setTag slot true
      let s1 := s0.modWg g fun k => { k with subs := k.subs.map fun y => if y.stream = stream then x.took else y }
      .next (s1.modClu clu fun k => { k with streams := tput k.streams stream ((serveFirst g held).filter fun q => !q.todo.isEmpty) })
  | _, _, _ => .next s

end Sys2Proof.Machine
end

