-- ==== Sys2Proof/Machine/Matrix.lean ====
section
/-!
DEFINITION. Matrix.lean: the matrix engine, opcodes 0xB0-0xB8 (R102-R131): chains and their steps, windows, the baton, reading
out, and the writing and scrubbing of slots.
-/
namespace Sys2Proof.Machine

/-! Chains (R112-R120) -/

/-- The open chain of a warp. -/
def State.openChain (s : State) (core : Nat) (r : WarpRef) : Option Chain :=
  (s.core core).chains.find? fun c => c.wg = r.wg && c.wix = r.wix && c.mend.isNone && !c.dead

def State.modChain (s : State) (core id : Nat) (f : Chain → Chain) : State :=
  s.modCore core fun k => { k with chains := k.chains.map fun c => if c.id = id then f c else c }

/-- The chain has been abandoned: its warp retired while it was open (R118). -/
def State.abandoned (s : State) (c : Chain) : Bool :=
  c.dead || (c.mend.isNone && match s.warp? { wg := c.wg, wix := c.wix } with | some w => w.retired | none => true)

/-- No earlier chain of the core is still to commit (R120). -/
def State.chainFirst (s : State) (core id : Nat) : Bool :=
  ((s.core core).chains.takeWhile fun c => decide (c.id ≠ id)).all s.abandoned

/-- The warp holds its workgroup's baton (R112). -/
def State.holdsBaton (s : State) (r : WarpRef) : Bool := (s.wg r.wg).baton.holder = some r.wix

/-- MBEGIN (R113): the rows of the window are locked and the leave governor is asked. -/
def execMbegin (f : Fields) (s : State) : Res :=
  uniform 0xB0 f s fun c w _ s =>
    let core := (s.wg c.w.wg).core
    if !s.holdsBaton c.w then c.trapU s .batonNotHeld
    else if (s.openChain core c.w).isSome then c.trapU s .chainState
    else if w.cwb ≥ w.cwl then c.trapU s .mmaRows
    else if s.locksUsed core + 1 > 32 then c.block s (.room 0 1)
    else if (((s.core core).chains.filter fun k => k.mend.isSome).length > 8) then c.block s (.room 3 0)
    else
      let (id, s1) := s.newId
      let chain : Chain := { id, wg := c.w.wg, wix := c.w.wix, lo := w.cwb, hi := w.cwl, bexp := none, steps := 0, left := 0, sums := []
                             clamped := [], nonfin := false, prov := none, cancel := false, mend := none, dead := false, granted := false }
      c.done w ((s1.modCore core fun k => { k with chains := k.chains ++ [chain] }).askLeave core id 2300 true)

/-- MEND (R118). -/
def execMend (f : Fields) (s : State) : Res :=
  uniform 0xB2 f s fun c w _ s =>
    let core := (s.wg c.w.wg).core
    if !s.holdsBaton c.w then c.trapU s .batonNotHeld
    else match s.openChain core c.w with
      | none => c.trapU s .chainState
      | some chain =>
        match issueHold s core c.w.wg [] 1 with
        | some hold => c.block s hold
        | none =>
          let (id, s1) := s.newId
          let s2 := { s1 with cmds := tput s1.cmds id (mkCmd s1 c.w 6 (.mend chain.id) true []) }
          c.done w ((s2.setHandle c.w (hIndex c.f.d) id).modChain core chain.id fun k => { k with mend := some id })

/-! The format block and the operands of a step (R109-R111, R114) -/

def Format.depth (f : Format) : Nat := if f.wfmt = 0 then 64 else 32
def Format.elem (f : Format) : Nat := if f.afmt = 2 then 2 else 1
def Format.block (f : Format) : Nat := if f.ablk = 1 then 16 else 32
/-- Bytes of a record. -/
def Format.record (f : Format) : Nat :=
  let data := f.rows * f.depth * f.elem
  if f.ablk = 0 then data else max data (f.asoff + f.rows * (f.depth / f.block))

/-- The fields of a format block; `tbase` is read from a register. -/
def formatOf (x : Nat) (tbase : Int) : Format :=
  { afmt := bitsOf x 0 4, ablk := bitsOf x 4 2, rows := bitsOf x 8 8, asoff := bitsOf x 16 20, wfmt := bitsOf x 36 4, tbase
    bexp := asI 8 (bitsOf x 48 8) }

/-- The format block is one that the engine does not accept (R111). -/
def formatBad (x : Nat) (f : Format) (sAllot : Nat) (bexp : Option Int) : Bool :=
  f.afmt > 2 || f.ablk > 2 || f.wfmt > 1 || (f.wfmt = 1 && f.afmt = 2) || bitsOf x 6 2 ≠ 0 || bitsOf x 46 2 ≠ 0 || x / 2 ^ 56 ≠ 0 ||
  f.rows = 0 || f.rows > 64 || (f.ablk ≠ 0 && f.asoff < f.rows * f.depth * f.elem) || bitsOf x 40 6 ≥ sAllot ||
  (match bexp with | some b => decide (b ≠ f.bexp) | none => false)

/-- MMA (R114): the format block is read once the warp's earlier accesses to A space have been performed (R119, R178). -/
def execMma (f : Fields) (s : State) : Res :=
  uniform 0xB1 f s fun c w x s =>
    let g := s.wg c.w.wg
    let core := g.core
    let stream := c.f.m = 1
    let a := c.valA w x % 2 ^ 32
    let b := c.valB w x % 2 ^ 32
    let p := c.valC w x % 2 ^ 32
    let fa := bitsOf p 0 20
    let q := bitsOf p 20 2
    let row0 := bitsOf p 24 8
    let g0 := 3 * wRow b + wCol b / 1280
    let fb := (s.asp c.w.wg).aRead fa 32
    let fmt0 := formatOf fb 0
    if !s.holdsBaton c.w then c.trapU s .batonNotHeld
    else if !w.releasedA then c.block s .drain
    else match s.openChain core c.w with
      | none => c.trapU s .chainState
      | some chain =>
        let checks : List (Bool × Cause × Nat) :=
          [(chain.steps ≥ 65536, .chainState, 0),
           ((if stream then a ≥ 16 else a ≥ 2 ^ 20 || a % 32 ≠ 0) || fa % 32 ≠ 0 || bitsOf p 22 2 ≠ 0 ||
             !(wCol b = 0 || wCol b = 0x500 || wCol b = 0xA00), .matrixOperand, 0),
           (wRow b > 0xEFF || g0 + 7 > 11519, .matrixOperand, 0),
           (wMat b > 159, .wRange, b),
           (fa + 32 > g.aSize, .aRange, fa), (!stream && a + fmt0.record > g.aSize, .aRange, a),
           (w.cwb + row0 + fmt0.rows > w.cwl, .mmaRows, 0),
           (stream && (s.subOf c.w.wg a).isNone, .streamUnsubscribed, 0),
           (formatBad fb fmt0 w.sAllot chain.bexp, .formatBlock, 0)]
        match firstFault checks with
        | some (cause, addr) => c.trapAt s cause addr
        | none =>
          let key : RegKey := .s (bitsOf fb 40 6)
          if w.isPending [key] then c.block s (.pending [key])
          else
            let (tb, short) := w.readAt key c.start
            if short && c.sb then c.laneTrap s [{ lane := 0, cause := .stallShort }]
            else
              let fmt := { fmt0 with tbase := asI 8 (tb.toNat % 256) }
              let ranges := if stream then [] else byteRange .a a fmt.record false
              match issueHold s core c.w.wg ranges 1 with
              | some hold => c.block s hold
              | none =>
                let (id, s1) := s.newId
                let locks := ranges.map fun (sp, lo, hi, dest) => ({ space := sp, lo, hi, dest, seq := id } : RangeLock)
                let body : CmdBody := .mma chain.id (wMat b) g0 q (w.cwb + row0) fmt (if stream then none else some a) (if stream then some a else none)
                let s2 := { s1 with cmds := tput s1.cmds id (mkCmd s1 c.w 6 body true locks) }
                c.done w ((s2.setHandle c.w (hIndex c.f.d) id).modChain core chain.id fun k =>
                  { k with bexp := some fmt.bexp, steps := k.steps + 1, left := k.left + 1 })

/-! A step (R103, R109, R114-R117) -/

/-- The weights of a tile by column, from its eight slots. -/
def tileWeights (f : Format) (slots : List (BitVec 1280)) : List (List FpVal) :=
  let e4m3 := f.wfmt = 1
  let len := if e4m3 then 16 else 32
  let wide := if e4m3 then 8 else 4
  (List.range 32).map fun n =>
    let v := (slots.getD (n / 4) 0).toNat
    (List.range f.depth).map fun k =>
      let b := 2 * (n % 4) + k / len
      blockVal e4m3 (bitsOf v (1024 + 8 * b) 8) f.tbase (bitsOf v (128 * b + wide * (k % len)) wide)

/-- The format of an activation element. -/
def actFmt (f : Format) : Fmt := if f.afmt = 0 then fmtE4M3 else if f.afmt = 1 then fmtE5M2 else fmtBF16

/-- The activations of a record by row. -/
def recordActs (f : Format) (rec : List Byte) : List (List FpVal) :=
  (List.range f.rows).map fun m =>
    let row := rec.drop (m * f.depth * f.elem)
    (List.range f.depth).map fun k =>
      let scale := if f.ablk = 0 then 0 else (byteAt rec (f.asoff + m * (f.depth / f.block) + k / f.block)).toNat
      if f.ablk ≠ 0 && scale = 0x80 then .zero false
      else match unpack (actFmt f) (ofBytes ((row.drop (k * f.elem)).take f.elem)) with
        | .fin n x e => .fin n x (e + if f.ablk = 0 then 0 else asI 8 scale)
        | v => v

def FpVal.finite : FpVal → Bool
  | .nan _ | .inf _ => false
  | _ => true

/-- The non-zero finite products of two lists. -/
def products (ws as : List FpVal) : List (Bool × Nat × Int) :=
  (ws.zip as).filterMap fun x => match x with
    | (.fin n a e, .fin n' a' e') => some (n ^^ n', a * a', e + e')
    | _ => none

/-- x · 2^k, truncated toward −∞. -/
def shiftFloor (x k : Int) : Int := if k ≥ 0 then x * 2 ^ k.toNat else x / 2 ^ (-k).toNat

/-- groupsum of R115. -/
def groupSum (ps : List (Bool × Nat × Int)) (b : Int) : Int × Bool :=
  match ps with
  | [] => (0, false)
  | p :: _ =>
    let top := ps.foldl (fun (m : Int) x => max m ((x.2.1.log2 : Int) + x.2.2)) ((p.2.1.log2 : Int) + p.2.2)
    let sum := ps.foldl (fun (acc : Int) x =>
      let t := shiftFloor x.2.1 (x.2.2 + 38 - top)
      if x.1 then acc - t else acc + t) 0
    clampInt (minI 64) (maxI 64) (shiftFloor sum (top - b + 6))

/-- The contributions of a step: element (row · 128 + column), value, whether it was clamped. -/
def contributions (f : Format) (q row0 : Nat) (ws as : List (List FpVal)) : List (Nat × Int × Bool) :=
  as.zipIdx.flatMap fun (av, m) =>
    ws.zipIdx.flatMap fun (wv, n) =>
      (List.range (f.depth / 32)).map fun g =>
        let (v, cl) := groupSum (products ((wv.drop (32 * g)).take 32) ((av.drop (32 * g)).take 32)) f.bexp
        ((row0 + m) * 128 + 32 * q + n, v, cl)

/-- A contribution joins the chain sum of its element (R116). -/
def Chain.add (k : Chain) (x : Nat × Int × Bool) : Chain :=
  { k with sums := tput k.sums x.1 (tgetD 0 k.sums x.1 + x.2.1), clamped := if x.2.2 then x.1 :: k.clamped else k.clamped }

/-- Where the record of a step lies: at its address, or in the ring slot that holds the oldest unconsumed record, once the
step is the oldest of its workgroup's steps on that stream (R127). -/
def State.stepRecord (s : State) (id : Nat) (c : Cmd) : Option (Nat × Option (Nat × Nat)) :=
  match c.body with
  | .mma _ _ _ _ _ _ (some a) _ => some (a, none)
  | .mma _ _ _ _ _ _ none (some st) =>
    let same (x : Nat × Cmd) : Bool := x.2.wg = c.wg && x.2.status = 0 && match x.2.body with | .mma _ _ _ _ _ _ _ y => y = some st | _ => false
    let steps := s.cmds.filter same
    match s.subOf c.wg st with
    | none => none
    | some x =>
      let consumed := (steps.filter fun y => y.2.landed.isSome).length
      if steps.any (fun y => y.1 < id && y.2.landed.isNone && !y.2.cancel) || x.inUse.length ≤ consumed then none
      else some (x.base + 32 * x.slotSz * x.nextUse, some (st, x.nextUse))
  | _ => none

/-- A slot range of an earlier slot write is still to be written, or an earlier reader of a slot has not read it (R108). -/
def State.slotHeld (s : State) (id core mat lo hi : Nat) (write : Bool) : Bool :=
  s.cmds.any fun x => x.1 < id && x.2.core = core && x.2.status = 0 && match x.2.body with
    | .wstore _ m g0 n => m = mat && g0 + x.2.units.length < hi && lo < g0 + n
    | .wscrub fix m g0 n .. => (write || fix) && m = mat && g0 + x.2.units.length < hi && lo < g0 + n
    | .mma _ m g0 .. => write && x.2.landed.isNone && m = mat && g0 < hi && lo < g0 + 8
    | _ => false

/-- The step reads its tile and its record and forms its contributions (R114-R117). -/
def State.mmaFetch (s : State) (id : Nat) (c : Cmd) : State :=
  match c.body with
  | .mma chain mat g0 q row0 fmt _ _ =>
    match s.stepRecord id c with
    | none => s
    | some (addr, slot) =>
      let (slots, tag, s1) := (List.range 8).foldl
        (fun (acc : List (BitVec 1280) × Option Nat × State) j =>
          let (v, _, t, s1) := acc.2.2.readSlot c.core mat (g0 + j)
          (acc.1 ++ [v], lowerTag acc.2.1 t, s1)) (([], none, s) : List (BitVec 1280) × Option Nat × State)
      let g := s.asp c.wg
      let dataTag := lowerTag (g.aTag addr (fmt.rows * fmt.depth * fmt.elem))
        (if fmt.ablk = 0 then none else g.aTag (addr + fmt.asoff) (fmt.rows * (fmt.depth / fmt.block)))
      let bad := lowerTag tag dataTag
      let ws := tileWeights fmt slots
      let as := recordActs fmt (g.aBytes addr fmt.record)
      let nonfin := bad.isNone && (ws.any (fun l => l.any fun v => !v.finite) || as.any fun l => l.any fun v => !v.finite)
      let s2 := s1.modChain c.core chain fun k =>
        let k1 := { k with prov := lowerTag k.prov bad, nonfin := k.nonfin || nonfin }
        if bad.isSome then k1 else (contributions fmt q row0 ws as).foldl Chain.add k1
      let s3 := match slot with
        | some (st, _) => s2.modWg c.wg fun g => { g with subs := g.subs.map fun (x : Sub) => if x.stream = st then { x with nextUse := (x.nextUse + 1) % x.slots } else x }
        | none => s2
      s3.modCmd id fun k =>
        { k with locks := [], landed := some s.clock.clk, overrun := nonfin, prov := bad, units := match slot with | some (_, n) => [n] | none => [] }
  | _ => s

/-- The step retires: its ring slot frees and its handle completes (R118, R127). -/
def State.mmaRetire (s : State) (id : Nat) (c : Cmd) : State :=
  match c.body with
  | .mma chain _ _ _ _ fmt _ stream =>
    let s1 := s.modChain c.core chain fun k => { k with left := k.left - 1 }
    let s2 := match stream, c.units with
      | some st, slot :: _ =>
        match s1.subOf c.wg st with
        | some x =>
          (s1.modA c.wg fun g => g.setTag (x.base + 32 * x.slotSz * slot) false).modWg c.wg fun g =>
            { g with subs := g.subs.map fun (y : Sub) => if y.stream = st then { y with inUse := y.inUse.filter (· ≠ slot) } else y }
        | none => s1
      | _, _ => s1
    let stat := if c.cancel then stCANCELLED else if c.prov.isSome then stPOISONED else if c.overrun then stNONFINITE else stOK
    s2.complete id stat 0 (if stat = stPOISONED then c.prov.getD 0 else 0) fmt.rows
  | _ => s

/-- MMA_STEP_RETIRE (R114-R120): the step reads its tile and record once nothing earlier stands before them, and retires
once the previous chain of its core has committed.  Under an active gate run its tile read waits for a boundary (R151). -/
def execMmaStepRetire (id : Nat) (s : State) : Res :=
  match tfind s.cmds id with
  | none => .next s
  | some c =>
    match c.body with
    | .mma chain mat g0 _ _ fmt src _ =>
      if c.status ≠ 0 then .next s
      else if c.landed.isSome then
        if s.chainFirst c.core chain then .next (s.mmaRetire id c) else .next s
      else if c.cancel then .next (s.mmaRetire id c)
      else if !s.startable c || !((s.core c.core).chains.any fun k => k.id = chain && k.granted) then .next s
      else if s.slotHeld id c.core mat g0 (g0 + 8) false || (s.stepRecord id c).isNone ||
          (match src with | some a => s.rangeHeld id id c (byteRange .a a fmt.record false) | none => false) then .next s
      else if s.runOn c.core mat then
        if (s.core c.core).reads.any fun r => r.w.isNone && r.cmd = id then .next s
        else .next (s.modCore c.core fun k => { k with reads := k.reads ++ [{ mat, w := none, cmd := id, lane := 0, addr := 0, dest := [] }] })
      else .next (s.mmaFetch id c)
    | _ => .next s

/-! The commit (R116-R118, R120) -/

/-- The committed value of one element, and whether it saturated. -/
def commitElem (trapsat : Bool) (q : Int) (sum : Int) (clamped : Bool) : Int × Bool :=
  let total := q + sum
  if clamped || total > maxI 64 || total < minI 64 then (if trapsat then q else if total ≥ 0 then maxI 64 else minI 64, true)
  else (total, false)

/-- Commit a closed chain whose steps have all retired. -/
def State.commitChain (s : State) (core : Nat) (k : Chain) (mend : Nat) : State :=
  let s1 := (s.modCore core fun x => { x with chains := x.chains.filter fun y => decide (y.id ≠ k.id) }).dropLeave core k.id
  let cancelled := k.cancel || match tfind s.cmds mend with | some c => c.cancel | none => true
  if cancelled then s1.complete mend stCANCELLED 0 0 k.steps
  else match lowerTag k.prov ((k.sums.map fun x => (s.core core).tagC x.1).foldl lowerTag none) with
    | some t => s1.complete mend stPOISONED 0 t k.steps
    | none =>
      let trapsat := s.flag k.wg (·.trapsat)
      let old := (s.core core).c
      let vals := k.sums.map fun x => (x.1, commitElem trapsat (asI 64 (tgetD 0 old x.1).toNat) x.2 (k.clamped.contains x.1))
      let sat := vals.any fun x => x.2.2
      let r : WarpRef := { wg := k.wg, wix := k.wix }
      let s2 := (s1.modCore core fun x => x.putC (vals.map fun v => (v.1, BitVec.ofNat 64 (wrapTo 64 v.2.1)))).modWarp r fun w =>
        { w with status := w.status ||| whenFlag (sat && !trapsat) flagOVF ||| whenFlag k.nonfin flagINV }
      let stat := if sat then stSATURATED else if k.nonfin then stNONFINITE else stOK
      let s3 := if sat && trapsat then s2.defer r .aq64Sat mend (statusWord stat 0 0 6 k.steps) none else s2
      s3.complete mend stat 0 0 k.steps

/-- CHAIN_COMMIT (R116): the oldest chain of a core commits; an abandoned chain whose steps have retired releases its rows. -/
def execChainCommit (core : Nat) (s : State) : Res :=
  let chains := (s.core core).chains
  match chains.find? fun k => s.abandoned k && k.left = 0 with
  | some k => .next ((s.modCore core fun x => { x with chains := x.chains.filter fun y => decide (y.id ≠ k.id) }).dropLeave core k.id)
  | none =>
    match chains.find? fun k => !s.abandoned k with
    | some k =>
      match k.mend with
      | some mend => if k.left = 0 then .next (s.commitChain core k mend) else .next s
      | none => .next s
    | none => .next s

/-! Windows, reading out and clearing (R121-R123) -/

/-- Two ranges of rows, both not empty, share a row. -/
def rowsMeet (lo hi lo' hi' : Nat) : Bool := lo < hi && lo' < hi' && lo < hi' && lo' < hi

/-- MWIN (R121). -/
def execMwin (f : Fields) (s : State) : Res :=
  uniform 0xB3 f s fun c w x s =>
    let g := s.wg c.w.wg
    let t := c.valA w x % 2 ^ 32
    let b := c.valB w x % 2 ^ 32
    let l := c.valC w x % 2 ^ 32
    let absent := match g.warps[t]? with | some k => k.retired | none => true
    let others := g.warps.zipIdx.any fun (k, i) => i ≠ t && rowsMeet (g.cbase + b) (g.cbase + l) k.cwb k.cwl
    let busy := (s.core g.core).chains.any fun k => k.wg = c.w.wg && k.wix = t && !s.abandoned k
    if c.w.wix ≠ 0 || absent || b > l || l > g.crows || others || busy then c.trapU s .windowIllegal
    else c.done w (s.modWarp { c.w with wix := t } fun k => { k with cwb := g.cbase + b, cwl := g.cbase + l })

/-- The format of a CREAD form. -/
def creadFmt (m : Nat) : Fmt := if m = 0 then fmtF32 else if m = 1 then fmtF16 else fmtBF16

/-- CREAD's conversion (R122). -/
def creadVal (m ctl : Nat) (q : DWord) : Val :=
  let (v, fl) := roundVal (creadFmt m) (bitsOf ctl 8 2) (ofDyadic (asI 64 q.toNat) (asI 8 (ctl % 256) - 44) false)
  { v, flags := fl }

/-- CREAD (R122). -/
def execCread (f : Fields) (s : State) : Res :=
  issueLanes 0xB4 f s fun c w s =>
    let core := (s.wg c.w.wg).core
    let ls := c.lanes.map fun x => (x, c.valA w x % 2 ^ 32, c.valB w x % 2 ^ 32)
    let fs := c.faults (ls.filterMap fun x => s.cReadFault core w x.1.1 x.2.1 x.2.2)
    if !fs.isEmpty then c.laneTrap s fs
    else if ls.any fun x => w.held (plainAccess x.1.1 .c 0 (4 * (x.2.1 * 128 + x.2.2)) 4 .read) then c.block s .drain
    else s.parkC c core (ls.map (·.2)) fun _ =>
      let (id, s1) := s.newId
      let vals := ls.map fun x => (x.1, creadVal c.f.m.toNat (c.valC w x.1) (tgetD 0 (s.core core).c (x.2.1 * 128 + x.2.2)))
      let flags := vals.foldl (fun fl x => fl ||| x.2.flags) 0
      let w1 := vals.foldl (fun w x => w.deliver id (c.dest w x.1.1) x.2.v) (w.expect id (ls.flatMap fun x => c.dest w x.1.1) ls.length false)
      c.done w (s1.setWarp c.w { w1 with pends := w1.pends.map fun p => if p.id = id then { p with flags := flags } else p })

/-- CCLR (R123). -/
def execCclr (f : Fields) (s : State) : Res :=
  uniform 0xB5 f s fun c w x s =>
    match c.prev with
    | some (.cclr row n d) => if d then c.done w s else c.block s (.cclr row n false)
    | _ =>
      let core := (s.wg c.w.wg).core
      let row := c.valA w x % 2 ^ 32
      let n := c.valB w x % 2 ^ 32
      if n = 0 then c.done w s
      else if !(w.cwb ≤ row && row + n ≤ w.cwl) then c.trapAt s .cWindow (row * 256)
      else if (List.range n).any fun i => s.lockedC core (row + i) then c.trapAt s .rangeLocked (row * 256)
      else c.block s (.cclr row n false)

/-- CCLR_COMPLETE (R123): the rows are cleared and the warp goes on. -/
def execCclrComplete (r : WarpRef) (s : State) : Res :=
  match (s.warp? r).bind (·.wait) with
  | some (.cclr row n false) =>
    .next ((s.modCore (s.wg r.wg).core fun k => k.clearC row n).modWarp r fun w =>
      { w with wait := some (.cclr row n true) })
  | _ => .next s

/-! The baton (R124) -/

/-- BATON.TAKE. -/
def execBatonTake (f : Fields) (s : State) : Res :=
  uniform 0xB6 f s fun c w _ s =>
    if s.holdsBaton c.w then c.done w s
    else
      let core := (s.wg c.w.wg).core
      let seq := if c.prev = some .baton then w.batonSeq else (s.core core).sched.cycle
      let s1 := (s.modWarp c.w fun k => { k with wait := some .baton, waitAt := s.time, batonSeq := seq, slotLanes := c.lanes }).modWg c.w.wg Workgroup.grantBaton
      if s1.holdsBaton c.w then c.done w (s1.modWarp c.w fun k => { k with wait := none }) else .next s1

/-- BATON.PASS. -/
def execBatonPass (f : Fields) (s : State) : Res :=
  uniform 0xB6 f s fun c w x s =>
    let g := s.wg c.w.wg
    let t := asI 32 (c.valA w x)
    let absent := t ≠ -1 && (t < 0 || match g.warps[t.toNat]? with | some k => k.retired | none => true)
    if !s.holdsBaton c.w || absent then c.trapU s .batonNotHeld
    else if (s.openChain g.core c.w).isSome then c.trapU s .chainState
    else c.done w (s.modWg c.w.wg fun k =>
      { k with baton := { holder := none, reserved := if t = -1 then none else some t.toNat } }.grantBaton)

/-! Writing and scrubbing slots (R105-R108) -/

/-- The checks that WSTORE and WSCRUB share on a W address and a count. -/
def slotChecks (a n : Nat) : List (Bool × Cause × Nat) :=
  [(wMat a > 159, .wRange, a),
   (!(wCol a = 0 || wCol a = 0x500 || wCol a = 0xA00) || wRow a > 0xEFF || 3 * wRow a + wCol a / 1280 + n > 11520, .wSlotRange, 0)]

/-- WSTORE (R105). -/
def execWstore (f : Fields) (s : State) : Res :=
  uniform 0xB7 f s fun c w x s =>
    let src := c.valA w x
    let a := c.valB w x % 2 ^ 32
    let n := c.valC w x % 2 ^ 32
    match firstFault (slotChecks a n ++ [gBad .g src (136 * n)]) with
    | some (cause, addr) => c.trapAt s cause addr
    | none => startCmd c w s 5 (.wstore (BitVec.ofNat 64 src) (wMat a) (3 * wRow a + wCol a / 1280) n) (hIndex c.f.d)
        (if n = 0 then [] else [(.g, src, src + 136 * n, false), (.w, slotOfAddr a, slotOfAddr a + n, true)])

/-- WSCRUB (R105). -/
def wscrub (fix : Bool) (f : Fields) (s : State) : Res :=
  uniform 0xB8 f s fun c w x s =>
    let a := c.valA w x % 2 ^ 32
    let n := c.valB w x % 2 ^ 32
    let rep := c.valC w x % 2 ^ 32
    let size := (s.wg c.w.wg).aSize
    let checks : List (Bool × Cause × Nat) := slotChecks a n ++ [aBad size .a rep 32, alBad .a 32 rep]
    match firstFault checks with
    | some (cause, addr) => c.trapAt s cause addr
    | none => startCmd c w s 5 (.wscrub fix (wMat a) (3 * wRow a + wCol a / 1280) n rep 0 0 0 0 0xFFFFFFFF 0) (hIndex c.f.d)
        (if n = 0 then [] else [(.w, slotOfAddr a, slotOfAddr a + n, fix), (.a, rep, rep + 32, true)])

def execWscrubCheck (f : Fields) (s : State) : Res := wscrub false f s
def execWscrubFix (f : Fields) (s : State) : Res := wscrub true f s

/-- Bits that nothing states, from free words. -/
def State.freeBits (s : State) : Nat → BitVec 1280 × State
  | 0 => (0, s)
  | n + 1 =>
    let (w, s1) := s.freeWord
    let (v, s2) := s1.freeBits n
    ((v <<< 32) ||| w.zeroExtend 1280, s2)

/-- An engine command with a count of 0 completes one CLK tick after its issue. -/
def State.emptyDone (s : State) (id : Nat) (c : Cmd) : State :=
  if c.since < s.clock.clk then s.complete id (if c.cancel then stCANCELLED else stOK) 0 0 0 else s

/-- WSTORE_SLOT_WRITE (R106): the next slot is written and read back; `fails` is how many of its two verifications find a
mismatch that ECC cannot correct. -/
def execWstoreSlotWrite (id fails : Nat) (s : State) : Res :=
  match tfind s.cmds id with
  | none => .next s
  | some c =>
    match c.body with
    | .wstore src mat g0 n =>
      if c.status ≠ 0 then .next s
      else if n = 0 then .next (s.emptyDone id c)
      else if c.cancel then .next (s.complete id stCANCELLED 0 0 c.units.length)
      else if c.walk.isSome || !s.startable c then .next s
      else
        let i := c.units.length
        if s.slotHeld id c.core mat (g0 + i) (g0 + i + 1) true || s.earlierOnMats c.core id [mat] ||
            s.rangeHeld id id c [(.g, src.toNat + 136 * i, src.toNat + 136 * (i + 1), false), (.w, slotItem mat (g0 + i), slotItem mat (g0 + i) + 1, true)] then .next s
        else match s.cmdRead id c .g (src.toNat + 136 * i) 136 with
          | .wait s1 => .next s1
          | .fail s1 => .next (match c.prov with
            | some t => s1.complete id stPOISONED 0 t i
            | none => s1.complete id stFAULT Cause.copyAccess.code 0 i)
          | .got bs tag s1 =>
            let bad := fails ≥ 2
            let fresh := s1.newTag (s1.partOfClu (cluOf c.core)) 6
            let s2 := if bad then s1.coreRecord c.core 1 fresh (slotAddr mat (g0 + i)) else s1
            let tag' := lowerTag tag (if bad then some fresh else none)
            let s3 := s2.writeSlot c.core mat (g0 + i) (BitVec.ofNat 1088 (ofBytes bs)) tag'
            let s4 := if bad then
                let (v, s4) := s3.freeBits 40
                s4.modCore c.core fun k => { k with flips := tsetD 0 k.flips (slotItem mat (g0 + i)) v }
              else s3
            let s5 := s4.unitDone id i tag'
            if i + 1 < n then .next s5
            else match lowerTag c.prov tag' with
              | some t => .next (s5.complete id stPOISONED 0 t n)
              | none => .next (s5.complete id stOK 0 0 n)
    | _ => .next s

/-- The report of WSCRUB (R107). -/
def scrubReport (nread ncorr nrewr nunc firstUnc maxBits : Nat) : List Byte :=
  toBytes 4 nread ++ toBytes 4 ncorr ++ toBytes 4 nrewr ++ toBytes 4 nunc ++ toBytes 4 firstUnc ++ toBytes 12 maxBits

/-- WSCRUB_SLOT_READ (R107): the next slot is checked, and rewritten under .FIX where it was corrected; after the last slot
the report is written. -/
def execWscrubSlotRead (id : Nat) (s : State) : Res :=
  match tfind s.cmds id with
  | none => .next s
  | some c =>
    match c.body with
    | .wscrub fix mat g0 n rep nread ncorr nrewr nunc firstUnc maxBits =>
      if c.status ≠ 0 then .next s
      else if n = 0 then .next (s.emptyDone id c)
      else if c.cancel then .next (s.complete id stCANCELLED 0 0 nread)
      else if !s.startable c then .next s
      else if nread < n then
        let g := g0 + nread
        if s.slotHeld id c.core mat g (g + 1) fix || s.earlierOnMats c.core id [mat] ||
            s.rangeHeld id id c [(.w, slotItem mat g, slotItem mat g + 1, fix)] then .next s
        else
          let (v, b, tag, s1) := s.readSlot c.core mat g
          let fixed := fix && b > 0
          let s2 := if fixed then s1.writeSlot c.core mat g (v.truncate 1088) none else s1
          let body : CmdBody := .wscrub fix mat g0 n rep (nread + 1) (ncorr + if b > 0 then 1 else 0) (nrewr + if fixed then 1 else 0)
            (nunc + if tag.isSome then 1 else 0) (if tag.isSome && nunc = 0 then slotAddr mat g else firstUnc) (max maxBits b)
          .next ((s2.unitDone id nread tag).modCmd id fun k => { k with body := body })
      else if s.rangeHeld id id c [(.a, rep, rep + 32, true)] then .next s
      else
        let s1 := s.modA c.wg fun g => g.aPut rep (scrubReport nread ncorr nrewr nunc firstUnc maxBits)
        match c.prov with
        | some t => .next (s1.complete id stPOISONED 0 t nread)
        | none => .next (s1.complete id stOK 0 0 nread)
    | _ => .next s

end Sys2Proof.Machine
end

