-- ==== Sys2Proof/Machine/Gates.lean ====
section
/-!
DEFINITION. Gates.lean: the gate arrays, opcodes 0xC0-0xC6 (R132-R163): schedules and their steps, the attic map and its rotation,
write verification, reads between steps, and the line instructions.
-/
namespace Sys2Proof.Machine

/-! Issue (R142, R156-R162) -/

/-- The gate sequencer of a core has no place left in its queue of 16 (R143). -/
def State.gateFull (s : State) (core : Nat) : Bool :=
  16 ≤ (s.cmds.filter fun x => x.2.core = core && x.2.status = 0 &&
    match x.2.body with | .grun .. | .gwrite .. | .gration .. | .gsnap .. => true | _ => false).length

/-- Issue a gate command, once the sequencer's queue has room. -/
def gateIssue (c : Ctx) (w : Warp) (s : State) (body : CmdBody) (ranges : List Range) : Res :=
  if s.gateFull (s.wg c.w.wg).core then c.block s (.room 2 0) else startCmd c w s 7 body (hIndex c.f.d) ranges

/-- The mat checks of GRUN (R142): inside the core, and inside the workgroup's set. -/
def matChecks (g : Workgroup) (m0 k : Nat) : List (Bool × Cause × Nat) :=
  [(m0 + k > 160, .wRange, 0), (k = 0 || k > 8 || !(g.gmat0 ≤ m0 && m0 + k ≤ g.gmat0 + g.gmatN), .gateMat, 0)]

/-- The leave of gate mats in mW (R420). -/
def gateCharge (m0 k : Nat) : Nat := ((List.range k).map fun i => if (m0 + i) / 20 ≤ 4 then 40 else 50).sum

/-- A header breaks R136. -/
def headerBad (h : Nat) : Bool :=
  let row0 := bitsOf h 0 12; let rowN := bitsOf h 12 12; let col0 := bitsOf h 24 12; let colN := bitsOf h 36 12
  rowN = 0 || rowN > 3840 || colN = 0 || colN > 3840 || row0 + rowN > 0xF00 || col0 + colN > 0xF00 || bitsOf h 48 16 = 0

/-- The pending trap of an earlier run that a GRUN raises after its own checks (R142, R145). -/
def gateTrap (w : Warp) : Option Deferred := lowestDefer (w.defers.filter fun d => deferOp d.cause = 0xC0)

/-- GRUN (R142): the header is read once the warp's earlier accesses to A space have been performed (R146). -/
def execGrun (f : Fields) (s : State) : Res :=
  uniform 0xC0 f s fun c w x s =>
    let g := s.wg c.w.wg
    let m0 := c.valA w x % 2 ^ 32
    let k := c.valB w x % 2 ^ 32
    let a := c.valC w x % 2 ^ 32
    let h := (s.asp c.w.wg).aRead a 8
    let n := bitsOf h 48 16
    let checks : List (Bool × Cause × Nat) :=
      matChecks g m0 k ++ [alBad .a 8 a, aBad g.aSize .a a 8, aBad g.aSize .a a (8 + 8 * n), (headerBad h, .gateHeader, 0)]
    if !w.releasedA then c.block s .drain
    else match firstFault checks, gateTrap w with
    | some (cause, addr), _ => c.trapAt s cause addr
    | none, some d => c.trapDeferred s d
    | none, none =>
      let body : CmdBody := .grun m0 k a (bitsOf h 0 12) (bitsOf h 12 12) (bitsOf h 24 12) (bitsOf h 36 12) n 0 0
      let ranges := byteRange .a a (8 + 8 * n) false
      if s.gateFull g.core then c.block s (.room 2 0)
      else match issueHold s g.core c.w.wg ranges 1 with
        | some hold => c.block s hold
        | none => startCmd c w (s.askLeave g.core s.fresh (gateCharge m0 k) false) 7 body (hIndex c.f.d) ranges

/-- GSTOP (R157): a step under way may still end. -/
def execGstop (f : Fields) (s : State) : Res :=
  uniform 0xC1 f s fun c w x s =>
    match c.named w x s with
    | none => c.done w s
    | some (id, k) =>
      match k.body with
      | .grun .. =>
        if k.status ≠ 0 then c.done w s
        else
          let (p, s1) := s.pick 2
          let now := if k.granted && p = 1 then 2 else 1
          c.done w (s1.modCmd id fun k => { k with body := match k.body with
            | .grun m0 n h r0 rn c0 cn wc done st => .grun m0 n h r0 rn c0 cn wc done (if st = 0 then now else st)
            | b => b })
      | _ => c.trapU s .gateHandle

/-- GRATION (R158): no handle; it takes its place in the sequencer's order. -/
def execGration (f : Fields) (s : State) : Res :=
  uniform 0xC2 f s fun c w x s =>
    let g := s.wg c.w.wg
    let m0 := c.valA w x % 2 ^ 32
    let k := c.valB w x % 2 ^ 32
    match firstFault (matChecks g m0 k) with
    | some (cause, addr) => c.trapAt s cause addr
    | none =>
      if s.gateFull g.core then c.block s (.room 2 0)
      else match issueHold s g.core c.w.wg [] 0 with
        | some hold => c.block s hold
        | none =>
          let (id, s1) := s.newId
          let axes := if c.f.m = 0 then 1 else if c.f.m = 1 then 2 else 3
          c.done w { s1 with cmds := tput s1.cmds id (mkCmd s1 c.w 7 (.gration axes m0 k (BitVec.ofNat 32 (c.valC w x))) false []) }

/-- Bytes of `n` packed bits (R159). -/
def bitBytes (n : Nat) : Nat := 4 * ((n + 31) / 32)

/-- GREAD (R159): it takes its place among the reads of its mat where it issues (R151). -/
def execGread (f : Fields) (s : State) : Res :=
  uniform 0xC3 f s fun c w x s =>
    let g := s.wg c.w.wg
    let a := c.valA w x % 2 ^ 32
    let dst := c.valB w x % 2 ^ 32
    let n := c.valC w x % 2 ^ 32
    let fix := if c.f.m = 0 then wRow a else wCol a
    let lo := if c.f.m = 0 then wCol a else wRow a
    let checks : List (Bool × Cause × Nat) :=
      [(wMat a > 159, .wRange, a), (n > 4096 || (n > 0 && lo + n > (if fix < 0xF00 then 0xFC0 else 0xF00)), .gateLine, a),
       (wHole (wRow a) (wCol a), .atticIndex, a), aBad g.aSize .a dst (bitBytes n), alBad .a 4 dst]
    match firstFault checks with
    | some (cause, addr) => c.trapAt s cause addr
    | none =>
      let ranges := byteRange .a dst (bitBytes n) true
      match issueHold s g.core c.w.wg ranges 1 with
      | some hold => c.block s hold
      | none =>
        let read : GateRead := { mat := wMat a, w := none, cmd := s.fresh, lane := 0, addr := 0, dest := [] }
        startCmd c w (if n = 0 then s else s.modCore g.core fun k => { k with reads := k.reads ++ [read] }) 7
          (.gread c.f.m.toNat (wMat a) (wRow a) (wCol a) dst n) (hIndex c.f.d) ranges

/-- GWRITE (R160): a run of one step.  DESIGN CHOICE: it asks for no grant, since R420 does not name it among the work that
asks (notes/assumptions/74.md). -/
def execGwrite (f : Fields) (s : State) : Res :=
  uniform 0xC4 f s fun c w x s =>
    let g := s.wg c.w.wg
    let a := c.valA w x % 2 ^ 32
    let src := c.valB w x % 2 ^ 32
    let n := c.valC w x % 2 ^ 32
    let line := if c.f.m = 0 then wRow a else wCol a
    let lo := if c.f.m = 0 then wCol a else wRow a
    let checks : List (Bool × Cause × Nat) :=
      matChecks g (wMat a) 1 ++ [(line < 0xF00 || line > 0xFBF || n > 3840 || (n > 0 && lo + n > 0xF00), .gateLine, a),
        aBad g.aSize .a src (bitBytes n), alBad .a 4 src]
    match firstFault checks with
    | some (cause, addr) => c.trapAt s cause addr
    | none =>
      let ranges := byteRange .a src (bitBytes n) false
      gateIssue c w s (.gwrite (if c.f.m = 0 then 1 else 0) (wMat a) (line - 0xF00) lo src n) ranges

/-- GMAP and GWEAR (R161, R162). -/
def gsnap (op : Nat) (wear : Bool) (f : Fields) (s : State) : Res :=
  uniform op f s fun c w x s =>
    let g := s.wg c.w.wg
    let mat := c.valA w x % 2 ^ 32
    let dst := c.valB w x % 2 ^ 32
    let n := if wear then 4096 else 288
    match firstFault [(mat > 159, .wRange, 0), alBad .a 32 dst, aBad g.aSize .a dst n] with
    | some (cause, addr) => c.trapAt s cause addr
    | none => gateIssue c w s (.gsnap wear c.f.m.toNat mat dst) (byteRange .a dst n true)

def execGmap (f : Fields) (s : State) : Res := gsnap 0xC5 false f s
def execGwear (f : Fields) (s : State) : Res := gsnap 0xC6 true f s

/-! Writing an attic line (R148, R149, R154) -/

/-- RETIRE of R149. -/
def retireAt : Nat := 2 ^ 49

/-- The W address of a logical attic line. -/
def lineAddr (mat axis line : Nat) : Nat := mat * 2 ^ 24 + if axis = 0 then 0xF00 + line else (0xF00 + line) * 2 ^ 12

def Attic.worn (a : Attic) (p : Nat) : Bool := tgetD 0 a.wear p ≥ retireAt || tgetD false a.lasting p
def Attic.due (a : Attic) (p : Nat) : Bool := a.worn p || (a.ration ≠ 0 && tgetD 0 a.assign p ≥ a.ration.toNat)
/-- The line is at its retirement limit and no spare is left. -/
def Attic.spent (a : Attic) (line : Nat) : Bool := a.worn (a.line line) && a.free.isEmpty

/-- A write event on a physical line (R148). -/
def Attic.wrote (a : Attic) (p : Nat) (assign : Bool) : Attic :=
  { a with wear := tput a.wear p (tgetD 0 a.wear p + 1), assign := if assign then tput a.assign p (tgetD 0 a.assign p + 1) else a.assign }

/-- The map after a rotation of a line to the head of the free list (R149). -/
def Attic.remap (a : Attic) (line p q : Nat) : Attic :=
  { a with
    map := tput a.map line q
    free := a.free.drop 1 ++ if a.worn p then [] else [p]
    retired := if a.worn p then tput a.retired p true else a.retired
    assign := tput (tput a.assign q 0) p 0 }

/-- Cells of a physical line as they stand, an unspecified bit where retention has run out. -/
def State.lineCells (s : State) (core mat axis p : Nat) (xs : List Nat) : List (Nat × Bool) × State :=
  xs.foldl (fun acc x => let (b, s1) := acc.2.readAttic core mat axis p x; (acc.1 ++ [(x, b)], s1)) (([], s) : List (Nat × Bool) × State)

/-- The cells of a physical line are written and read back (R148, R154): `fails` is how many of the two verifications find a
mismatch.  The first costs a rewrite; after the second the logical line has a new provenance tag, and no one states its bits. -/
def State.verifiedWrite (s : State) (core mat axis line p : Nat) (cells : List (Nat × Bool)) (fails : Nat) (assign : Bool) : Option Nat × State :=
  let s1 := (s.writeAttic core mat axis p cells).modAttic core mat axis fun a => a.wrote p assign
  if fails = 0 then (none, s1)
  else
    let (s2, last) := s1.countCorr core (lineItem mat axis p)
    let s3 := s2.modAttic core mat axis fun a => { a.wrote p false with lasting := if last then tput a.lasting p true else a.lasting }
    if fails < 2 then (none, s3)
    else
      let fresh := s3.newTag (s3.partOfClu (cluOf core)) 7
      let (free, s4) := cells.foldl (fun acc x => let (w, s1) := acc.2.freeWord; (acc.1 ++ [(x.1, w.getLsbD 0)], s1))
        (([], s3.coreRecord core 1 fresh (lineAddr mat axis line)) : List (Nat × Bool) × State)
      (some fresh, s4.writeAttic core mat axis p free)

/-- The poison mark of a logical line. -/
def State.markLine (s : State) (core mat axis line : Nat) (tag : Option Nat) : State :=
  s.modAttic core mat axis fun a => { a with poison := match tag with | some t => tput a.poison line (t + 1) | none => terase a.poison line }

/-- Rotation before a write to [x0, x0 + n) of a logical line that is not spent (R149), and the tag that a failed carry-over
copy leaves on it. -/
def State.rotate (s : State) (core mat axis line x0 n fails : Nat) : Option Nat × State :=
  let a := s.attic core mat axis
  let p := a.line line
  if !a.due p then (none, s)
  else match a.free with
    | [] => (none, s.modAttic core mat axis fun a => { a with assign := tput a.assign p 0 })
    | q :: _ =>
      let outside := (List.range 3840).filter fun x => !(x0 ≤ x && x < x0 + n)
      let (tag, s1) := if outside.isEmpty then (none, s)
        else
          let (cells, s1) := s.lineCells core mat axis p outside
          s1.verifiedWrite core mat axis line q cells fails false
      let s2 := if tgetD false a.lasting p then s1.coreRecord core 4 (7 * 256) (lineAddr mat axis line) else s1
      let s3 := s2.modAttic core mat axis fun a => a.remap line p q
      (tag, if tag.isSome then s3.markLine core mat axis line tag else s3)

/-- The write proper of cells of a logical line, its verification and the poison mark of the line (R139, R154): `tag` is the
poison of its source.  The answer is the tag of a line found or left poisoned, and whether the verification failed for good. -/
def State.writeLine (s : State) (core mat axis line : Nat) (cells : List (Nat × Bool)) (fails : Nat) (tag : Option Nat) :
    Option Nat × Bool × State :=
  let a := s.attic core mat axis
  let old := if cells.length = 3840 then none else (tfind a.poison line).map (· - 1)
  let (fresh, s1) := s.verifiedWrite core mat axis line (a.line line) cells fails true
  let mark := if fresh.isSome then lowerTag tag fresh else lowerTag old tag
  (lowerTag old (lowerTag tag fresh), fresh.isSome, s1.markLine core mat axis line mark)

/-! Gate words (R137, R138, R140) -/

/-- How many inputs a gate type uses; none for a reserved type. -/
def gateInputs (op : Nat) : Option Nat :=
  match op with
  | 0 | 7 => some 1
  | 1 | 3 | 4 | 5 => some 2
  | 2 | 6 => some 3
  | 8 | 9 | 15 => some 0
  | _ => none

/-- The result of a gate (R138). -/
def gateFn (op : Nat) (a b c : Bool) : Bool :=
  match op with
  | 0 => !a
  | 1 => !(a || b)
  | 2 => !(a || b || c)
  | 3 => !(a && b)
  | 4 => a || b
  | 5 => a && b
  | 6 => (a && b) || (a && c) || (b && c)
  | 7 => a
  | 9 => true
  | _ => false

/-- The input indices of a word, in order. -/
def wordInputs (x : Nat) : List Nat := [bitsOf x 44 12, bitsOf x 32 12, bitsOf x 20 12]
def wordOp (x : Nat) : Nat := bitsOf x 59 4
def wordOut (x : Nat) : Nat := bitsOf x 8 12

/-- The fault of a gate word (R140). -/
def gateFault (x : Nat) : Option Cause :=
  match gateInputs (wordOp x) with
  | none => some .gateWord
  | some n =>
    if bitsOf x 56 3 ≠ 0 || bitsOf x 0 8 ≠ 0 || ((wordInputs x).drop n).any (· ≠ 0) || (wordOp x = 15 && x ≠ 15 * 2 ^ 59) then some .gateWord
    else if wordOp x = 15 then none
    else if wordOut x < 0xF00 || wordOut x > 0xFBF || (wordInputs x).any (· ≥ 0xFC0) then some .gateIndex
    else none

/-- The value of an input of a word at position `x` of its range, through the map of before the step (R139). -/
def State.gateInput (s : State) (core mat axis : Nat) (old : Attic) (idx x : Nat) : Bool × State :=
  if idx < 0xF00 then (if axis = 0 then s.bandBit core mat x idx else s.bandBit core mat idx x, s)
  else s.readAttic core mat axis (old.line (idx - 0xF00)) x

/-- One word on one mat (R139): rotation, inputs, then the write.  `old` is the attic before the step; `copyFails` and `fails` are
the failed verifications of its carry-over copy and of its write. -/
def State.gateMatStep (s : State) (core mat word x0 n copyFails fails : Nat) : Option Nat × Bool × State :=
  let axis := word / 2 ^ 63
  let old := s.attic core mat axis
  let line := wordOut word - 0xF00
  let used := (wordInputs word).take ((gateInputs (wordOp word)).getD 0)
  let (copied, s1) := s.rotate core mat axis line x0 n copyFails
  let (cells, s2) := (List.range n).foldl
    (fun (acc : List (Nat × Bool) × State) i =>
      let (vs, s3) := used.foldl (fun (a : List Bool × State) idx => let (b, s4) := a.2.gateInput core mat axis old idx (x0 + i); (a.1 ++ [b], s4))
        ([], acc.2)
      (acc.1 ++ [(x0 + i, gateFn (wordOp word) (vs.getD 0 false) (vs.getD 1 false) (vs.getD 2 false))], s3)) ([], s1)
  let (tag, bad, s3) := s2.writeLine core mat axis line cells fails none
  (lowerTag tag copied, bad || copied.isSome, s3)

/-! Reads between steps (R151) -/

/-- The segment of a GREAD: the logical cells it reads. -/
def segmentCells (axis row col n : Nat) : List (Nat × Nat) :=
  (List.range n).map fun j => if axis = 0 then (row, col + j) else (row + j, col)

/-- Bits packed into 32-bit words (R159). -/
def packBits (bs : List Bool) : List Byte := toBytes (bitBytes bs.length) (ofBits bs)

/-- The tag of the slot or attic line that holds a logical cell. -/
def State.cellTag (s : State) (core mat row col : Nat) : Option Nat :=
  (if row < 0xF00 && col < 0xF00 then tfind (s.core core).slotTag (slotItem mat (3 * row + col / 1280))
   else if row < 0xF00 then tfind (s.attic core mat 0).poison (col - 0xF00)
   else tfind (s.attic core mat 1).poison (row - 0xF00)).map (· - 1)

/-- A GREAD copies its segment and completes; a word with a poisoned cell in it is written as poisoned (R389;
notes/assumptions/74.md). -/
def State.serveGread (s : State) (id : Nat) (c : Cmd) : State :=
  match c.body with
  | .gread axis mat row col dst n =>
    let cells := segmentCells axis row col n
    let (bs, s1) := s.readCells c.core mat cells
    let tags := cells.zipIdx.filterMap fun x => (s.cellTag c.core mat x.1.1 x.1.2).map fun t => (x.2 / 32, t)
    let s2 := s1.modA c.wg fun g => tags.foldl (fun g x => g.aMark (dst + 4 * x.1) 4 x.2) (g.aPut dst (packBits bs))
    if c.cancel then s2.complete id stCANCELLED 0 0 n
    else match tags.foldl (fun acc x => lowerTag acc (some x.2)) none with
      | some t => s2.complete id stPOISONED 0 t n
      | none => s2.complete id stOK 0 0 n
  | _ => s

/-- The access of an LDW that waits in `reads` leaves its warp. -/
def Warp.ldwDone (w : Warp) (pend : Nat) (r : GateRead) : Warp :=
  { w with accs := w.accs.filter fun a => !(a.space = .w && a.pend = pend && a.lane = r.lane && a.dest = r.dest) }

/-- Serve an admitted read: a thread's LDW, a GREAD or a tile read.  Poison under an LDW leaves it unserved, and parks its warp
(R390). -/
def State.serveRead (s : State) (core : Nat) (r : GateRead) : State :=
  let drop (s : State) : State := s.modCore core fun k => { k with reads := k.reads.filter fun x => decide (x ≠ r) }
  match r.w with
  | some (w, pend) =>
    match s.wTag core r.addr with
    | some tag => (s.wChecked core r.addr).parkLate w r.addr tag
    | none =>
      let (v, s1) := s.wRead core r.addr
      (drop s1).modWarp w fun k => (k.ldwDone pend r).deliver pend r.dest v
  | none =>
    match tfind s.cmds r.cmd with
    | some c =>
      let s1 := drop s
      if c.status ≠ 0 then s1
      else match c.body with
        | .mma .. => if c.cancel then s1 else s1.mmaFetch r.cmd c
        | .gread .. => s1.serveGread r.cmd c
        | _ => s1
    | none => drop s

/-- The warp that issued a read. -/
def State.readWarp (s : State) (r : GateRead) : Option WarpRef :=
  match r.w with
  | some x => some x.1
  | none => (tfind s.cmds r.cmd).map fun c => c.warpRef c.wix

/-- A read may be admitted: the warp of an LDW is not parked on it, and nothing keeps a command waiting. -/
def State.readAble (s : State) (core : Nat) (r : GateRead) : Bool :=
  match r.w with
  | some x => !(s.isParked x.1 && (s.wTag core r.addr).isSome)
  | none => match tfind s.cmds r.cmd with
    | some c => s.startable c && match c.body with | .gread _ _ _ _ dst n => !s.rangeHeld r.cmd r.cmd c (byteRange .a dst (bitBytes n) true) | _ => true
    | none => true

/-- The reads that may be admitted among `rs`, in order of arrival: none of a warp with an earlier read that has to wait (R152). -/
def State.admitted (s : State) (core : Nat) (rs : List GateRead) : List GateRead :=
  (rs.foldl (fun (acc : List GateRead × List (Option WarpRef)) r =>
    if acc.2.contains (s.readWarp r) then acc
    else if s.readAble core r then (acc.1 ++ [r], acc.2)
    else (acc.1, s.readWarp r :: acc.2)) ([], [])).1

/-- The reads of mats that wait, oldest first, at most `n`, are served (R151). -/
def State.readsTurn (s : State) (core : Nat) (mats : List Nat) (n : Nat) : State :=
  ((s.admitted core ((s.core core).reads.filter fun r => mats.contains r.mat)).take n).foldl (fun s r => s.serveRead core r) s

/-- Every read of mats that no run holds any longer is served. -/
def State.readsFree (s : State) (core : Nat) (mats : List Nat) : State :=
  s.readsTurn core (mats.filter fun m => !s.runOn core m) (s.core core).reads.length

/-- A gate command completes; one of a cancelled level has had its effect and reports CANCELLED (R155). -/
def State.gateDone (s : State) (id : Nat) (c : Cmd) (stat cause prov count : Nat) : State :=
  if c.cancel then s.complete id stCANCELLED 0 0 count else s.complete id stat cause prov count

/-- A run ends: the last boundary's reads, its handle, and every read that no run holds any longer. -/
def State.endRun (s : State) (id : Nat) (c : Cmd) (stat cause prov count : Nat) : State :=
  let mats := c.body.mats
  ((s.readsTurn c.core mats 8).gateDone id c stat cause prov count).readsFree c.core mats

/-- A gate command stops with FAULT: its warp has a deferred trap, unless its level is cancelled (R145, R155). -/
def State.gateFail (s : State) (id : Nat) (c : Cmd) (cause : Cause) (count : Nat) : State :=
  if c.cancel then s else s.defer (c.warpRef c.wix) cause id (statusWord stFAULT cause.code 0 7 count) none

/-- The lowest tag of the poisoned attic lines that a word reads on the mats. -/
def State.inputTag (s : State) (core : Nat) (mats : List Nat) (word : Nat) : Option Nat :=
  let axis := word / 2 ^ 63
  let used := ((wordInputs word).take ((gateInputs (wordOp word)).getD 0)).filter (· ≥ 0xF00)
  (mats.flatMap fun m => used.map fun i => (tfind (s.attic core m axis).poison (i - 0xF00)).map (· - 1)).foldl lowerTag none

/-- One step of a run whose turn it is: the word that stands next (R139, R140, R143).  `fails` gives the failed verifications of
the write on a mat, and at 256 + mat those of its carry-over copy. -/
def State.gateWordStep (s : State) (id : Nat) (c : Cmd) (fails : List (Nat × Nat)) (m0 k hdr row0 rowN col0 colN wcount done stop : Nat) : State :=
  let core := c.core
  let mats := (List.range k).map (· + m0)
  let s0 := if done = 0 then s.readsTurn core mats 8 else s
  let finish (s : State) : State := match c.prov with
    | some t => s.endRun id c stPOISONED 0 t done
    | none => s.endRun id c stOK 0 0 done
  if done = wcount then finish s0
  else if s.rangeHeld id id c (byteRange .a (hdr + 8 + 8 * done) 8 false) then s
  else
    let word := (s0.asp c.wg).aRead (hdr + 8 + 8 * done) 8
    let axis := word / 2 ^ 63
    match gateFault word with
    | some cause =>
      match c.prov with
      | some t => s0.endRun id c stPOISONED 0 t done
      | none => (s0.gateFail id c cause done).endRun id c stFAULT cause.code 0 done
    | none =>
      if wordOp word = 15 then finish s0
      else
        let line := wordOut word - 0xF00
        let spent := mats.filter fun m => (s0.attic core m axis).spent line
        if !spent.isEmpty then
          let s1 := (spent.filter fun m => tgetD false (s0.attic core m axis).lasting ((s0.attic core m axis).line line)).foldl
            (fun s m => s.coreRecord core 5 (7 * 256) (lineAddr m axis line)) s0
          match c.prov with
          | some t => s1.endRun id c stPOISONED 0 t done
          | none => (s1.gateFail id c .atticSpent done).endRun id c stFAULT Cause.atticSpent.code 0 done
        else match s0.inputTag core mats word with
          | some t => s0.endRun id c stPOISONED 0 ((lowerTag c.prov (some t)).getD t) done
          | none =>
            let x0 := if axis = 0 then row0 else col0
            let n := if axis = 0 then rowN else colN
            let (tag, bad, s1) := mats.foldl
              (fun (acc : Option Nat × Bool × State) m =>
                let (t, b, s2) := acc.2.2.gateMatStep core m word x0 n (tgetD 0 fails (256 + m)) (tgetD 0 fails m)
                (lowerTag acc.1 t, acc.2.1 || b, s2)) (none, false, s0)
            let prov := lowerTag c.prov tag
            let s2 := s1.modCmd id fun c => { c with prov := prov, body := .grun m0 k hdr row0 rowN col0 colN wcount (done + 1) (if stop = 2 then 1 else stop) }
            match tfind s2.cmds id with
            | none => s2
            | some c2 => if bad then s2.endRun id c2 stPOISONED 0 (prov.getD 0) (done + 1) else s2.readsTurn core mats 8

/-- A GWRITE, as a run of one step (R160). -/
def State.gwriteStep (s : State) (id : Nat) (c : Cmd) (axis mat line x0 src n copyFails fails : Nat) : State :=
  let a := s.attic c.core mat axis
  if a.spent line then
    let s1 := if tgetD false a.lasting (a.line line) then s.coreRecord c.core 5 (7 * 256) (lineAddr mat axis line) else s
    (s1.gateFail id c .atticSpent 0).gateDone id c stFAULT Cause.atticSpent.code 0 0
  else
    let g := s.asp c.wg
    let bytes := g.aRead src (bitBytes n)
    let cells := (List.range n).map fun j => (x0 + j, decide (bitsOf bytes j 1 = 1))
    let (copied, s1) := s.rotate c.core mat axis line x0 n copyFails
    let (tag, _, s2) := s1.writeLine c.core mat axis line cells fails (g.aTag src (bitBytes n))
    match lowerTag tag copied with
    | some t => s2.gateDone id c stPOISONED 0 t n
    | none => s2.gateDone id c stOK 0 0 n

/-- GATE_STEP (R139-R160): the next step of a run, or a GWRITE or a GRATION whose turn it is. -/
def execGateStep (id : Nat) (fails : List (Nat × Nat)) (s : State) : Res :=
  match tfind s.cmds id with
  | none => .next s
  | some c =>
    if c.status ≠ 0 || !s.startable c then .next s
    else match c.body with
      | .grun m0 k hdr row0 rowN col0 colN wcount done stop =>
        if stop = 1 then .next (match c.prov with
          | some t => s.endRun id c stPOISONED 0 t done
          | none => s.endRun id c stSTOPPED 0 0 done)
        else if !c.granted || s.earlierOnMats c.core id ((List.range k).map (· + m0)) then .next s
        else .next (s.gateWordStep id c fails m0 k hdr row0 rowN col0 colN wcount done stop)
      | .gwrite axis mat line x0 src n =>
        if n = 0 then .next (s.emptyDone id c)
        else if s.earlierOnMats c.core id [mat] || s.rangeHeld id id c (byteRange .a src (bitBytes n) false) then .next s
        else .next (s.gwriteStep id c axis mat line x0 src n (tgetD 0 fails (256 + mat)) (tgetD 0 fails mat))
      | .gration axes m0 k ration =>
        if s.earlierOnMats c.core id ((List.range k).map (· + m0)) then .next s
        else
          let set (s : State) (m axis : Nat) : State := s.modAttic c.core m axis fun a => { a with ration := ration }
          let s1 := ((List.range k).map (· + m0)).foldl
            (fun s m => let s1 := if axes % 2 = 1 then set s m 0 else s; if axes ≥ 2 then set s1 m 1 else s1) s
          .next (s1.gateDone id c stOK 0 0 0)
      | _ => .next s

/-- GATE_READ_SERVE (R151, R159): a GREAD of a mat without an active run is served; under a run it waits for a boundary. -/
def execGateReadServe (id : Nat) (s : State) : Res :=
  match tfind s.cmds id with
  | none => .next s
  | some c =>
    match c.body with
    | .gread _ mat _ _ dst n =>
      if c.status ≠ 0 || !s.startable c then .next s
      else if n = 0 then .next (s.emptyDone id c)
      else if s.rangeHeld id id c (byteRange .a dst (bitBytes n) true) || s.runOn c.core mat then .next s
      else
        let s1 := s.modCore c.core fun k => { k with reads := k.reads.filter fun r => r.w.isSome || r.cmd ≠ id }
        .next ((s1.serveGread id c).readsFree c.core [mat])
    | _ => .next s

/-! Snapshots (R161, R162) -/

/-- The 288 bytes of GMAP. -/
def mapRecord (a : Attic) : List Byte :=
  let retired := (a.retired.filter (·.2)).length
  (List.range 192).map (fun l => BitVec.ofNat 8 (a.line l)) ++
  (List.range 64).map (fun i => BitVec.ofNat 8 (a.free.getD i 0)) ++
  toBytes 1 a.free.length ++ toBytes 1 retired ++ toBytes 2 0 ++ toBytes 4 a.ration.toNat ++ toBytes 24 0

/-- The 4,096 bytes of GWEAR. -/
def wearRecord (a : Attic) (corr : Nat → Nat) : List Byte :=
  (List.range 256).flatMap fun p =>
    let held := a.logical p
    let inUse := held.isSome && !a.free.contains p && !tgetD false a.retired p
    let poisoned := match held with | some l => inUse && (tfind a.poison l).isSome | none => false
    toBytes 16 (tgetD 0 a.wear p % 2 ^ 50 + (if tgetD false a.retired p then 2 ^ 56 else 0) + (if a.free.contains p then 2 ^ 57 else 0) +
      (if poisoned then 2 ^ 58 else 0) + tgetD 0 a.assign p % 2 ^ 32 * 2 ^ 64 +
      (match held with | some l => if inUse then l else 0xFF | none => 0xFF) * 2 ^ 96 + corr p * 2 ^ 104)

/-- GATE_SNAPSHOT (R161, R162). -/
def execGateSnapshot (id : Nat) (s : State) : Res :=
  match tfind s.cmds id with
  | none => .next s
  | some c =>
    match c.body with
    | .gsnap wear axis mat dst =>
      let n := if wear then 4096 else 288
      if c.status ≠ 0 || !s.startable c then .next s
      else if s.earlierOnMats c.core id [mat] || s.rangeHeld id id c (byteRange .a dst n true) then .next s
      else
        let a := s.attic c.core mat axis
        let corr (p : Nat) : Nat := (tgetD { count := 0, since := 0 } (s.core c.core).corr (lineItem mat axis p)).count
        .next ((s.modA c.wg fun g => g.aPut dst (if wear then wearRecord a corr else mapRecord a)).gateDone id c stOK 0 0 n)
    | _ => .next s

/-- ATTIC_RETENTION_EXPIRY (R153): a cell last written at least 1 s ago no longer keeps its value. -/
def execAtticRetentionExpiry (core key : Nat) (s : State) : Res :=
  let c := (s.core core).cell key
  if c.lost || (s.clock.clk : Int) < c.time + atticKeeps then .next s
  else .next (s.modCore core fun k => { k with attic := tput k.attic key { c with lost := true } })

end Sys2Proof.Machine
end

