-- ==== Sys2Proof/Machine/Trees.lean ====
section
/-!
DEFINITION. Trees.lean: the sum-tree engine, opcodes 0xC8-0xCD (R262-R278): issue, acceptance as one event, and completion.
-/
namespace Sys2Proof.Machine

/-! Issue (R266, R267) -/

/-- Issue a tree command. -/
def treeIssue (c : Ctx) (w : Warp) (s : State) (id : Nat) (op : TreeOp) (checks : List (Bool × Cause × Nat)) (ranges : List Range) : Res :=
  match firstFault ((decide (id > 63), .treeId, 0) :: checks) with
  | some (cause, addr) => c.trapAt s cause addr
  | none => startCmd c w s 8 (.tree id op [] 0 0) (hIndex c.f.d) ranges

/-- The address checks of a record of `n` bytes (R267). -/
def treeArea (size addr n : Nat) : List (Bool × Cause × Nat) := [alBad .a 32 addr, aBad size .a addr n]

/-- A config record breaks R271. -/
def treeConfigBad (x : Nat) : Bool :=
  bitsOf x 0 64 % 4096 ≠ 0 || bitsOf x 64 5 = 0 || bitsOf x 64 5 > 26 || bitsOf x 69 3 ≠ 0 || bitsOf x 73 23 ≠ 0 || x / 2 ^ 160 ≠ 0

/-- TREECFG.ON (R271): the record is read at issue, which releases the stores that wrote it (R270). -/
def execTreecfgOn (f : Fields) (s : State) : Res :=
  uniform 0xC8 f s fun c w x s =>
    let g := s.wg c.w.wg
    let a := c.valB w x % 2 ^ 32
    let r := (s.asp c.w.wg).aRead a 64
    if !w.releasedA then c.block s .drain
    else match treeIssue c w s (c.valA w x % 2 ^ 32)
        (.on (bitsOf r 0 64) (bitsOf r 64 5) (bitsOf r 72 1 = 1) (BitVec.ofNat 32 (bitsOf r 96 32)) (BitVec.ofNat 32 (bitsOf r 128 32)))
        (treeArea g.aSize a 64 ++ [gBad .g (bitsOf r 0 64) 0, (treeConfigBad r, Cause.treeConfig, 0)])
        (byteRange .a a 64 false) with
    | .next s1 => .next (if (tfind s.cmds s.fresh).isNone then s1.modCmd s.fresh fun k => { k with prov := (s.asp c.w.wg).aTag a 64 } else s1)
    | r => r

/-- TREECFG.OFF (R271). -/
def execTreecfgOff (f : Fields) (s : State) : Res :=
  uniform 0xC8 f s fun c w x s => treeIssue c w s (c.valA w x % 2 ^ 32) .off [] []

/-- TREECFG.BETA (R271). -/
def execTreecfgBeta (f : Fields) (s : State) : Res :=
  uniform 0xC8 f s fun c w x s => treeIssue c w s (c.valA w x % 2 ^ 32) (.beta (BitVec.ofNat 32 (c.valB w x))) [] []

/-- TREESET.SET (R272). -/
def execTreesetSet (f : Fields) (s : State) : Res :=
  uniform 0xC9 f s fun c w x s =>
    treeIssue c w s (c.valA w x % 2 ^ 32) (.set (c.valB w x % 2 ^ 32) (BitVec.ofNat 32 (c.valC w x))) [] []

/-- TREESET.INVAL (R272). -/
def execTreesetInval (f : Fields) (s : State) : Res :=
  uniform 0xC9 f s fun c w x s => treeIssue c w s (c.valA w x % 2 ^ 32) (.inval (c.valB w x % 2 ^ 32)) [] []

/-- TREEUPD (R273). -/
def execTreeupd (f : Fields) (s : State) : Res :=
  uniform 0xCA f s fun c w x s =>
    let a := c.valB w x % 2 ^ 32
    let n := c.valC w x % 2 ^ 32
    treeIssue c w s (c.valA w x % 2 ^ 32) (.upd a n) ((n = 0 || n > 4096, .treeCount, 0) :: treeArea (s.wg c.w.wg).aSize a (32 * n))
      (byteRange .a a (32 * n) false)

/-- TREEDRAW (R274). -/
def execTreedraw (f : Fields) (s : State) : Res :=
  uniform 0xCB f s fun c w x s =>
    let a := c.valB w x % 2 ^ 32
    let n := c.valC w x % 2 ^ 32
    treeIssue c w s (c.valA w x % 2 ^ 32) (.draw a (BitVec.ofNat 32 (c.valB w x / 2 ^ 32)) n)
      ((n = 0 || n > 1024, .treeCount, 0) :: treeArea (s.wg c.w.wg).aSize a (32 * n)) (byteRange .a a (32 * n) true)

/-- TREESUM.ROOT (R278). -/
def execTreesumRoot (f : Fields) (s : State) : Res :=
  uniform 0xCC f s fun c w x s =>
    let a := c.valB w x % 2 ^ 32
    treeIssue c w s (c.valA w x % 2 ^ 32) (.sumRoot a) (treeArea (s.wg c.w.wg).aSize a 32) (byteRange .a a 32 true)

/-- TREESUM.LEAF (R278). -/
def execTreesumLeaf (f : Fields) (s : State) : Res :=
  uniform 0xCC f s fun c w x s =>
    let a := c.valB w x % 2 ^ 32
    treeIssue c w s (c.valA w x % 2 ^ 32) (.sumLeaf a (c.valC w x % 2 ^ 32)) (treeArea (s.wg c.w.wg).aSize a 32) (byteRange .a a 32 true)

/-- TREECLR (R271). -/
def execTreeclr (f : Fields) (s : State) : Res :=
  uniform 0xCD f s fun c w x s => treeIssue c w s (c.valA w x % 2 ^ 32) .clr [] []

/-! The records of a tree (R262, R263) -/

def leafPrio (d : DWord) : Nat := bitsOf d.toNat 0 32
def leafGen (d : DWord) : Nat := bitsOf d.toNat 32 16
def leafValid (d : DWord) : Bool := d.getLsbD 48
def mkLeaf (prio gen : Nat) (valid : Bool) : DWord := BitVec.ofNat 64 (prio % 2 ^ 32 + gen % 2 ^ 16 * 2 ^ 32 + if valid then 2 ^ 48 else 0)
/-- Contribution and MIN of a leaf (R263). -/
def leafSum (d : DWord) : Nat := if leafValid d then leafPrio d else 0
def leafMin (d : DWord) : Nat := if leafValid d && leafPrio d > 0 then leafPrio d else 0xFFFFFFFF

def Tree.leaf (t : Tree) (i : Nat) : DWord := tgetD 0 t.leaves i
def Tree.setLeaf (t : Tree) (i : Nat) (d : DWord) : Tree := { t with leaves := tsetD 0 t.leaves i d }

/-- The leaves below node `j`: the first and how many. -/
def Tree.span (t : Tree) (j : Nat) : Nat × Nat :=
  let d := j.log2
  let n := 2 ^ (t.logn - d)
  ((j - 2 ^ d) * n, n)
def Tree.under (t : Tree) (j : Nat) : List DWord :=
  let (lo, n) := t.span j
  (t.leaves.filter fun x => lo ≤ x.1 && x.1 < lo + n).map (·.2)
/-- SUM and MIN of a node, a leaf included (R263). -/
def Tree.sum (t : Tree) (j : Nat) : Nat := ((t.under j).map leafSum).sum
def Tree.min (t : Tree) (j : Nat) : Nat := ((t.under j).map leafMin).foldl Nat.min 0xFFFFFFFF

/-- The bytes of node `j` and of the header. -/
def Tree.nodeBytes (t : Tree) (j : Nat) : List Byte :=
  if j < 2 ^ t.logn then toBytes 8 (t.sum j) ++ toBytes 4 (t.min j) ++ toBytes 4 0 else toBytes 8 (t.leaf (j - 2 ^ t.logn)).toNat
def Tree.headerBytes (t : Tree) : List Byte := toBytes 4 t.serial.toNat ++ toBytes 4 t.stale.toNat ++ toBytes 4 t.nvalid ++ toBytes 4 0
/-- Where a node lies. -/
def Tree.nodeAt (t : Tree) (j : Nat) : Nat × Nat :=
  if j < 2 ^ t.logn then (t.base + 16 * j, 16) else (t.base + 16 * 2 ^ t.logn + 8 * (j - 2 ^ t.logn), 8)
/-- The whole image. -/
def Tree.image (t : Tree) : List Byte := t.headerBytes ++ (List.range (2 * 2 ^ t.logn - 1)).flatMap fun j => t.nodeBytes (j + 1)

/-- A leaf's node and its ancestors. -/
def pathUp : Nat → Nat → List Nat
  | 0, _ => []
  | fuel + 1, j => j :: if j ≤ 1 then [] else pathUp fuel (j / 2)
def Tree.path (t : Tree) (i : Nat) : List Nat := pathUp 28 (2 ^ t.logn + i)
/-- The path and the siblings that a repair reads. -/
def Tree.family (t : Tree) (i : Nat) : List Nat := (t.path i).flatMap fun j => if j ≤ 1 then [j] else [j, if j % 2 = 0 then j + 1 else j - 1]

/-! Drawing (R274-R277) -/

/-- The counter hash (R275). -/
def treeHash (seed serial : Word) (k : Nat) : Word :=
  let round (x : DWord) : DWord :=
    let x1 := (x ^^^ (x >>> 30)) * 0x8F6E2B91C45A7D3F
    let x2 := (x1 ^^^ (x1 >>> 27)) * 0xB27C94E15D0A36C5
    x2 ^^^ (x2 >>> 31)
  let x0 := pairOf serial seed + BitVec.ofNat 64 k * 0xD3A15C07E9B42F6B
  hiWord (round (round x0))

/-- The importance weight (R276). -/
def treeWeight (beta : Word) (pmin p : Nat) : Nat :=
  let lg (x : Nat) : Nat := (log2Val 0 (roundVal fmtF32 0 (ofInt x)).1).v
  (exp2Val 0 (fmtMul fmtF32 0 beta.toNat (fmtSub fmtF32 0 (lg pmin) (lg p)).1).1).v

/-- The descent for a target: the leaf and the nodes read (R274). -/
def Tree.descend (t : Tree) : Nat → Nat → Nat → List Nat → Nat × List Nat
  | 0, j, _, seen => (j - 2 ^ t.logn, j :: seen)
  | fuel + 1, j, x, seen =>
    if j ≥ 2 ^ t.logn then (j - 2 ^ t.logn, j :: seen)
    else
      let l := t.sum (2 * j)
      if x < l then t.descend fuel (2 * j) x (2 * j :: seen) else t.descend fuel (2 * j + 1) (x - l) (2 * j :: seen)

/-- A result record (R277). -/
def drawRecord (index gen prio weight target serial k : Nat) : List Byte :=
  toBytes 4 index ++ toBytes 4 gen ++ toBytes 4 prio ++ toBytes 4 weight ++ toBytes 8 target ++ toBytes 4 serial ++ toBytes 4 k

/-- Target of sample `k` of `n`. -/
def drawTarget (seed serial : Word) (sum n k : Nat) : Nat := (k * 2 ^ 32 + (treeHash seed serial k).toNat) * sum / (n * 2 ^ 32)

/-- The records of a draw and the nodes it reads. -/
def Tree.draw (t : Tree) (seed : Word) (n : Nat) : List Byte × List Nat :=
  let sum := t.sum 1
  let rs := (List.range n).map fun k =>
    let x := drawTarget seed t.serial sum n k
    let (i, seen) := t.descend 26 1 x []
    let d := t.leaf i
    (drawRecord i (leafGen d) (leafPrio d) (treeWeight t.beta (t.min 1) (leafPrio d)) x t.serial.toNat k, seen)
  (rs.flatMap (·.1), 1 :: rs.flatMap (·.2))

/-! What a command does at its acceptance (R268-R274) -/

/-- An element of an update list: INDEX, GEN, PRIO (R273). -/
def updElems (bs : List Byte) (n : Nat) : List (Nat × Nat × Nat) :=
  (List.range n).map fun e =>
    let r := bs.drop (32 * e)
    (ofBytes (r.take 4), ofBytes ((r.drop 4).take 2), ofBytes ((r.drop 8).take 4))

/-- The effect of a command: the tree after it, what it delivers, its status and COUNT, the nodes it reads and those it
changes; the header is read and changed wherever a node is. -/
structure TreeEffect where
  tree  : Tree
  out   : List Byte := []
  stat  : Nat := 1
  count : Nat := 0
  reads : List Nat := []
  writes : List Nat := []
  header : Bool := true

def Tree.update (t : Tree) (es : List (Nat × Nat × Nat)) : TreeEffect :=
  let (t1, applied, disc, touched) := es.foldl
    (fun (acc : Tree × Nat × Nat × List Nat) e =>
      let d := acc.1.leaf e.1
      if leafValid d && leafGen d = e.2.1 then (acc.1.setLeaf e.1 (mkLeaf e.2.2 (leafGen d) true), acc.2.1 + 1, acc.2.2.1, e.1 :: acc.2.2.2)
      else (acc.1, acc.2.1, acc.2.2.1 + 1, acc.2.2.2)) (t, 0, 0, [])
  { tree := { t1 with stale := t.stale + BitVec.ofNat 32 disc }, count := applied + disc * 2 ^ 16
    reads := es.map (fun e => 2 ^ t.logn + e.1) ++ touched.flatMap t.family, writes := touched.flatMap t.path }

def Tree.setEffect (t : Tree) (i : Nat) (prio : Word) (valid : Bool) : TreeEffect :=
  let d := t.leaf i
  let gen := (leafGen d + 1) % 2 ^ 16
  let nv := t.nvalid - (if leafValid d then 1 else 0) + (if valid then 1 else 0)
  { tree := { t.setLeaf i (mkLeaf prio.toNat gen valid) with nvalid := nv }, count := gen, reads := t.family i, writes := t.path i }

def Tree.effect (t : Tree) (op : TreeOp) (list : List Byte) : TreeEffect :=
  match op with
  | .beta bits => { tree := { t with beta := bits }, header := false }
  | .set i prio => t.setEffect i prio true
  | .inval i => t.setEffect i 0 false
  | .upd _ n => t.update (updElems list n)
  | .draw _ seed n =>
    let t1 := { t with serial := t.serial + 1 }
    if t.sum 1 = 0 then { tree := t1, stat := 10, count := t.serial.toNat, reads := [1] }
    else let (out, seen) := t.draw seed n; { tree := t1, out, count := t.serial.toNat, reads := seen }
  | .sumRoot _ =>
    { tree := t, reads := [1]
      out := toBytes 8 (t.sum 1) ++ toBytes 4 (t.min 1) ++ toBytes 4 t.nvalid ++ toBytes 4 t.serial.toNat ++ toBytes 4 t.stale.toNat ++
        toBytes 4 t.beta.toNat ++ toBytes 4 t.logn }
  | .sumLeaf _ i => { tree := t, out := toBytes 32 (t.leaf i).toNat, reads := [2 ^ t.logn + i], header := false }
  | .clr =>
    { tree := { t with
        leaves := (List.range (2 ^ t.logn)).filterMap fun i =>
          let d := mkLeaf 0 (leafGen (t.leaf i) + 1) false
          if d = 0 then none else some (i, d)
        nvalid := 0, tainted := false, poison := none }
      count := ((t.leaves.filter fun x => leafValid x.2)).length }
  | _ => { tree := t, header := false }

/-- Leaves that a command names (R268). -/
def TreeOp.leavesNamed (op : TreeOp) (list : List Byte) : List Nat :=
  match op with
  | .set i _ | .inval i | .sumLeaf _ i => [i]
  | .upd _ n => (updElems list n).map (·.1)
  | _ => []

/-- The A range of a command, and whether it writes it. -/
def TreeOp.area : TreeOp → Option (Nat × Nat × Bool)
  | .upd a n => some (a, 32 * n, false)
  | .draw a _ n => some (a, 32 * n, true)
  | .sumRoot a | .sumLeaf a _ => some (a, 32, true)
  | _ => none

/-- A range of G space as the tables of a partition give it; `fuel` bounds the pages. -/
def State.walkSegs (s : State) (part : Nat) (tr : List (Nat × TrOutcome)) (write : Bool) : Nat → Nat → Nat → Seg
  | 0, _, _ => .ok []
  | fuel + 1, va, n =>
    if n = 0 then .ok []
    else if va ≥ 2 ^ 57 || tr.any (fun x => x.1 = pageOf va) then .fault
    else match s.walk part va with
      | .page bits e =>
        let t := transOf bits e va
        if (write && !pteWr e) || (!write && !pteRd e) || s.portDown t.pa then .fault
        else
          let m := min n (65536 - va % 65536)
          match s.walkSegs part tr write fuel (va + m) (n - m) with
          | .ok l => .ok ((t.pa, m, pteSlot e) :: l)
          | other => other
      | .fault => .miss va
      | .bad => .fault

def State.treeSegs (s : State) (c : Cmd) (write : Bool) (l : List (Nat × Nat)) : Seg :=
  l.foldl (fun acc x => match acc with
    | .ok a => match s.walkSegs c.part c.tr write (x.2 / 65536 + 2) x.1 x.2 with
      | .ok b => .ok (a ++ b)
      | other => other
    | other => other) (.ok [])

/-- A command outside the cores waits for a page walk of a die. -/
def State.outerMiss (s : State) (id : Nat) (die part va : Nat) : State :=
  let (k, s1) := s.joinWalk die part va 3 0x1FF (.cmd id)
  s1.modCmd id fun c => { c with walk := some k }

/-- Bytes that nothing states. -/
def State.freeBytes (s : State) : Nat → List Byte × State
  | 0 => ([], s)
  | n + 1 =>
    let (w, s1) := s.freeWord
    let (bs, s2) := s1.freeBytes n
    (w.truncate 8 :: bs, s2)

/-- What a command on an inconsistent tree returns: leaves below 2^k, and values, SERIAL and COUNT among them, that nothing states
(R265). -/
def TreeEffect.unstated (e : TreeEffect) (op : TreeOp) (s : State) : TreeEffect × State :=
  let t := e.tree
  match op with
  | .set .. | .inval _ => let (w, s1) := s.freeWord; ({ e with count := w.toNat % 2 ^ 16 }, s1)
  | .upd _ n => let (a, s1) := s.pick (n + 1); ({ e with count := a + (n - a) * 2 ^ 16 }, s1)
  | .draw _ _ n =>
    let (p, s0) := s.pick 2
    let (serial, s1) := s0.freeWord
    let e1 := { e with count := serial.toNat, tree := { t with serial := serial + 1 } }
    if p = 0 then ({ e1 with stat := 10, out := [] }, s1)
    else
      let (out, s2) := (List.range n).foldl
        (fun (acc : List Byte × State) _ =>
          let (w, s1) := acc.2.freeWord
          let (bs, s2) := s1.freeBytes 26
          (acc.1 ++ toBytes 4 (w.toNat % 2 ^ t.logn) ++ bs.take 2 ++ toBytes 2 0 ++ bs.drop 2, s2)) ([], s1)
      ({ e1 with stat := 1, out := out }, s2)
  | .sumRoot _ => let (bs, s1) := s.freeBytes 24; ({ e with out := bs ++ toBytes 4 t.beta.toNat ++ toBytes 4 t.logn }, s1)
  | .sumLeaf .. => let (bs, s1) := s.freeBytes 8; ({ e with out := bs ++ toBytes 24 0 }, s1)
  | .clr => let (k, s1) := s.pick (2 ^ t.logn + 1); ({ e with count := k }, s1)
  | _ => (e, s)

/-- The tree that an image in memory gives, and whether the image breaks R263. -/
def adoptTree (part base logn : Nat) (beta : Word) (img : List Byte) : Tree :=
  let leafAt (i : Nat) : DWord := BitVec.ofNat 64 (ofBytes ((img.drop (16 * 2 ^ logn + 8 * i)).take 8))
  let t : Tree :=
    { part, base, logn, beta
      leaves := (List.range (2 ^ logn)).filterMap fun i => if leafAt i = 0 then none else some (i, leafAt i)
      serial := BitVec.ofNat 32 (ofBytes (img.take 4)), stale := BitVec.ofNat 32 (ofBytes ((img.drop 4).take 4))
      nvalid := ofBytes ((img.drop 8).take 4), tainted := false, poison := none }
  let lawful := t.image = img && t.nvalid = (t.leaves.filter fun x => leafValid x.2).length && t.leaves.all fun x => bitsOf x.2.toNat 49 15 = 0
  { t with tainted := !lawful }

/-- A tree command has been accepted with this outcome; its handle completes later. -/
def State.treeLand (s : State) (id : Nat) (tid : Nat) (op : TreeOp) (out : List Byte) (stat count : Nat) (failed prov : Option Nat) : State :=
  s.modCmd id fun k => { k with body := .tree tid op out stat count, landed := some s.clock.clk, failed, prov }

/-- The engine writes records of a tree: their words go to memory one by one before the command completes (R166, R265). -/
def State.treeWrite (s : State) (id : Nat) (l : List (Nat × Nat × Option Nat)) (bs : List Byte) : State :=
  s.modCmd id fun c => { c with out := c.out ++ segDrips 0 [] l bs 0 }

/-- The sectors of a range stop being poisoned: the whole image is written anew (R270, R271). -/
def State.treeClean (s : State) (l : List (Nat × Nat × Option Nat)) : State :=
  { s with gmeta := { s.gmeta with poison := s.gmeta.poison.filter fun x => !l.any fun y => 32 * x.1 < y.1 + y.2.1 && y.1 < 32 * x.1 + 32 } }

/-- Acceptance of TREECFG.ON on a free slot. -/
def State.treeConfigure (s : State) (id : Nat) (c : Cmd) (tid : Nat) (op : TreeOp) (base logn : Nat) (adopt : Bool) (beta serial0 : Word) : State :=
  match s.treeSegs c (!adopt) [(base, treeBytes logn)] with
  | .miss va => s.outerMiss id (tid / 32) c.part va
  | .fault => s.treeLand id tid op [] stFAULT 0 (some Cause.treeAccess.code) none
  | .ok l =>
    if adopt then
      let (bs, tag) := s.segRead l
      match tag with
      | some t => s.treeLand id tid op [] stPOISONED 0 none (some t)
      | none => { s with trees := tput s.trees tid (adoptTree c.part base logn beta bs) }.treeLand id tid op [] stOK 0 none none
    else
      let t : Tree := { part := c.part, base, logn, beta, leaves := [], serial := serial0, stale := 0, nvalid := 0, tainted := false, poison := none }
      ({ s with trees := tput s.trees tid t }.treeClean l |>.treeWrite id l t.image).treeLand id tid op [] stOK 0 none none

/-- The lowest tag of the records that a command reads, as far as their pages can be read. -/
def State.treeTag (s : State) (c : Cmd) (reads : List (Nat × Nat)) : Option Nat :=
  reads.foldl (fun acc x => match s.treeSegs c false [x] with | .ok l => lowerTag acc (s.segRead l).2 | _ => acc) none

/-- Acceptance of a command on a configured tree.  A draw takes its SERIAL whatever its status (R274). -/
def State.treeApply (s : State) (id : Nat) (c : Cmd) (tid : Nat) (op : TreeOp) (t : Tree) (list : List Byte) (listTag : Option Nat) : State :=
  let whole := op = .clr
  let draws := op matches .draw ..
  let (e, s0) := if t.tainted then (t.effect op list).unstated op s else (t.effect op list, s)
  let reads := if whole then [] else e.reads.eraseDups.map t.nodeAt ++ if e.header then [(t.base, 16)] else []
  let changed := e.tree.serial ≠ t.serial || e.tree.stale ≠ t.stale || e.tree.nvalid ≠ t.nvalid
  let header : List (Nat × Nat × List Byte) := if changed then [(t.base, 16, e.tree.headerBytes)] else []
  let writes : List (Nat × Nat × List Byte) :=
    if whole then [(t.base, treeBytes t.logn, e.tree.image)]
    else e.writes.eraseDups.map (fun j => ((t.nodeAt j).1, (t.nodeAt j).2, e.tree.nodeBytes j)) ++ header
  let put (s : State) (ws : List (Nat × Nat × List Byte)) : State :=
    match s.treeSegs c true (ws.map fun x => (x.1, x.2.1)) with
    | .ok wl =>
      let bytes := ws.flatMap (·.2.2)
      let (data, s1) := if t.tainted && !whole then s.freeBytes bytes.length else (bytes, s)
      s1.treeWrite id wl data
    | _ => s
  let ended (s : State) (stat : Nat) (failed prov : Option Nat) : State :=
    if draws then (put { s with trees := tput s.trees tid { t with serial := e.tree.serial } } header).treeLand id tid op [] stat e.count failed prov
    else s.treeLand id tid op [] stat 0 failed prov
  match s.treeSegs c false reads, s.treeSegs c true (writes.map fun x => (x.1, x.2.1)) with
  | .miss va, _ | _, .miss va => s.outerMiss id (tid / 32) c.part va
  | rs, ws =>
    match lowerTag listTag (lowerTag (s.treeTag c reads) (if e.reads.isEmpty then none else t.poison)), rs, ws with
    | some tag, _, _ => ended s0 stPOISONED none (some tag)
    | none, .ok _, .ok wl =>
      let s1 := put { s0 with trees := tput s0.trees tid (if whole then { e.tree with poison := none } else e.tree) } writes
      (if whole then s1.treeClean wl else s1).treeLand id tid op e.out e.stat e.count none none
    | none, _, _ => ended s0 stFAULT (some Cause.treeAccess.code) none

/-- TREE_ACCEPT (R268): the arbiter of a carousel accepts a command, after the same warp's earlier ones on the tree, and once the
records that the one accepted before changed have been written. -/
def execTreeAccept (id : Nat) (s : State) : Res :=
  match tfind s.cmds id with
  | none => .next s
  | some c =>
    match c.body with
    | .tree tid op _ _ _ =>
      let before := s.cmds.any fun x => x.1 < id && x.2.wg = c.wg && x.2.wix = c.wix && x.2.landed.isNone && x.2.status = 0 &&
        match x.2.body with | .tree y .. => y = tid | _ => false
      let writing := s.cmds.any fun x => !x.2.out.isEmpty && match x.2.body with | .tree y .. => y = tid | _ => false
      let ranges : List Range := match op.area with | some (a, n, d) => byteRange .a a n d | none => []
      if c.status ≠ 0 || c.landed.isSome then .next s
      else if c.cancel then .next (s.complete id stCANCELLED 0 0 0)
      else if c.walk.isSome || before || writing || !s.startable c || s.rangeHeld id id c ranges then .next s
      else
        let owned := match tfind s.parts c.part with | some p => p.tmask.getLsbD tid | none => false
        let fail (cause : Cause) : State := s.treeLand id tid op [] stFAULT 0 (some cause.code) none
        let g := s.asp c.wg
        match c.prov, op, tfind s.trees tid with
        | some t, _, _ => .next (s.treeLand id tid op [] stPOISONED 0 none (some t))
        | none, .on base logn adopt beta serial0, none =>
          if owned then .next (s.treeConfigure id c tid op base logn adopt beta serial0) else .next (fail .treeState)
        | none, .on .., some _ => .next (fail .treeState)
        | none, _, none => .next (fail .treeState)
        | none, op, some t =>
          if !owned || t.part ≠ c.part then .next (fail .treeState)
          else
            let list := match op with | .upd a n => g.aBytes a (32 * n) | _ => []
            let listTag := match op with | .upd a n => g.aTag a (32 * n) | _ => none
            if (op.leavesNamed list).any (· ≥ 2 ^ t.logn) then .next (match listTag with
              | some tag => s.treeLand id tid op [] stPOISONED 0 none (some tag)
              | none => fail .treeLeaf)
            else if op = .off then .next ({ s with trees := terase s.trees tid }.treeLand id tid op [] stOK 0 none none)
            else .next (s.treeApply id c tid op t list listTag)
    | _ => .next s

/-- TREE_COMPLETE (R265, R270): the result records are written and the handle completes. -/
def execTreeComplete (id : Nat) (s : State) : Res :=
  match tfind s.cmds id with
  | none => .next s
  | some c =>
    match c.body with
    | .tree _ op out stat count =>
      if c.status ≠ 0 || c.landed.isNone || !c.out.isEmpty then .next s
      else if c.cancel then .next (s.complete id stCANCELLED 0 0 count)
      else
        let s1 := match op.area with
          | some (a, _, true) => s.modA c.wg fun g => g.aPut a out
          | _ => s
        .next (s1.complete id stat (c.failed.getD 0) (c.prov.getD 0) count)
    | _ => .next s

end Sys2Proof.Machine
end

