-- ==== Sys2Proof/Machine/Launch.lean ====
section
/-!
DEFINITION. Launch.lean: the levels of work (R17, R308, R309), launch records and their acceptance (R310, R311, R313, R431),
cancellation (R315): opcodes 0xD0, 0xD5, 0xD6 and the steps of the job engine.
-/
namespace Sys2Proof.Machine

/-! Levels (R308, R309) -/

/-- Slots of a kind of level. -/
def kindSlots (kind : Nat) : Nat := if kind = 0 then 16384 else if kind = 1 then 4096 else if kind = 2 then 1024 else 256
/-- The KIND of a level id. -/
def levelKind (id : Word) : Nat := bitsOf id.toNat 30 2

/-- The lowest free slot among `n` from `i` on. -/
def freeSlot (t : Table Level) (base : Nat) : Nat → Nat → Option Nat
  | 0, _ => none
  | n + 1, i => if (tfind t (base + i)).isNone then some i else freeSlot t base n (i + 1)

/-- The live level that an id designates for a partition. -/
def State.liveLevel (s : State) (part : Nat) (id : Word) : Option Level := (s.level? id).filter fun l => l.part = part
/-- A live level of a kind. -/
def State.liveKind (s : State) (part kind : Nat) (id : Word) : Option Level :=
  if levelKind id = kind then s.liveLevel part id else none

/-- GEN of a slot's next use (R308). -/
def nextGen (g : Nat) : Nat := if g ≥ 0xFFFF then 1 else g + 1

/-- Open a level in the lowest free slot of its kind. -/
def State.newLevel (s : State) (part kind counter : Nat) (parent : Option Word) (launch : Option Launch) : Option (Word × State) :=
  (freeSlot s.levels (kind * 16384) (kindSlots kind) 0).map fun i =>
    let key := kind * 16384 + i
    let gen := nextGen (tgetD 0 s.jobs.gens key)
    let id := BitVec.ofNat 32 (key * 65536 + gen)
    let s1 := match parent with | some p => s.modLevel p fun l => { l with given := l.given + 1 } | none => s
    let lvl : Level := { id, part, counter, total := counter, given := 0, parent, cancelled := false, order := s.jobs.orders, launch }
    (id, { s1 with levels := tput s1.levels key lvl, jobs := { s1.jobs with gens := tput s1.jobs.gens key gen, orders := s1.jobs.orders + 1 } })

/-- `n` children of a level have completed; a level whose counter reaches 0 completes, and with it a child of its parent
(R17).  `fuel` bounds the four levels. -/
def State.childrenDone (s : State) : Nat → Word → Nat → State
  | 0, _, _ => s
  | fuel + 1, id, n =>
    if n = 0 then s
    else match s.level? id with
      | none => s
      | some l =>
        if l.counter > n then s.modLevel id fun l => { l with counter := l.counter - n }
        else
          let s1 := { s with levels := terase s.levels (levelKey id) }
          match l.parent with
          | some p => s1.childrenDone fuel p 1
          | none => s1

/-- A workgroup of a launch is counted as retired. -/
def State.countRetired (s : State) (launch : Word) : State := s.childrenDone 4 launch 1

/-! Launch records (R310) -/

/-- The record in 128 bytes, as a number. -/
def parseRecord (r : Nat) : LaunchRec :=
  { entry := BitVec.ofNat 57 (bitsOf r 0 57), nx := bitsOf r 64 16, ny := bitsOf r 80 16, nz := bitsOf r 96 16, warps := bitsOf r 112 5
    nthr := bitsOf r 128 10, vallot := bitsOf r 144 8, sallot := bitsOf r 152 7, asize := bitsOf r 160 9, stack := bitsOf r 176 16
    crows := bitsOf r 192 9, gmat0 := bitsOf r 208 8, gmatN := bitsOf r 216 8, sbcheck := bitsOf r 224 1 = 1, trapsat := bitsOf r 225 1 = 1
    det := bitsOf r 226 1 = 1, idem := bitsOf r 227 1 = 1, queue := bitsOf r 232 6
    waitOn := (List.range 4).map fun i => BitVec.ofNat 32 (bitsOf r (256 + 32 * i) 32), graph := BitVec.ofNat 32 (bitsOf r 384 32)
    wdog := bitsOf r 416 32, wallns := bitsOf r 448 64, param := (List.range 16).map fun i => BitVec.ofNat 32 (bitsOf r (512 + 32 * i) 32) }

/-- The record breaks a constraint of R310. -/
def recordBad (r : Nat) : Bool :=
  let x := parseRecord r
  bitsOf r 57 7 ≠ 0 || bitsOf r 0 3 ≠ 0 || x.nx = 0 || x.ny = 0 || x.nz = 0 || x.warps = 0 || x.warps > 16 || bitsOf r 117 11 ≠ 0 ||
  !(32 * (x.warps - 1) < x.nthr && x.nthr ≤ 32 * x.warps) || bitsOf r 138 6 ≠ 0 || x.vallot = 0 || x.vallot > 128 ||
  x.sallot = 0 || x.sallot > 64 || bitsOf r 159 1 ≠ 0 || x.asize = 0 || x.asize > 256 || bitsOf r 169 7 ≠ 0 || x.stack % 16 ≠ 0 ||
  x.warps * x.stack > 4096 * x.asize || x.crows > 256 || bitsOf r 201 7 ≠ 0 || x.gmat0 + x.gmatN > 160 || bitsOf r 228 4 ≠ 0 || bitsOf r 238 18 ≠ 0

/-- The word that names nothing in WAITON and GRAPH. -/
def noLevel : Word := 0xFFFFFFFF

/-- The link table named by a kernel descriptor (R431). -/
def linkBase (entry : GAddr) (desc : Nat) : Option GAddr :=
  let lt : Int := (entry.toNat : Int) + asI 32 desc
  if desc / 2 ^ 32 ≠ 0 || lt % 8 ≠ 0 || lt / 2 ^ 32 ≠ (entry.toNat / 2 ^ 32 : Nat) then none else some (BitVec.ofInt 57 lt)

/-- What the job engine finds in memory. -/
inductive JobRead where
  | miss (va : Nat)
  | fault
  | poison (tag : Nat)
  | got (v : Nat)
  deriving DecidableEq, Repr

/-- A record of `n` bytes at a G address. -/
def State.jobRead (s : State) (part : Nat) (tr : List (Nat × TrOutcome)) (va n : Nat) : JobRead :=
  match s.walkSegs part tr false 2 va n with
  | .miss va => .miss va
  | .fault => .fault
  | .ok l => match s.segRead l with
    | (_, some tag) => .poison tag
    | (bs, none) => .got (ofBytes bs)

/-- A kernel descriptor, with the rights of a fetch (R431). -/
def State.descRead (s : State) (part : Nat) (tr : List (Nat × TrOutcome)) (entry : GAddr) : JobRead :=
  let va := entry.toNat - 8
  if entry.toNat < 8 || tr.any (fun x => x.1 = pageOf va) then .fault
  else match s.walk part va with
    | .page bits e =>
      let t := transOf bits e va
      if !pteEx e || s.portDown t.pa || (s.poisonAt t.pa 8).isSome then .fault else .got (s.dword (pteSlot e) t.pa).toNat
    | .fault => .miss va
    | .bad => .fault

/-- What acceptance gives: a wait for a page, or a status with cause, tag and COUNT. -/
inductive Accepted where
  | miss (va : Nat)
  | done (stat cause prov count : Nat) (s : State)
  deriving DecidableEq, Repr

def Accepted.faulty (s : State) (cause : Cause) : Accepted := .done stFAULT cause.code 0 0 s

/-- A parent for a new child: live, of the kind, not cancelled, with a child still to come (R309, R313). -/
def State.parentFor (s : State) (part kind : Nat) (id : Word) : Except Accepted Unit :=
  match s.liveKind part kind id with
  | none => .error (Accepted.faulty s .levelState)
  | some l =>
    if l.cancelled then .error (.done stCANCELLED 0 0 0 s)
    else if l.given ≥ l.total then .error (Accepted.faulty s .levelState)
    else .ok ()

/-- Acceptance of the launch record at `addr` (R310, R311, R431). -/
def State.acceptLaunch (s : State) (part : Nat) (tr : List (Nat × TrOutcome)) (addr : Nat) : Accepted :=
  match s.jobRead part tr addr 128 with
  | .miss va => .miss va
  | .fault => Accepted.faulty s .launchRecord
  | .poison tag => .done stPOISONED 0 tag 0 s
  | .got r =>
    if recordBad r then Accepted.faulty s .launchRecord
    else
      let rec_ := parseRecord r
      match s.descRead part tr rec_.entry with
      | .miss va => .miss va
      | .fault | .poison _ => Accepted.faulty s .launchRecord
      | .got d =>
        match linkBase rec_.entry d with
        | none => Accepted.faulty s .launchRecord
        | some ltbase =>
          let owned := match tfind s.parts part with | some p => p.qmask.getLsbD rec_.queue | none => false
          if !owned || rec_.waitOn.any (fun x => x ≠ noLevel && levelKind x ≠ 0) then Accepted.faulty s .levelState
          else
            let parent := if rec_.graph = noLevel then none else some rec_.graph
            match (match parent with | some g => s.parentFor part 1 g | none => .ok ()) with
            | .error a => a
            | .ok () =>
              let waits := rec_.waitOn.filter fun x => (s.liveLevel part x).isSome
              let l : Launch := { rec_ := { rec_ with waitOn := waits }, ltbase, mark := s.gmeta.hist.length, order := s.jobs.orders, next := 0
                                  back := [], first := none, since := none, passed := false, clear := none }
              match s.newLevel part 0 (rec_.nx * rec_.ny * rec_.nz) parent (some l) with
              | none => Accepted.faulty s .levelState
              | some (id, s1) => .done stOK 0 0 id.toNat s1

/-- Acceptance of an open record for a graph, phase or job (R313). -/
def State.acceptOpen (s : State) (part : Nat) (tr : List (Nat × TrOutcome)) (kind addr : Nat) : Accepted :=
  match s.jobRead part tr addr 16 with
  | .miss va => .miss va
  | .fault => Accepted.faulty s .launchRecord
  | .poison tag => .done stPOISONED 0 tag 0 s
  | .got r =>
    let n := bitsOf r 32 32
    let parent : Option Word := if kind = 3 then none else some (BitVec.ofNat 32 (bitsOf r 0 32))
    if n = 0 || n > 65535 || r / 2 ^ 64 ≠ 0 then Accepted.faulty s .launchRecord
    else match (match parent with | some p => s.parentFor part (kind + 1) p | none => .ok ()) with
      | .error a => a
      | .ok () => match s.newLevel part kind n parent none with
        | none => Accepted.faulty s .levelState
        | some (id, s1) => .done stOK 0 0 id.toNat s1

/-- Acceptance of a priority (R313, R317). -/
def State.acceptPrio (s : State) (part queue prio : Nat) : Accepted :=
  match tfind s.parts part with
  | some p =>
    if p.qmask.getLsbD queue then
      .done stOK 0 0 (tgetD 0 s.jobs.prio queue) { s with jobs := { s.jobs with prio := tsetD 0 s.jobs.prio queue prio } }
    else Accepted.faulty s .levelState
  | none => Accepted.faulty s .levelState

/-! LAUNCH (R312, R313) -/

/-- LAUNCH of a record: `form` 0 .RUN, 1 .GRAPH, 2 .PHASE, 3 .JOB. -/
def launchIssue (form : Nat) (f : Fields) (s : State) : Res :=
  uniform 0xD0 f s fun c w x s =>
    let addr := c.valA w x
    match firstFault [gBad .g addr 0, (addr % (if form = 0 then 128 else 16) ≠ 0, .gAlign, addr)] with
    | some (cause, a) => c.trapAt s cause a
    | none => startCmd c w s 10 (.launch form addr) (hIndex c.f.d) []

/-- LAUNCH.RUN. -/
def execLaunchRun (f : Fields) (s : State) : Res := launchIssue 0 f s
/-- LAUNCH.GRAPH. -/
def execLaunchGraph (f : Fields) (s : State) : Res := launchIssue 1 f s
/-- LAUNCH.PHASE. -/
def execLaunchPhase (f : Fields) (s : State) : Res := launchIssue 2 f s
/-- LAUNCH.JOB. -/
def execLaunchJob (f : Fields) (s : State) : Res := launchIssue 3 f s

/-- LAUNCH.QPRIO. -/
def execLaunchQprio (f : Fields) (s : State) : Res :=
  uniform 0xD0 f s fun c w x s =>
    let q := c.valA w x % 2 ^ 32
    let p := c.valB w x % 2 ^ 32
    if q > 63 || p > 7 then c.trapU s .levelState else startCmd c w s 10 (.qprio q p) (hIndex c.f.d) []

/-- LAUNCH_ACCEPT (R313): the job engine of the issuer's die accepts a LAUNCH, and its handle completes. -/
def execLaunchAccept (id : Nat) (s : State) : Res :=
  match tfind s.cmds id with
  | none => .next s
  | some c =>
    let run : Option (State → Accepted) := match c.body with
      | .launch form addr => some fun s => if form = 0 then s.acceptLaunch c.part c.tr addr else s.acceptOpen c.part c.tr form addr
      | .qprio q p => some fun s => s.acceptPrio c.part q p
      | _ => none
    match run with
    | none => .next s
    | some go =>
      if c.status ≠ 0 || c.walk.isSome || !s.startable c then .next s
      else if c.cancel then .next (s.complete id stCANCELLED 0 0 0)
      else match go s with
        | .miss va => .next (s.outerMiss id (dieOf (cluOf c.core)) c.part va)
        | .done stat cause prov count s1 => .next (s1.complete id stat cause prov count)

/-! Counters and cancellation (R314, R315) -/

/-- CNTRD (R314). -/
def execCntrd (f : Fields) (s : State) : Res :=
  uniform 0xD6 f s fun c w x s =>
    let n := match s.liveLevel (s.wg c.w.wg).part (BitVec.ofNat 32 (c.valA w x)) with | some l => l.counter | none => 0
    let (id, s1) := s.newId
    c.done w (s1.modWarp c.w fun w => (w.expect id (c.dest w x.1) 1 false).deliver id (c.dest w x.1) n)

/-- LVLCANCEL (R315). -/
def execLvlcancel (f : Fields) (s : State) : Res :=
  uniform 0xD5 f s fun c w x s =>
    startCmd c w s 10 (.lvlcancel (BitVec.ofNat 32 (c.valA w x)) false 0) (hIndex c.f.d) []

/-- A level is `id` or lies below it; `fuel` bounds the four levels. -/
def State.below (s : State) (id : Word) : Nat → Word → Bool
  | 0, _ => false
  | fuel + 1, x =>
    x = id || match (s.level? x).bind (·.parent) with | some p => s.below id fuel p | none => false

/-- One of the walks has failed: the warp is parked (R357). -/
def State.pagePark (s : State) (ids : List Nat) : Bool :=
  ids.any fun id => match tfind s.walks id with | some k => decide (k.state ≠ .walking) | none => false

/-- A wait that is a long-latency dependence (R324); of those for room, the ones whose rule names them so. -/
def State.longWait (s : State) (w : Warp) : Bool :=
  match w.wait with
  | none => false
  | some (.token _) | some (.handle ..) | some (.lanes _) | some (.overlap _) | some (.sleep ..) | some (.bar _) | some .baton
  | some (.poison ..) | some (.spawn _) | some (.cclr ..) => true
  | some (.room what _) => what = 0 || what = 1 || what = 5
  | some (.pending keys) => w.pends.any fun p => p.long && p.keys.any fun k => keys.contains k
  | some (.walk ids) => s.pagePark ids
  | some .drain => false

/-- The warp stands at a wait point (R384). -/
def State.waitPoint (s : State) (w : Warp) : Bool :=
  match w.wait with
  | some (.handle ..) | some (.lanes _) | some (.sleep ..) | some (.bar _) | some .baton | some (.poison ..) | some (.spawn _) => true
  | some (.walk ids) => s.pagePark ids
  | _ => false

/-- The warp has come to a wait point of a workgroup that is to be pre-empted, and goes no further (R385). -/
def State.mustStop (s : State) (r : WarpRef) (w : Warp) : Bool := (s.wg r.wg).preempt && s.waitPoint w

/-- A warp of a cancelled level retires (R315): its wait is withdrawn, its tasks end without a result. -/
def State.cancelWarp (s : State) (r : WarpRef) : State :=
  match s.warp? r with
  | some w =>
    if w.retired then s
    else
      let s1 := s.withdraw r
      let s2 := s1.endWave r.wg (2 ^ 34)
      match s2.warp? r with | some w => s2.retireWarp r w | none => s2
  | none => s

/-- One level at or below the cancelled one: no more of it is placed or submitted, and what was not counts as complete
(R315 item 1).  Answers how many workgroups retire unplaced. -/
def State.cancelLevel (s : State) (l : Level) : Nat × State :=
  match l.launch with
  | some la =>
    let n := (l.total - la.next) + la.back.length
    let s1 := s.modLevel l.id fun x => { x with
      cancelled := true, launch := some { la with next := l.total, back := [], since := none, passed := false, clear := none } }
    (n, s1.childrenDone 4 l.id n)
  | none => (0, (s.modLevel l.id fun x => { x with cancelled := true, given := x.total }).childrenDone 4 l.id (l.total - l.given))

/-- Workgroups of the launches under a cancelled level. -/
def State.wgsUnder (s : State) (id : Word) : List Nat := (s.wgs.filter fun g => s.below id 4 g.2.launch).map (·.1)

/-- Warps of workgroups under a cancelled level that retire at once: those in a long-latency wait, and those saved
(R315 item 2, R388). -/
def State.cancelNow (s : State) (gs : List Nat) : List WarpRef :=
  gs.flatMap fun g =>
    let wg := s.wg g
    (wg.warps.zipIdx.filter fun x => !x.1.retired && (s.longWait x.1 || wg.place = .saved || x.1.stopped)).map fun x => { wg := g, wix := x.2 }

/-- Item 1 of R315: the levels under `id` are cancelled; how many workgroups retired unplaced. -/
def State.cancelLevels (s : State) (id : Word) : Nat × State :=
  let ls := (s.levels.filter fun x => s.below id 4 x.2.id).map (·.2)
  let order := ls.filter (·.launch.isSome) ++ ls.filter (·.launch.isNone)
  order.foldl (fun acc l => let (n, s1) := acc.2.cancelLevel ((acc.2.level? l.id).getD l); (acc.1 + n, s1)) (0, s)

/-- Items 2 and 3 of R315 for workgroups: their commands and tasks go, and the warps that wait retire. -/
def State.cancelWgs (s : State) (gs : List Nat) : State :=
  let s1 := gs.foldl (fun s g => s.modWg g fun x => { x with cancelled := true }) s
  let s2 := (s1.cancelCmds fun c => gs.contains c.wg && !(c.body matches .lvlcancel ..)).dropTasks fun t => gs.contains t.origin
  (s2.cancelNow gs).foldl State.cancelWarp s2

/-- LEVEL_CANCEL_APPLY (R315): the level under a LVLCANCEL is cancelled; the handle completes when the level has gone. -/
def execLevelCancelApply (id : Nat) (s : State) : Res :=
  match tfind s.cmds id with
  | none => .next s
  | some c =>
    match c.body with
    | .lvlcancel lvl started unplaced =>
      if c.status ≠ 0 || !s.startable c then .next s
      else if (s.liveLevel c.part lvl).isNone then .next (s.complete id stOK 0 0 unplaced)
      else
        let gs := s.wgsUnder lvl
        let saved := (gs.filter fun g => (s.wg g).place = .saved).length
        let (n, s1) := if started then (unplaced, s) else let (n, s1) := s.cancelLevels lvl; (n + saved, s1)
        .next ((s1.cancelWgs gs).modCmd id fun k => { k with body := .lvlcancel lvl true n })
    | _ => .next s

end Sys2Proof.Machine
end

