-- ==== Sys2Proof/Machine/Place.lean ====
section
/-!
DEFINITION. Place.lean: the room of a core (R20, R28, R34, R121, R134, R329), the placing of workgroups by the distributor
(R316, R317), their retirement (R16, R246, R394), and MIGRATE (R323).
-/
namespace Sys2Proof.Machine

/-! Room (R20, R28, R34, R121, R134) -/

/-- What a workgroup needs of a core. -/
structure Need where
  warps : Nat
  vregs : Nat                            -- groups of 32 × 4 bytes of the register file
  a     : Nat
  crows : Nat
  gmat0 : Nat
  gmatN : Nat
  det   : Bool
  deriving DecidableEq, Repr

/-- Register-file groups of one warp (R20). -/
def vGroups (v : Nat) : Nat := 4 * ((v + 3) / 4)

def LaunchRec.need (r : LaunchRec) : Need :=
  { warps := r.warps, vregs := r.warps * vGroups r.vallot, a := 4096 * r.asize, crows := r.crows, gmat0 := r.gmat0, gmatN := r.gmatN, det := r.det }

/-- The A allocation of a wave (R321). -/
def waveBytes (stack : Nat) : Nat := 4096 * max 1 ((stack + 4095) / 4096)

/-- Workgroups whose room a core holds: those on it and those on their way to it. -/
def State.onCore (s : State) (core : Nat) (without : List Nat) : List (Nat × Workgroup) :=
  s.wgs.filter fun g => g.2.core = core && g.2.place ≠ .saved && !without.contains g.1

def Workgroup.liveWarps (g : Workgroup) : List Warp := g.warps.filter fun w => !w.retired

/-- Free warp places of a core (R34). -/
def State.freePlaces (s : State) (core : Nat) : Nat :=
  32 - ((s.onCore core []).map fun g => g.2.liveWarps.length).sum

/-- The lowest place at which `size` fits beside the ranges in use (R28, R121). -/
def lowestFit (used : List (Nat × Nat)) (size total : Nat) : Option Nat :=
  let ok (p : Nat) : Bool := p + size ≤ total && (size = 0 || used.all fun x => x.2 = 0 || x.1 + x.2 ≤ p || p + size ≤ x.1)
  ((0 :: used.map fun x => x.1 + x.2).filter ok).foldl (fun acc p => match acc with | none => some p | some q => some (min p q)) none

def Workgroup.aRange (g : Workgroup) : Nat × Nat := (g.aOff, if g.share.isSome then 0 else g.aSize)

/-- Offset and first row that a core would give, if everything else fits; `without` are workgroups whose room is counted as
free, `self` one whose own gate mats do not stand in its way (R316, R385, R386). -/
def State.room (s : State) (core : Nat) (n : Need) (without : List Nat) (self : Nat) : Option (Nat × Nat) :=
  let here := (s.onCore core without).map (·.2)
  let live := here.flatMap Workgroup.liveWarps
  let mats := s.wgs.any fun g => g.1 ≠ self && g.2.core = core && n.gmatN ≠ 0 && g.2.gmatN ≠ 0 &&
    n.gmat0 < g.2.gmat0 + g.2.gmatN && g.2.gmat0 < n.gmat0 + n.gmatN
  let mixed := (s.onCore core without).any fun g => s.flag g.1 (·.det) ≠ n.det
  if live.length + n.warps > 32 || (live.map fun w => vGroups w.vAllot).sum + n.vregs > 2048 || mats || mixed then none
  else match lowestFit (here.map Workgroup.aRange) n.a (2 ^ 20), lowestFit (here.map fun g => (g.cbase, g.crows)) n.crows 256 with
    | some a, some c => some (a, c)
    | _, _ => none

/-- Cores of a partition (R349). -/
def Partition.cores (p : Partition) : List Nat :=
  ((List.range 48).filter fun c => p.clmask.getLsbD c).flatMap fun c => (List.range 8).map (· + 8 * c)

/-- The core with the most free warp places, the lower of equals. -/
def State.mostFree (s : State) (cores : List Nat) : Option Nat :=
  cores.foldl (fun acc k => match acc with
    | none => some k
    | some b => if s.freePlaces k > s.freePlaces b then some k else some b) none

/-! Warps and workgroups that start (R18, R22, R28) -/

/-- A warp of `n` threads at its start. -/
def newWarp (r : LaunchRec) (ltbase pc : GAddr) (n top : Nat) : Warp :=
  let m := firstThreads n
  let params := (List.range (min 16 r.sallot)).foldl (fun t i => tsetD 0 t i (r.param.getD i 0)) ([] : Table Word)
  { pc, never := ~~~m, exited := 0, em := m, vAllot := r.vallot, sAllot := r.sallot, ltbase, v := [], p := []
    s := tsetD 0 (tsetD 0 params 61 (ltbase.truncate 32)) 63 (BitVec.ofNat 32 top), h := [], tok := [], splits := [], kUsed := 0, xi := 0
    status := 0, tbase := 0, cwb := 0, cwl := 0, flights := [], flagsIn := [], pends := [], accs := [], wait := none, waitAt := 0
    doneLanes := [], heldLanes := [], kept := none, heldKept := none, slot := none, slotLanes := [], tr := [], barPend := [], defers := [], frame := none, nCopy := 0, mail := [], now := 0, next := 0, busy := 0, draw := 0
    live := 0, atSafe := false, stopped := false, retired := false, batonSeq := 0 }

/-- Threads of warp `i` among `n` threads of a workgroup (R15). -/
def warpThreads (n i : Nat) : Nat := min 32 (n - 32 * i)

/-- The warps of a workgroup join the ready queue of their core at its tail (R325). -/
def State.joinReady (s : State) (g : Nat) : State :=
  let wg := s.wg g
  let new := ((wg.warps.zipIdx.filter fun x => !x.1.retired).map fun x => ({ w := { wg := g, wix := x.2 }, count := 0 } : Rq))
  s.modCore wg.core fun k => { k with sched := { k.sched with rq := k.sched.rq ++ new } }

/-- A workgroup leaves the scheduler of its core. -/
def State.leaveSched (s : State) (g : Nat) : State :=
  s.modCore (s.wg g).core fun k =>
    let q := k.sched
    { k with sched := { q with
        active := q.active.filter fun x => x.1.wg ≠ g, rq := q.rq.filter fun x => x.w.wg ≠ g, swapped := q.swapped.filter fun x => x.1.wg ≠ g
        blocked := q.blocked.filter fun x => x.wg ≠ g, detRun := q.detRun.filter fun x => x.wg ≠ g, yielded := q.yielded.filter fun x => x.wg ≠ g } }

/-- Rows of C space become 0 (R121). -/
def State.clearRows (s : State) (core lo n : Nat) : State :=
  s.modCore core fun k => k.clearC lo n

/-- Start a workgroup of a launch on a core (WORKGROUP_PLACE, R28). -/
def State.placeOn (s : State) (l : Level) (la : Launch) (index kills core aOff cbase : Nat) : State :=
  let r := la.rec_
  let (g, s1) := s.newId
  let size := 4096 * r.asize
  let wg : Workgroup := { Workgroup.blank with
    launch := l.id, part := l.part, index, gx := index % r.nx, gy := index / r.nx % r.ny, gz := index / (r.nx * r.ny), core
    warps := (List.range r.warps).map fun i => newWarp r la.ltbase r.entry (warpThreads r.nthr i) (size - i * r.stack)
    aOff, aSize := size, cbase, crows := r.crows, gmat0 := r.gmat0, gmatN := r.gmatN, kills, seqNo := g, origin := g }
  let la1 := { la with
    first := some (la.first.getD s.gmeta.hist.length)
    next := if index = la.next then la.next + 1 else la.next, back := la.back.filter fun x => x.1 ≠ index, since := none, passed := false, clear := none }
  let s2 := ({ s1 with wgs := tput s1.wgs g wg }.modLevel l.id fun x => { x with launch := some la1 }).clearRows core cbase r.crows
  s2.joinReady g

/-! The gatherer goes first (R321) -/

/-- Waves of a run, saved ones among them: each keeps its wave place (R342, R346). -/
def State.runWaves (s : State) (run : Nat) : List Workgroup :=
  (s.wgs.filter fun g => match g.2.kind with | .runWave r .. => r = run | _ => false).map (·.2)

/-- The run of a task. -/
def State.runOf (s : State) (core run : Nat) : Option Run := (s.cluster (cluOf core)).runs.find? fun r => r.cmd = run

/-- No more waves of the run of a task may form (R342). -/
def State.runFull (s : State) (core : Nat) (t : Task) : Bool :=
  match s.runOf core t.run with | some r => r.local_ && (s.runWaves t.run).length ≥ 4 | none => false

/-- The tasks that the next wave of a core would hold: the oldest and those that share its entry, up to 32 (R321, R339). -/
def State.waveGroup (s : State) (core : Nat) : List Task :=
  let ts := (s.core core).tasks
  match ts.find? fun t => !s.runFull core t with
  | none => []
  | some t0 => (ts.filter fun t => t.entry = t0.entry && t.origin = t0.origin && t.run = t0.run).take 32

/-- What a wave needs of its core. -/
def State.waveNeed (s : State) (core : Nat) (t : Task) : Need :=
  let r := (s.launch? (s.wg t.origin).launch).map (·.rec_)
  let a := match s.runOf core t.run with | some run => !run.local_ | none => true
  { warps := 1, vregs := vGroups ((r.map (·.vallot)).getD 1), a := if a then waveBytes ((r.map (·.stack)).getD 0) else 0, crows := 0, gmat0 := 0
    gmatN := 0, det := s.flag t.origin (·.det) }

/-- The group is full, or the oldest task has waited for 64 CLK ticks. -/
def waveDue (clk : Nat) (ts : List Task) : Bool := match ts with | t :: _ => ts.length = 32 || t.since + 64 ≤ clk | [] => false

/-- A wave can form on a core now. -/
def State.waveReady (s : State) (core : Nat) : Bool :=
  match s.waveGroup core with
  | [] => false
  | t :: ts => waveDue s.clock.clk (t :: ts) && (s.room core (s.waveNeed core t) [] 0).isSome

/-! The distributor (R316, R317) -/

/-- An unplaced workgroup at the head of its launch. -/
structure Cand where
  prio   : Nat
  front  : Bool                          -- it came back: ahead of its priority (R388, R394)
  order  : Nat
  index  : Nat
  launch : Word
  kills  : Nat
  saved  : Option Nat
  deriving DecidableEq, Repr

/-- The order of R316. -/
def Cand.ahead (x y : Cand) : Bool :=
  if x.prio ≠ y.prio then y.prio < x.prio
  else if x.front ≠ y.front then x.front
  else if x.order ≠ y.order then x.order < y.order
  else x.index < y.index

/-- Every phase of the job opened before the one of a launch has completed (R309). -/
def State.phaseMayRun (s : State) (l : Level) : Bool :=
  match (l.parent.bind s.level?).bind fun g => g.parent.bind s.level? with
  | some phase => !s.levels.any fun x => levelKind x.2.id = 2 && x.2.parent = phase.parent && x.2.order < phase.order
  | none => true

/-- The workgroups of a launch may be placed (R311). -/
def State.eligible (s : State) (l : Level) (la : Launch) : Bool :=
  !l.cancelled && la.rec_.waitOn.all (fun x => (s.level? x).isNone) && s.phaseMayRun l

/-- Partitions with a cluster on a die. -/
def State.dieParts (s : State) (die : Nat) : List Nat :=
  (s.parts.filter fun p => (List.range 24).any fun c => p.2.clmask.getLsbD (24 * die + c)).map (·.1)

/-- The first unplaced workgroup of every eligible launch of a die's partitions, and those that came back. -/
def State.candidates (s : State) (die : Nat) : List Cand :=
  let parts := s.dieParts die
  let ls := s.levels.filterMap fun x => x.2.launch.map fun la => (x.2, la)
  (ls.filter fun x => parts.contains x.1.part && s.eligible x.1 x.2).flatMap fun (l, la) =>
    let base : Cand := { prio := tgetD 0 s.jobs.prio la.rec_.queue, front := false, order := la.order, index := la.next, launch := l.id, kills := 0, saved := none }
    (la.back.map fun b => { base with front := true, index := b.1, kills := b.2 }) ++
    ((s.wgs.filter fun g => g.2.launch = l.id && g.2.place = .saved && g.2.killed.isNone).map fun g =>
      { base with front := true, index := g.2.index, saved := some g.1 }) ++
    (if la.next < l.total then [base] else [])

/-- Cores kept free for a launch that was passed over for 1 ms: its priority and its core (R316). -/
def State.keptCores (s : State) : List (Nat × Word × Nat) :=
  s.levels.filterMap fun x => match x.2.launch, tfind s.parts x.2.part with
    | some la, some p =>
      if la.passed then (s.mostFree p.cores).map fun k => (tgetD 0 s.jobs.prio la.rec_.queue, x.2.id, k) else none
    | _, _ => none

/-- What a saved workgroup needs again; a wave has the allotment of one warp, and its own A space unless it sees another's. -/
def State.savedNeed (s : State) (g : Nat) (r : LaunchRec) : Need :=
  let wg := s.wg g
  if wg.kind = .grid then r.need
  else { warps := 1, vregs := vGroups r.vallot, a := if wg.share.isSome then 0 else wg.aSize, crows := 0, gmat0 := 0, gmatN := 0, det := r.det }

/-- What a candidate needs. -/
def State.candNeed (s : State) (c : Cand) : Need :=
  match s.launch? c.launch with
  | some la => match c.saved with | some g => s.savedNeed g la.rec_ | none => la.rec_.need
  | none => { warps := 0, vregs := 0, a := 0, crows := 0, gmat0 := 0, gmatN := 0, det := false }

/-- Where a saved workgroup may go: with gate mats only to its own core (R388), a wave that sees another's A space to that one's
core (R342), with subscriptions to the cluster whose
roundabout holds its records (R386; notes/assumptions/76.md). -/
def State.candCores (s : State) (c : Cand) : List Nat :=
  match c.saved with
  | some g =>
    let wg := s.wg g
    if wg.gmatN ≠ 0 then [wg.core]
    else match wg.share with
    | some h => [(s.wg h).core]
    | none => match tfind s.parts wg.part with
      | some p => p.cores.filter fun k => wg.subs.isEmpty || cluOf k = cluOf wg.core
      | none => []
  | none => match (s.level? c.launch).bind fun l => tfind s.parts l.part with | some p => p.cores | none => []

/-- The core for a candidate: the one with the most free warp places on which it fits. -/
def State.coreFor (s : State) (c : Cand) : Option Nat :=
  let kept := s.keptCores
  let need := s.candNeed c
  s.mostFree ((s.candCores c).filter fun k =>
    !kept.any (fun x => x.2.2 = k && x.2.1 ≠ c.launch && c.prio ≤ x.1) && !s.waveReady k && (s.room k need [] (c.saved.getD 0)).isSome)

/-- The candidate that a decision places, and its core. -/
def State.choice (s : State) (die : Nat) : Option (Cand × Nat) :=
  ((s.candidates die).filterMap fun c => (s.coreFor c).map fun k => (c, k)).foldl
    (fun acc x => match acc with | none => some x | some y => if x.1.ahead y.1 then some x else some y) none

/-- PLACEMENT_DECISION (R316): the distributor of a die places the first eligible workgroup that fits.  A saved one is left to
WORKGROUP_RESTORE; a launch whose head fits nowhere is passed over from now on. -/
def execPlacementDecision (die : Nat) (s : State) : Res :=
  let best := s.choice die
  let missed := (s.candidates die).filter fun c => (s.coreFor c).isNone && match best with | some b => c.ahead b.1 | none => true
  let s1 := missed.foldl (fun (s : State) c => s.modLevel c.launch fun l =>
    { l with launch := l.launch.map fun la => if la.since.isNone then { la with since := some s.time } else la }) s
  match best with
  | some (c, core) =>
    match c.saved, s1.level? c.launch, s1.room core (s1.candNeed c) [] 0 with
    | none, some l, some (aOff, cbase) =>
      match l.launch with
      | some la => .next (s1.placeOn l la c.index c.kills core aOff cbase)
      | none => .next s1
    | _, _, _ => .next s1
  | none => .next s1

/-- PASSED_OVER_TIMEOUT (R316): 1 ms of TIME has gone by for a launch that was passed over. -/
def execPassedOverTimeout (die : Nat) (s : State) : Res :=
  let parts := s.dieParts die
  .next { s with levels := s.levels.map fun (i, l) => (i, if parts.contains l.part then
    { l with launch := l.launch.map fun la => match la.since with
      | some t => if t + 1000000 ≤ s.time then { la with passed := true } else la
      | none => la } else l) }

/-! Sparing register-file groups (R400) -/

/-- A lasting item of a core moves to a spare (R400), if fewer than `limit` are used; else it stays in service. -/
def State.spareItem (s : State) (core item key limit cls addr : Nat) : State :=
  let used := tgetD 0 (s.core core).spares key
  if used < limit then
    (s.modCore core fun k => { k with spares := tput k.spares key (used + 1), lasting := terase k.lasting item }).coreRecord core 4 (cls * 256) addr
  else s.coreRecord core 5 (cls * 256) addr

/-- The lasting register groups of a core that are free now are spared: all of them on a core without warps; which group a warp holds
is not stated, so otherwise each is freely free or not (notes/assumptions/82.md). -/
def State.spareGroups (s : State) (core : Nat) : State :=
  let idle := ((s.onCore core []).flatMap fun g => g.2.liveWarps).isEmpty
  (s.core core).worn.foldl (fun s g =>
    let (i, s1) := if idle then (1, s) else s.pick 2
    if i = 0 then s1
    else (s1.modCore core fun k => { k with worn := k.worn.filter (· ≠ g) }).spareItem core (groupItem g) 161 Config.spareGroups 4 g) s

/-! Retirement (R16, R246, R319, R394) -/

/-- A workgroup killed in this way runs again (R394). -/
def State.relaunches (s : State) (wg : Workgroup) : Bool :=
  (wg.killed = some Cause.aUncorr.code || wg.killed = some Cause.regUncorr.code) && wg.kills < 2 && wg.kind = .grid && !wg.cancelled &&
  match s.launch? wg.launch with | some la => la.rec_.idem | none => false

/-- A command cancels a level that holds the workgroup of its issuer: its handle is discarded with the warp (R315). -/
def State.cancelsOwn (s : State) (wg : Workgroup) (c : Cmd) : Bool := match c.body with | .lvlcancel id .. => s.below id 4 wg.launch | _ => false

/-- Nothing holds a workgroup back from retiring: its warps, tasks, waves and commands are done (R246). -/
def State.mayRetire (s : State) (g : Nat) (wg : Workgroup) : Bool :=
  wg.warps.all (·.retired) && wg.tasks = 0 && wg.warps.all (fun w => w.accs.isEmpty) &&
  !s.wgs.any (fun x => x.1 ≠ g && x.2.kind ≠ .grid && x.2.origin = g) &&
  !s.cmds.any fun c => c.2.wg = g && c.2.status = 0 && !s.cancelsOwn wg c.2

/-- WORKGROUP_RETIRE (R246): its counter decreases, or, once relaunched, it stands unplaced again. -/
def execWorkgroupRetire (g : Nat) (s : State) : Res :=
  match tfind s.wgs g with
  | none => .next s
  | some wg =>
    if !s.mayRetire g wg then .next s
    else
      let s1 := (wg.subs.foldl (fun s x => s.unsubscribe g x.stream) s).leaveSched g
      let s2 := s1.modCore wg.core fun k => { k with chains := k.chains.filter fun c => c.wg ≠ g, reads := k.reads.filter fun x => match x.w with | some y => y.1.wg ≠ g | none => true }
      let s3 := { s2 with
        wgs := terase s2.wgs g
        cmds := s2.cmds.filter fun c => c.2.wg ≠ g || c.2.status = 0
        jobs := { s2.jobs with fetches := s2.jobs.fetches.filter fun f => f.2.w.wg ≠ g
                               pool := s2.jobs.pool - if wg.preempt then Config.saveBytes wg.aSize wg.warps.length wg.crows wg.gmatN else 0 } }
      let s4 := (wg.fetched.foldl (fun s x => s.countRetired x.1) s3).spareGroups wg.core
      if wg.kind ≠ .grid then .next s4
      else if s.relaunches wg then
        .next (s4.modLevel wg.launch fun l => { l with launch := l.launch.map fun la => { la with back := la.back ++ [(wg.index, wg.kills + 1)] } })
      else .next (s4.countRetired wg.launch)

/-! Migration (R323) -/

/-- The first check of a MIGRATE that fails, for a target core. -/
def migrateFault (s : State) (r : WarpRef) (w : Warp) (target : Nat) : Option Cause :=
  let g := s.wg r.wg
  let inside := match tfind s.parts g.part with | some p => target ≤ 383 && p.clmask.getLsbD (cluOf target) | none => false
  if w.cwb < w.cwl then some .windowIllegal
  else if g.warps.length > 1 || g.kind ≠ .grid || g.gmatN ≠ 0 || !g.subs.isEmpty || g.aSize > 16384 || !inside then some .migrateState
  else if s.flag r.wg (·.det) then some .detForbidden
  else none

/-- What a migrating workgroup needs of its target. -/
def State.moveNeed (s : State) (g : Nat) : Need :=
  let wg := s.wg g
  { warps := 1, vregs := vGroups ((wg.warps.map (·.vAllot)).getD 0 1), a := wg.aSize, crows := wg.crows, gmat0 := 0, gmatN := 0, det := s.flag g (·.det) }

/-- Everything a migrating warp has issued is done. -/
def State.quiet (s : State) (r : WarpRef) (w : Warp) : Bool :=
  w.accs.isEmpty && w.pends.isEmpty && (List.range 8).all (fun k => !w.tokenBusy k) && !s.cmds.any fun c => c.2.wg = r.wg && c.2.status = 0

/-- MIGRATE to a core: the warp waits until it is quiet and there is room, and leaves. -/
def migrateTo (c : Ctx) (w : Warp) (s : State) (target : Nat) : Res :=
  match migrateFault s c.w w target with
  | some cause => c.trapU s cause
  | none =>
    if target = (s.wg c.w.wg).core then c.done w s
    else if !s.quiet c.w w then c.block s (.room 5 0)
    else match s.room target (s.moveNeed c.w.wg) [] 0 with
      | none => c.block s (.room 5 (target + 1))
      | some (aOff, cbase) =>
        let s1 := (c.finish s (c.fall w) false 0).leaveSched c.w.wg
        let s2 := s1.modWg c.w.wg fun g => { g with core := target, place := .moving, aOff, cbase }
        .next (((s2.renameCmds c.w.wg target).clearRows target cbase (s.wg c.w.wg).crows).spareGroups (s.wg c.w.wg).core)

/-- MIGRATE.CORE. -/
def execMigrateCore (f : Fields) (s : State) : Res :=
  uniform 0xD4 f s fun c w x s => migrateTo c w s (c.valA w x % 2 ^ 32)

/-- MIGRATE.NEAR: the core with the most free room in the cluster nearest the home slice of an address. -/
def execMigrateNear (f : Fields) (s : State) : Res :=
  uniform 0xD4 f s fun c w x s =>
    let addr := c.valA w x
    let g := s.wg c.w.wg
    if addr ≥ 2 ^ 57 then c.laneTrap s [addrFault 0 .gNoncanon addr]
    else match w.tr.find? fun t => t.1 = pageOf addr with
      | some (_, .refused) => c.laneTrap s [addrFault 0 .gRefused addr]
      | some (_, .badPte) => c.laneTrap s [addrFault 0 .gPte addr]
      | none => match s.tlbAt g.core g.part addr with
        | none =>
          let (ids, s1) := s.walkPages c.w 0 [addr]
          c.block s1 (.walk ids)
        | some t =>
          let clu := Config.nearest (sliceOf t.pa) % 48
          migrateTo c w s ((s.mostFree ((List.range 8).map (· + 8 * clu))).getD 0)

/-- What a stalled issue waits for is there: lock entries, table entries, a place in a queue, the room of a MIGRATE (R184,
R217, R143, R120, R323); 4, a COPYV's targets, is looked at again by the instruction alone. -/
def State.roomFor (s : State) (r : WarpRef) (w : Warp) (what need : Nat) : Bool :=
  let core := (s.wg r.wg).core
  match what with
  | 0 => s.locksUsed core + need ≤ 32
  | 1 => s.entriesUsed core + need ≤ 256
  | 2 => !s.gateFull core
  | 3 => ((s.core core).chains.filter fun k => k.mend.isSome).length ≤ 8
  | 5 => if need = 0 then s.quiet r w else (s.room (need - 1) (s.moveNeed r.wg) [] 0).isSome
  | _ => true

/-- MIGRATE_ARRIVAL (R323): the workgroup is on its target core and its warp joins the ready queue there. -/
def execMigrateArrival (g : Nat) (s : State) : Res :=
  match tfind s.wgs g with
  | none => .next s
  | some wg => if wg.place = .moving then .next ((s.modWg g fun x => { x with place := .resident }).joinReady g) else .next s

end Sys2Proof.Machine
end

