-- ==== Sys2Proof/Machine/Work.lean ====
section
/-!
DEFINITION. Work.lean: tasks and waves (R320-R322, R339, R342) and FETCHW (R318, R319): opcodes 0xD1 and 0xD3.
-/
namespace Sys2Proof.Machine

/-! SPAWN and the task gatherer (R320) -/

/-- Tasks of SPAWNs of a core issued before `id` that the gatherer is still to take (R320). -/
def State.tasksDue (s : State) (core id : Nat) : Nat :=
  s.cmds.foldl (fun n c => match c.2.body with
    | .spawn ts => if c.1 < id && c.2.core = core && c.2.status = 0 && !c.2.cancel then n + ts.length else n
    | _ => n) 0

/-- The gatherer has room for `n` tasks beside those of earlier SPAWNs (R320). -/
def State.taskRoom (s : State) (core id n : Nat) : Bool := (s.core core).tasks.length + s.tasksDue core id + n ≤ 1024

/-- SPAWN (R320): the argument records are registered, and the warp waits while the gatherer has no room for all of them. -/
def execSpawn (f : Fields) (s : State) : Res :=
  issueLanes 0xD1 f s fun c w s =>
    match c.prev with
    | some (.spawn id) =>
      match tfind s.cmds id with
      | some k => if k.status = 0 then c.block s (.spawn id) else c.done w s
      | none => c.done w s
    | _ =>
      let g := s.wg c.w.wg
      let ts := c.lanes.map fun x => (x.1, c.valA w x, c.valB w x % 2 ^ 32)
      let fault (x : Nat × Nat × Nat) : Option LaneFault :=
        match laneTarget w.pc false x.1 x.2.1 with
        | some flt => some flt
        | none =>
          if x.2.2 % 64 ≠ 0 then some (addrFault x.1 .localAlign x.2.2)
          else if x.2.2 + 64 > g.aSize then some (addrFault x.1 .aRange x.2.2)
          else none
      let fs := c.faults (ts.filterMap fault)
      if !fs.isEmpty then c.laneTrap s fs
      else if ts.isEmpty then c.done w s
      else if w.vAllot < 16 then c.trapU s .taskState
      else if s.flag c.w.wg (·.det) then c.trapU s .detForbidden
      else
        let ranges := ts.flatMap fun x => byteRange .a x.2.2 64 false
        match (if s.laneInRanges c.w.wg (aRanges ranges) then some (.overlap (aRanges ranges)) else issueHold s g.core c.w.wg (ranges.take 2) 1) with
        | some hold => c.block s hold
        | none =>
          let (id, s1) := s.newId
          let locks := ranges.map fun (sp, lo, hi, dest) => ({ space := sp, lo, hi, dest, seq := id } : RangeLock)
          let body := CmdBody.spawn (ts.map fun x => (BitVec.ofNat 57 x.2.1, x.2.2))
          let s2 := { s1 with cmds := tput s1.cmds id (mkCmd s1 c.w 10 body true locks) }.setHandle c.w (hIndex c.f.d) id
          if s2.taskRoom g.core id ts.length then c.done w s2 else c.block s2 (.spawn id)

/-- The sixteen argument words at an A address; nothing states the word copied from a poisoned one (notes/assumptions/58.md). -/
def Workgroup.argWords (g : Workgroup) (addr n : Nat) : List Word :=
  (List.range 16).map fun i =>
    if (g.aTag (addr + 4 * i) 4).isSome then Config.freeWord (n + i) else BitVec.ofNat 32 (g.aRead (addr + 4 * i) 4)

/-- TASK_PUSH (R320): the gatherer copies the records of a SPAWN in, in lane order, and the handle completes. -/
def execTaskPush (id : Nat) (s : State) : Res :=
  match tfind s.cmds id with
  | none => .next s
  | some c =>
    match c.body with
    | .spawn tasks =>
      if c.status ≠ 0 then .next s
      else if c.cancel then .next (s.complete id stCANCELLED 0 0 0)
      else if !s.startable c || !s.taskRoom c.core id tasks.length ||
        s.rangeHeld id id c (tasks.flatMap fun t => byteRange .a t.2 64 false) then .next s
      else
        let g := s.asp c.wg
        let wg := s.wg c.wg
        let origin := if wg.kind = .grid then c.wg else wg.origin
        let tag := tasks.foldl (fun acc t => lowerTag acc (g.aTag t.2 64)) none
        let new := tasks.zipIdx.map fun t =>
          ({ origin, entry := t.1.1, args := g.argWords t.1.2 (s.fresh + 16 * t.2), since := s.clock.clk, run := 0, slot := 0 } : Task)
        let s0 := if tag.isSome then { s with fresh := s.fresh + 16 * tasks.length } else s
        let s1 := (s0.modCore c.core fun k => { k with tasks := k.tasks ++ new }).modWg origin fun x => { x with tasks := x.tasks + tasks.length }
        .next (match tag with | some t => s1.complete id stPOISONED 0 t tasks.length | none => s1.complete id stOK 0 0 tasks.length)
    | _ => .next s

/-! Waves (R321, R339, R342) -/

/-- The argument words of the threads of a wave, in V0-V15. -/
def waveRegs (ts : List Task) : Table Word :=
  ts.zipIdx.foldl (fun t x => x.1.args.zipIdx.foldl (fun t y => if y.2 < 16 then tsetD 0 t (32 * y.2 + x.2) y.1 else t) t) []

/-- The lowest wave place of a run that no wave holds (R342). -/
def State.wavePlace (s : State) (run : Nat) : Nat :=
  let used := (s.runWaves run).map fun g => match g.kind with | .runWave _ j _ => j | _ => 0
  ((List.range 4).find? fun j => !used.contains j).getD 0

/-- Form a wave of the next group of tasks of a core, if it fits (R321, R342). -/
def State.formWave (s : State) (core : Nat) : State :=
  match s.waveGroup core with
  | [] => s
  | t :: ts =>
    let group := t :: ts
    let o := s.wg t.origin
    match s.launch? o.launch, s.room core (s.waveNeed core t) [] 0 with
    | some la, some (aOff, _) =>
      let run := s.runOf core t.run
      let own := match run with | some r => !r.local_ | none => true
      let j := s.wavePlace t.run
      let size := if own then waveBytes la.rec_.stack else (s.asp t.origin).aSize
      let top := match run with | some r => if r.local_ then r.arena + r.arSize - j * la.rec_.stack else size | none => size
      let warp := { newWarp la.rec_ la.ltbase t.entry group.length top with v := waveRegs group }
      let (g, s1) := s.newId
      let wg : Workgroup := { Workgroup.blank with
        launch := o.launch, part := o.part, index := o.index, gx := o.gx, gy := o.gy, gz := o.gz, core
        kind := match run with | some r => .runWave r.cmd j (group.map (·.slot)) | none => .wave
        warps := [warp], aOff := if own then aOff else 0, aSize := size, seqNo := g, origin := t.origin
        share := if own then none else some (s.home t.origin) }
      let s2 := { s1 with wgs := tput s1.wgs g wg }.modCore core fun k => { k with tasks := group.foldl List.erase k.tasks }
      s2.joinReady g
    | _, _ => s

/-- WAVE_FORM (R321): the gatherer of a core forms a full wave. -/
def execWaveForm (core : Nat) (s : State) : Res :=
  .next (if (s.waveGroup core).length = 32 then s.formWave core else s)

/-- WAVE_WAIT_EXPIRY (R321): the oldest task has waited 64 CLK ticks for others, and a smaller wave forms. -/
def execWaveWaitExpiry (core : Nat) (s : State) : Res :=
  .next (if waveDue s.clock.clk (s.waveGroup core) then s.formWave core else s)

/-! FETCHW (R318, R319) -/

/-- FETCHW. -/
def execFetchw (f : Fields) (s : State) : Res :=
  uniform 0xD3 f s fun c w x s =>
    let addr := c.valB w x % 2 ^ 32
    let g := s.asp c.w.wg
    match firstFault [(addr % 16 ≠ 0, .localAlign, addr), (addr + 16 > (s.wg c.w.wg).aSize, .aRange, addr),
        (g.full (addr + 12) || w.mail.length ≥ 4, .fetchState, 0), (s.flag c.w.wg (·.det), .detForbidden, 0)] with
    | some (cause, a) => c.trapAt s cause a
    | none =>
      if !w.released then c.block s .drain
      else
        let (id, s1) := s.newId
        let req : Fetch := { w := c.w, launch := BitVec.ofNat 32 (c.valA w x), addr }
        c.done w ({ s1 with jobs := { s1.jobs with fetches := tput s1.jobs.fetches id req } }.modWarp c.w fun w => { w with mail := w.mail ++ [id] })

/-- The next unplaced workgroup of a launch. -/
def Launch.nextIndex (la : Launch) (total : Nat) : Option Nat :=
  match la.back with
  | b :: bs => some (bs.foldl (fun m x => min m x.1) b.1)
  | [] => if la.next < total then some la.next else none

/-- The words that a request delivers, and the launch after it: MRES and the workgroup handed over. -/
def State.fetchAnswer (s : State) (part : Nat) (id : Word) : Nat × Option (Launch × Nat) :=
  match s.liveKind part 0 id with
  | none => (2, none)
  | some l =>
    match l.launch with
    | none => (2, none)
    | some la =>
      if l.cancelled then (3, none)
      else match la.nextIndex l.total with
        | none => (1, none)
        | some i => (0, some ({ la with next := if i = la.next then la.next + 1 else la.next, back := la.back.filter fun x => x.1 ≠ i }, i))

/-- The request waits: its launch may not run yet (R311). -/
def State.fetchHeld (s : State) (part : Nat) (id : Word) : Bool :=
  match s.liveKind part 0 id with
  | some l => match l.launch with | some la => !l.cancelled && !s.eligible l la | none => false
  | none => false

/-- FETCHW_DELIVERY (R318): the mailbox is written and the tag of MRES set, as one event, while the warp is on its core. -/
def execFetchwDelivery (req : Nat) (s : State) : Res :=
  match tfind s.jobs.fetches req with
  | none => .next s
  | some r =>
    match tfind s.wgs r.w.wg with
    | none => .next s
    | some wg =>
      if wg.place ≠ .resident || s.fetchHeld wg.part r.launch then .next s
      else
        let (res, got) := s.fetchAnswer wg.part r.launch
        let s1 := { s with jobs := { s.jobs with fetches := terase s.jobs.fetches req } }.modWarp r.w fun w => { w with mail := w.mail.filter (· ≠ req) }
        let deliver (s : State) (words : List Nat) : State :=
          s.modA r.w.wg fun g => (g.aPut r.addr (words.flatMap (toBytes 4))).setTag (r.addr + 12) true
        match got with
        | some (la, i) =>
          let r' := la.rec_
          let s2 := (s1.modLevel r.launch fun l => { l with launch := some la }).modWg r.w.wg fun g => { g with fetched := g.fetched ++ [(r.launch, i)] }
          .next (deliver s2 [i % r'.nx, i / r'.nx % r'.ny, i / (r'.nx * r'.ny), res])
        | none =>
          let (a, s2) := s1.freeWord
          let (b, s3) := s2.freeWord
          let (d, s4) := s3.freeWord
          .next (deliver s4 [a.toNat, b.toNat, d.toNat, res])

end Sys2Proof.Machine
end

