-- ==== Sys2Proof/Machine/Sched.lean ====
section
/-!
DEFINITION. Sched.lean: fetching an instruction (R36, R299, R356), what a waiting warp waits for (R324), the lane scheduler
of a core (R325-R330), its clock gate (R328) and its watchdogs (R331, R332).
-/
namespace Sys2Proof.Machine

/-! Fetching (R36, R55, R299, R356) -/

/-- What fetching the instruction at the PC of a warp gives. -/
inductive FetchedInstr where
  | miss (va : Nat)
  | fault (cause : Cause) (va : Nat)
  | got (i : Instr) (s : State)
  deriving DecidableEq, Repr

/-- The `n` words of code from an address on, after those in `acc`. -/
def State.fetchWords (s : State) (r : WarpRef) (w : Warp) : Nat → Nat → List DWord → FetchedInstr
  | 0, _, acc => match acc with
    | d :: rest => .got (match decodeWords d rest with | .ok i => i | .error _ => .unassignedOpcode d) s
    | [] => .got (.unassignedOpcode 0) s
  | n + 1, va, acc => match s.fetchDword r w va with
    | .miss => .miss va
    | .fault cause => .fault cause va
    | .got d s1 => s1.fetchWords r w n (va + 8) (acc ++ [d])

/-- The instruction at the PC of a warp: the words after the first are fetched when its opcode is assigned (R55). -/
def State.fetchInstr (s : State) (r : WarpRef) (w : Warp) : FetchedInstr :=
  match s.fetchDword r w w.pc.toNat with
  | .miss => .miss w.pc.toNat
  | .fault cause => .fault cause w.pc.toNat
  | .got d s1 => s1.fetchWords r w (followWords d) (w.pc.toNat + 8) [d]

/-- What comes of the turn of a warp to issue: an instruction to execute, or a state in which it does not. -/
inductive Issued where
  | run (i : Instr) (s : State)
  | held (s : State)
  deriving DecidableEq, Repr

/-- A warp of a core may run at all. -/
def Warp.runs (w : Warp) : Bool := !w.retired && !w.stopped

/-- A warp issues: an instruction that has begun goes on, else the one at its PC is fetched; at a miss the warp waits for a
page, at a fault it traps. -/
def State.issueWarp (s : State) (r : WarpRef) : Issued :=
  match s.warp? r with
  | none => .held s
  | some w =>
    if !w.runs || w.present = 0 || s.mustStop r w || (s.wg r.wg).place ≠ .resident then .held s
    else match if inProgress w.wait then w.slot else none with
    | some i => .run i { s with cur := r }
    | none => match s.fetchInstr r w with
      | .miss va => .held (s.fetchMiss r va)
      | .fault cause va =>
        .held (s.takeTrap r (max w.now w.next) { cause, info0 := BitVec.ofNat 32 va, info1 := BitVec.ofNat 32 (va / 2 ^ 32) })
      | .got i s1 => .run i { s1.modWarp r (fun w => { w with slot := some i }) with cur := r }

/-! Waits that have ended (R324) -/

/-- The wait of a warp has ended, or may be tried again. -/
def State.waitOver (s : State) (r : WarpRef) (w : Warp) : Bool :=
  match w.wait with
  | none | some .drain => true
  | some (.room what need) => s.roomFor r w what need
  | some (.overlap rs) => !s.laneInRanges r.wg rs
  | some (.token m) => (List.range 8).all fun k => !(m.getLsbD k && w.tokenBusy k)
  | some (.pending keys) => !w.isPending keys
  | some (.handle cmd _) | some (.spawn cmd) => match tfind s.cmds cmd with | some c => decide (c.status ≠ 0) | none => true
  | some (.lanes ls) => ls.all (·.finished)
  | some (.sleep _ woke) => woke
  | some (.bar b) => match tfind w.barPend b with
    | some mine => decide ((tgetD Barrier.clear (s.wg r.wg).bars b).phase > mine)
    | none => true
  | some .baton => (s.wg r.wg).baton.holder = some r.wix
  | some (.cclr _ _ done) => done
  | some (.walk _) | some (.poison ..) => false

/-- Nothing keeps the warp from starting its next instruction (R46, R51). -/
def State.ready (s : State) (r : WarpRef) : Bool :=
  match s.warp? r with
  | some w => w.runs && !s.mustStop r w && s.waitOver r w && decide (w.next ≤ w.now) && decide (w.busy ≤ w.now)
  | none => false
/-- The warp stands in a long-latency wait that has not ended. -/
def State.blockedLong (s : State) (r : WarpRef) : Bool :=
  match s.warp? r with
  | some w => w.runs && s.longWait w && !s.waitOver r w
  | none => false

/-! The scheduler of R325 -/

/-- Insert by an order. -/
def insertBy {α : Type} (le : α → α → Bool) (x : α) : List α → List α
  | [] => [x]
  | y :: ys => if le x y then x :: y :: ys else y :: insertBy le x ys
def sortBy {α : Type} (le : α → α → Bool) (l : List α) : List α := l.foldr (insertBy le) []

/-- The older of two active warps; of equals the one placed earlier (R325). -/
def State.older (s : State) (x y : WarpRef × Nat) : Bool :=
  if x.2 ≠ y.2 then x.2 < y.2
  else if (s.wg x.1.wg).seqNo ≠ (s.wg y.1.wg).seqNo then (s.wg x.1.wg).seqNo < (s.wg y.1.wg).seqNo
  else x.1.wix ≤ y.1.wix

/-- A warp woken in the cycle of its swap goes ahead of every entry whose count is below 8 (R325, R327). -/
def insertWoken (r : WarpRef) (rq : List Rq) : List Rq :=
  let first := rq.takeWhile fun x => decide (8 ≤ x.count)
  let rest := rq.drop first.length
  first ++ [{ w := r, count := 0 }] ++ rest.map fun x => if x.count < 8 then { x with count := x.count + 1 } else x

/-- The end of a lane cycle: events that have arrived put their warps into RQ, in order of arrival (R325). -/
def Sched.latch (k : Sched) (woken : List WarpRef) : Sched :=
  woken.foldl (fun k r =>
    if k.swapped.contains (r, k.cycle) then { k with rq := insertWoken r k.rq }
    else { k with rq := k.rq ++ [{ w := r, count := 0 }] }) k

/-- Free active places are filled from the head of RQ (R325). -/
def Sched.fill (k : Sched) (c : Nat) : Nat → Sched
  | 0 => k
  | n + 1 => match k.rq with
    | b :: rest => if k.active.length < 8 then ({ k with active := k.active ++ [(b.w, c)], rq := rest }).fill c n else k
    | [] => k

/-- A warp leaves the active set for the head of RQ. -/
def Sched.swap (k : Sched) (c : Nat) (a : WarpRef) : Sched :=
  match k.rq with
  | b :: rest =>
    { k with active := (k.active.filter fun x => decide (x.1 ≠ a)) ++ [(b.w, c)], rq := rest, swapped := k.swapped ++ [(a, c)], lastSwap := c }
  | [] => k

/-- The lanes that warps outside the active set hold on, until the instruction that each was issuing has passed (R14). -/
def State.ties (s : State) (k0 k1 : Sched) (c : Nat) : List Nat :=
  (k0.tied.filter fun t => decide (c < t)) ++
    ((k0.active.filter fun x => !k1.active.any fun y => y.1 = x.1).filterMap fun x => match s.warp? x.1 with
      | some w => if w.now + 1 < w.busy then some (c + (w.busy - (w.now + 1))) else none
      | none => none)

/-- The warps on a core that have not retired. -/
def State.coreWarps (s : State) (core : Nat) : List WarpRef :=
  (s.wgs.filter fun g => g.2.core = core && g.2.place = .resident).flatMap fun g =>
    (g.2.warps.zipIdx.filter fun x => !x.1.retired).map fun x => { wg := g.1, wix := x.2 }

/-- The events of these warps have arrived and are still to be latched: they are outside the active set and RQ. -/
def State.arrivals (s : State) (core : Nat) : List WarpRef :=
  let k := (s.core core).sched
  (s.coreWarps core).filter fun r => !k.active.any (fun x => x.1 = r) && !(k.rq.any fun x => x.w = r) && !k.arrived.contains r &&
    match s.warp? r with | some w => w.runs && s.waitOver r w | none => false

/-- What has arrived at a core joins the list in which it stands in order of arrival; what arrives in one CLK tick has none. -/
def State.noteArrivals (s : State) : State :=
  s.cores.foldl (fun s k => match s.arrivals k.1 with
    | [] => s
    | l => s.modCore k.1 fun k => { k with sched := { k.sched with arrived := k.sched.arrived ++ l } }) s

/-- The forced swap of R325 is due in lane cycle `c`. -/
def Sched.forceDue (k : Sched) (c : Nat) : Bool := !k.rq.isEmpty && !k.active.isEmpty && k.lastSwap + 512 ≤ c

/-- The forced swap: the oldest active warp goes to the tail of RQ. -/
def State.forced (s : State) (k : Sched) (c : Nat) : Sched :=
  if k.forceDue c then
    match sortBy s.older k.active, k.rq with
    | a :: _, b :: rest =>
      { k with active := (k.active.filter fun x => decide (x.1 ≠ a.1)) ++ [(b.w, c)], rq := rest ++ [{ w := a.1, count := 0 }], lastSwap := c }
    | _, _ => k
  else k

/-- FORCED_SWAP (R325): decided at the start of the next lane cycle. -/
def execForcedSwap (core : Nat) (s : State) : Res :=
  .next (if (s.core core).gated then s else s.modCore core fun k => { k with sched := s.forced k.sched (k.sched.cycle + 1) })

/-- The draw of the next instruction of a warp (R330), as its code stands. -/
def State.nextDraw (s : State) (r : WarpRef) : Nat :=
  match s.warp? r with
  | none => 0
  | some w => match s.fetchInstr r w with
    | .got i _ => match opcodeOf i with
      | some (op, _, f) => weightOf op f * (if isUniform ((sigOf op f).getD {}) f then 1 else (maskLanes w.active).length)
      | none => 0
    | _ => 0

/-- What the governor gives a partition of floor `floor` (R367): the floor, and of the power in force above I + F a part in
proportion to the floors; where all floors are 0 nothing states the parts. -/
def State.partPower (s : State) (floor : Nat) : Nat :=
  let sum := (s.parts.map (·.2.floor)).sum
  let above := s.power.cap - s.power.idle - sum
  if sum = 0 then above else floor + above * floor / sum

/-- The budget of a cluster in mW: its share of its partition's power, never below its partition's floor (R367, R420). -/
def State.budget (s : State) (clu : Nat) : Nat :=
  match s.parts.find? fun p => p.2.clmask.getLsbD clu with
  | some p => max (Config.budgetShare clu (s.partPower p.2.floor)) p.2.floor
  | none => Config.budgetShare clu s.power.cap

/-- The record of a cluster is above the soft limit, 90 % of its budget (R330, R421). -/
def State.overSoft (s : State) (clu : Nat) : Bool :=
  10 * Config.recordPower (s.cluster clu).record > 9 * s.budget clu

/-- The warps that start on `free` lanes, oldest first; with `pairing`, at most two of them with a draw above 64 (R330). -/
def State.pickLanes (s : State) (pairing : Bool) : Nat → Nat → List WarpRef → List WarpRef
  | _, _, [] => []
  | 0, _, _ => []
  | free + 1, heavy, r :: rs =>
    if pairing && decide (s.nextDraw r > 64) then
      if heavy ≥ 2 then s.pickLanes pairing (free + 1) heavy rs else r :: s.pickLanes pairing free (heavy + 1) rs
    else r :: s.pickLanes pairing free heavy rs

/-- One lane cycle passes for warps (R47). -/
def State.age (s : State) (rs : List WarpRef) : State := rs.foldl (fun s r => s.modWarp r fun w => { w with now := w.now + 1 }) s

/-- A lane cycle of a core under R325: events latched, swaps, forced swap, and the instructions that start. -/
def State.laneCycle (s : State) (core : Nat) : State :=
  let here := s.coreWarps core
  let k0 := (s.core core).sched
  let live (r : WarpRef) : Bool := match s.warp? r with | some w => w.runs | none => false
  let k1 := { k0.latch ((k0.arrived.filter fun r => live r && here.contains r) ++ s.arrivals core) with arrived := [] }
  let c := k0.cycle + 1
  let k2 := { k1 with active := k1.active.filter fun x => live x.1, rq := k1.rq.filter fun x => live x.w, swapped := [], cycle := c }
  let k3 := k2.fill c 8
  let met := (sortBy s.older k3.active).filter fun x => s.blockedLong x.1 && !k3.blocked.contains x.1
  let k4 := met.foldl (fun k x => k.swap c x.1) k3
  let k5 := s.forced k4 c
  let k6 := { k5 with blocked := (k5.active.map (·.1)).filter s.blockedLong, tied := s.ties k0 k5 c }
  let s1 := (s.modCore core fun k => { k with sched := k6, progress := if here.isEmpty then 0 else k.progress + 1 }).age (k6.active.map (·.1))
  let taken := (k6.active.filter fun x => match s1.warp? x.1 with | some w => decide (w.now < w.busy) | none => false).length
  let able := ((sortBy s1.older k6.active).map (·.1)).filter s1.ready
  { s1 with agenda := s1.agenda ++ (s1.pickLanes (s1.overSoft (cluOf core)) (4 - taken - k6.tied.length) 0 able).map Act.turn }

/-! Deterministic mode (R329) -/

/-- The logical wave index of a warp (R329). -/
def State.logical (s : State) (r : WarpRef) : Nat × Nat × Nat :=
  (((s.launch? (s.wg r.wg).launch).map (·.order)).getD 0, (s.wg r.wg).index, r.wix)
def logicalLe (x y : Nat × Nat × Nat) : Bool :=
  if x.1 ≠ y.1 then x.1 < y.1 else if x.2.1 ≠ y.2.1 then x.2.1 < y.2.1 else x.2.2 ≤ y.2.2

/-- The core runs workgroups in deterministic mode. -/
def State.detCore (s : State) (core : Nat) : Bool := (s.onCore core []).any fun g => s.flag g.1 (·.det)

/-- The running warp keeps the core: it has not retired and does not wait at a barrier. -/
def State.detKeeps (s : State) (r : WarpRef) : Bool :=
  match s.warp? r with
  | some w => w.runs && !(match w.wait with | some (.bar _) => !s.waitOver r w | _ => false)
  | none => false

/-- The ready warp of the lowest logical index but the yielder, or the yielder: who runs, and who is still the yielder. -/
def State.detChoose (s : State) (core : Nat) (yielder : Option WarpRef) : Option WarpRef × Option WarpRef :=
  let able := (s.coreWarps core).filter fun r => match s.warp? r with | some w => w.runs && s.waitOver r w | none => false
  match sortBy (fun x y => logicalLe (s.logical x) (s.logical y)) (able.filter fun r => some r ≠ yielder), yielder with
  | r :: _, _ => (some r, none)
  | [], some y => if able.contains y then (some y, none) else (none, yielder)
  | [], none => (none, none)

/-- The warp that runs next on a core in deterministic mode. -/
def State.detPick (s : State) (core : Nat) : Option WarpRef × Option WarpRef :=
  let k := (s.core core).sched
  match k.detRun with
  | some r => if s.detKeeps r then (some r, k.yielded) else s.detChoose core none
  | none => s.detChoose core k.yielded

/-- A lane cycle of a core in deterministic mode: at most one instruction starts. -/
def State.detCycle (s : State) (core : Nat) : State :=
  let (run, yielded) := s.detPick core
  let s1 := s.modCore core fun k =>
    { k with progress := if (s.coreWarps core).isEmpty then 0 else k.progress + 1, sched := { k.sched with cycle := k.sched.cycle + 1, detRun := run, yielded } }
  match run with
  | some r =>
    let s2 := s1.age [r]
    if s2.ready r then { s2 with agenda := s2.agenda ++ [.turn r] } else s2
  | none => s1

/-- Every warp on the core waits on a long-latency dependence. -/
def State.allWait (s : State) (core : Nat) : Bool :=
  let here := s.coreWarps core
  !here.isEmpty && here.all s.blockedLong

/-- The conditions of R328: every warp waits, no fixed-latency result is outstanding, no wave can form. -/
def State.gates (s : State) (core : Nat) : Bool :=
  let flying := (s.coreWarps core).any fun r => match s.warp? r with | some w => w.flights.any fun fl => decide (w.now < fl.avail) | none => false
  !(s.core core).gated && s.allWait core && !flying && !s.waveReady core

/-- CLOCK_GATE (R328). -/
def execClockGate (core : Nat) (s : State) : Res :=
  .next (if s.gates core then s.modCore core fun k => { k with gated := true, wakeAt := none } else s)

/-- LANE_CYCLE_SCHEDULE (R325): one lane cycle of a core whose clock runs; where the last one ended with the conditions of R328, the
clock is gated first. -/
def execLaneCycleSchedule (core : Nat) (s : State) : Res :=
  .next (if (s.core core).gated then s
    else if s.gates core then { s with agenda := .row (.clockGate core) :: s.agenda }
    else if s.detCore core then s.detCycle core else s.laneCycle core)

/-! The wake of a gated core (R328) -/

/-- The earliest SLEEP or SLEEPT target of a core. -/
def State.firstSleep (s : State) (core : Nat) : Option Nat :=
  ((s.coreWarps core).filterMap fun r => match (s.warp? r).bind (·.wait) with | some (.sleep t false) => some t | _ => none).foldl
    (fun acc t => match acc with | none => some t | some u => some (min t u)) none

/-- An event for one of its warps, or a placement, has reached a gated core. -/
def State.wakeEvent (s : State) (core : Nat) : Bool :=
  (s.coreWarps core).any fun r => match s.warp? r with | some w => w.runs && s.waitOver r w | none => false

/-- A gated core is to wake: its wake has ended, or an event or the earliest sleeper is at hand (R328). -/
def State.wakeDue (s : State) (core : Nat) : Bool :=
  let k := s.core core
  k.gated && match k.wakeAt with
    | some t => t ≤ s.clock.clk
    | none => s.wakeEvent core || (s.firstSleep core).any (· ≤ s.clock.clk + 180)

/-- CORE_WAKE (R328): a gated core starts its wake at an event, or ahead of the earliest sleeper, and runs 180 CLK ticks
later. -/
def execCoreWake (core : Nat) (s : State) : Res :=
  let clk := s.clock.clk
  .next (if !s.wakeDue core then s
    else match (s.core core).wakeAt with
      | some _ => s.modCore core fun k => { k with gated := false, wakeAt := none }
      | none =>
        let at_ := if s.wakeEvent core then clk + 180 else max ((s.firstSleep core).getD clk) clk
        s.modCore core fun k => { k with wakeAt := some at_ })

/-! Watchdogs (R331, R332) -/

/-- The least WDOG among the launches on a core; 0 means 2^32 (R310). -/
def State.coreWdog (s : State) (core : Nat) : Option Nat :=
  ((s.coreWarps core).filterMap fun r => (s.launch? (s.wg r.wg).launch).map fun la => if la.rec_.wdog = 0 then 2 ^ 32 else la.rec_.wdog).foldl
    (fun acc t => match acc with | none => some t | some u => some (min t u)) none

/-- A warp traps at the instruction it stands at, its wait withdrawn. -/
def State.watchTrap (s : State) (r : WarpRef) (cause : Cause) (info : Nat) : State :=
  match s.warp? r with
  | some w =>
    let g := s.wg r.wg
    if w.runs then
      s.takeTrap r (max w.now w.next)
        { cause, ilen := s.lengthAt g.core g.part w.pc / 8, info0 := BitVec.ofNat 32 info, info1 := BitVec.ofNat 32 (info / 2 ^ 32) }
    else s
  | none => s

/-- The progress counter of a core has reached the least WDOG of the launches on it (R331). -/
def State.stallDue (s : State) (core : Nat) : Bool := (s.coreWdog core).any (· ≤ (s.core core).progress)

/-- PROGRESS_STALL (R331). -/
def execProgressStall (core : Nat) (s : State) : Res :=
  if !s.stallDue core then .next s
  else .next ((s.coreWarps core).foldl (fun s r => s.watchTrap r .progressStall ((s.coreWdog core).getD 0 % 2 ^ 32))
    (s.modCore core fun k => { k with progress := 0 }))

/-- The warps of a launch on a core. -/
def State.launchWarps (s : State) (core : Nat) (launch : Word) : List WarpRef :=
  (s.coreWarps core).filter fun r => (s.wg r.wg).launch = launch

/-- Every warp of a launch on a core has waited for WALLNS ns (R332). -/
def State.waitDue (s : State) (core : Nat) (launch : Word) : Bool :=
  (s.launch? launch).any fun la =>
    let rs := s.launchWarps core launch
    let since := rs.foldl (fun m r => match s.warp? r with | some w => max m w.waitAt | none => m) 0
    la.rec_.wallns ≠ 0 && !rs.isEmpty && rs.all s.blockedLong && since + la.rec_.wallns ≤ s.time

/-- WAIT_LIMIT (R332). -/
def execWaitLimit (core : Nat) (launch : Word) (s : State) : Res :=
  .next (if s.waitDue core launch then
    (s.launchWarps core launch).foldl (fun s r => s.watchTrap r .waitLimit (((s.launch? launch).map (·.rec_.wallns)).getD 0)) s
  else s)

end Sys2Proof.Machine
end

