-- ==== Sys2Proof/Machine/Recursion.lean ====
section
/-!
DEFINITION. Recursion.lean: the unfolding engine (R334-R347): RUNREC, the acceptance of a run, and the end of a routine task.
-/
namespace Sys2Proof.Machine

/-- RUNREC (R335). -/
def execRunrec (f : Fields) (s : State) : Res :=
  uniform 0xD7 f s fun c w x s =>
    let a := c.valA w x
    match firstFault [gBad .g a 0, (a % 64 ≠ 0, .gAlign, a), (s.flag c.w.wg (·.det), .detForbidden, 0), (w.vAllot < 16, .taskState, 0)] with
    | some (cause, addr) => c.trapAt s cause addr
    | none => startCmd c w s 9 (.runrec a w.pc) (hIndex c.f.d) []

/-! The engine's work on the arena -/

/-- What comes of the engine's accesses: a page to wait for, an access fault, or a result. -/
inductive Eng (α : Type) where
  | miss (va : Nat)
  | fault
  | ok (a : α)
  deriving DecidableEq, Repr

def Eng.bind {α β : Type} (x : Eng α) (f : α → Eng β) : Eng β :=
  match x with
  | .miss va => .miss va
  | .fault => .fault
  | .ok a => f a

/-- A series of engine actions. -/
def engAll {α : Type} (f : State → α → Eng State) : State → List α → Eng State
  | s, [] => .ok s
  | s, x :: xs => (f s x).bind fun s1 => engAll f s1 xs

def State.cmdAt (s : State) (id : Nat) : Cmd :=
  (tfind s.cmds id).getD (mkCmd s { wg := 0, wix := 0 } 9 (.runrec 0 0) false [])
/-- The run of a command. -/
def State.run? (s : State) (id : Nat) : Option Run := s.runOf (s.cmdAt id).core id

/-- Stride, place of a slot, and place of its record area (R336). -/
def Run.stride (r : Run) : Nat := 32 + r.fs
def Run.slotAt (r : Run) (n : Nat) : Nat := r.arena + n * r.stride
def Run.areaAt (r : Run) (n : Nat) : Nat := r.slotAt n + 32

/-- Read `n` bytes of the arena, with the lowest tag. -/
def State.arenaRead (s : State) (id : Nat) (r : Run) (addr n : Nat) : Eng (List Byte × Option Nat) :=
  if r.local_ then let g := s.asp r.wg; .ok (g.aBytes addr n, g.aTag addr n)
  else
    let c := s.cmdAt id
    match s.segs c.core c.part c.tr addr n false with
    | .miss va => .miss va
    | .fault => .fault
    | .ok l => .ok (s.segRead l)

/-- Write bytes of the arena. -/
def State.arenaWrite (s : State) (id : Nat) (r : Run) (addr : Nat) (bs : List Byte) : Eng State :=
  if r.local_ then .ok (s.modA r.wg fun g => g.aPut addr bs)
  else
    let c := s.cmdAt id
    match s.segs c.core c.part c.tr addr bs.length true with
    | .miss va => .miss va
    | .fault => .fault
    | .ok l => .ok (s.segWrite l bs none)

/-- The header of a frame (R337). -/
def Frame.header (f : Frame) : List Byte :=
  toBytes 32 (f.parent.getD 0xFFFFFFFF + f.cidx % 8 * 2 ^ 32 + f.depth % 64 * 2 ^ 40 + f.nchild % 16 * 2 ^ 48 + f.ndone % 16 * 2 ^ 52 +
    f.state % 16 * 2 ^ 56 + (match f.bound with | some b => b % 2 ^ 16 | none => 0xFFFF) * 2 ^ 64)

def Run.frame (r : Run) (n : Nat) : Frame :=
  (tfind r.frames n).getD { parent := none, cidx := 0, depth := 0, nchild := 0, ndone := 0, state := 0, bound := none, kids := [] }

/-- Change a frame and write its header, whatever stands there. -/
def State.putFrame (s : State) (id slot : Nat) (f : Frame → Frame) : Eng State :=
  match s.run? id with
  | none => .ok s
  | some r =>
    let x := f (r.frame slot)
    (s.arenaWrite id r (r.slotAt slot) x.header).bind fun s1 => .ok (s1.modRun id fun r => { r with frames := tput r.frames slot x })

/-- The engine expands no more (R345). -/
def Run.stopped (r : Run) : Bool := r.failed.isSome || r.prov.isSome

/-- Frames of a level whose divide has ended, and with it their state DIVIDING (R338, R343). -/
def Run.divided (r : Run) : List Nat := r.frontier.filter fun f => (r.frame f).state = 2 && (r.frame f).bound.isNone && !r.waiting.contains f

/-- A frame of the run has failed, by a cause or by poison: the engine stops expanding and its pending tasks go; frames whose divide
has ended get no children, nor a base (R338, R345). -/
def State.runFails (s : State) (id : Nat) (cause : Option Cause) (tag : Option Nat) : Eng State :=
  let clk := s.clock.clk
  let note (r : Run) : Run :=
    { r with
      prov := lowerTag r.prov tag
      failed := match r.failed, cause with
        | none, some c => some (c, clk)
        | some (b, t), some c => some (if t = clk && c.code < b.code then c else b, t)
        | x, none => x }
  let s1 := (s.modRun id note).dropTasks fun t => t.run = id
  engAll (fun s f => s.putFrame id f fun x => { x with state := 7 }) s1 (match s1.run? id with | some r => r.divided | none => [])

/-- A frame fails. -/
def State.frameFails (s : State) (id slot : Nat) (cause : Option Cause) (tag : Option Nat) : Eng State :=
  (s.putFrame id slot fun f => { f with state := 7 }).bind fun s1 => s1.runFails id cause tag

/-- Change a frame and write its header: one that a routine has stored into leaves the run inconsistent (R337), one that carries
poison fails its frame (R345). -/
def State.setFrame (s : State) (id slot : Nat) (f : Frame → Frame) : Eng State :=
  match s.run? id with
  | none => .ok s
  | some r => (s.arenaRead id r (r.slotAt slot) 32).bind fun (bytes, tag) => match tag with
    | some _ => (s.putFrame id slot f).bind fun s1 => s1.frameFails id slot none tag
    | none => (if bytes = (r.frame slot).header then s else s.modRun id fun r => { r with tainted := true }).putFrame id slot f

/-- The lowest `n` free slots, or none where there are too few. -/
def Run.freeSlots (r : Run) (n : Nat) : Option (List Nat) :=
  let l := ((List.range (min r.slots (r.frames.length + n))).filter fun i => (tfind r.frames i).isNone).take n
  if l.length = n then some l else none

/-- The argument record of a routine task (R339). -/
def Run.args (r : Run) (slot routine : Nat) : List Word :=
  let f := r.frame slot
  let at_ := r.areaAt slot
  let kids := if routine = 2 then f.kids else []
  [BitVec.ofNat 32 at_, BitVec.ofNat 32 (if r.local_ then 0 else at_ / 2 ^ 32), BitVec.ofNat 32 slot, BitVec.ofNat 32 f.depth,
   BitVec.ofNat 32 f.cidx, BitVec.ofNat 32 routine, BitVec.ofNat 32 (if routine = 2 then f.nchild else 0), BitVec.ofNat 32 r.stride] ++
  (List.range 8).map fun i => match kids[i]? with | some k => BitVec.ofNat 32 k | none => 0xFFFFFFFF

/-- The core whose gatherer takes a task of the run (R342). -/
def State.taskCore (s : State) (id : Nat) (r : Run) : Nat :=
  let core := (s.cmdAt id).core
  if r.local_ then core else (s.mostFree ((List.range 8).map (· + 8 * cluOf core))).getD core

/-- Push the task of a routine: 0 divide, 1 base, 2 combine; the frame's state follows (R338, R339). -/
def State.pushRoutine (s : State) (id slot routine : Nat) : Eng State :=
  (s.setFrame id slot fun f => { f with state := if routine = 0 then 2 else if routine = 1 then 4 else 5 }).bind fun s1 =>
    match (s1.run? id).filter fun r => (r.frame slot).state ≠ 7 with
    | none => .ok s1
    | some r =>
      let entry := if routine = 0 then r.dive else if routine = 1 then r.basee else r.combe
      let t : Task := { origin := r.wg, entry, args := r.args slot routine, since := s1.clock.clk, run := id, slot }
      .ok (((s1.modCore (s1.taskCore id r) fun k => { k with tasks := k.tasks ++ [t] }).modWg r.wg fun g =>
        { g with tasks := g.tasks + 1 }).modRun id fun r => { r with running := r.running ++ [slot] })

/-- Allocate a frame with the argument record `arg`; a poisoned one fails it (R336, R345). -/
def State.allocFrame (s : State) (id slot : Nat) (f : Frame) (arg : List Byte) (tag : Option Nat) : Eng State :=
  match s.run? id with
  | none => .ok s
  | some r =>
    let x := { f with state := if tag.isSome then 7 else 1 }
    (s.arenaWrite id r (r.slotAt slot) (x.header ++ arg ++ List.replicate (r.fs - 64) 0)).bind fun s1 =>
      let s2 := s1.modRun id fun r => { r with frames := tput r.frames slot x, allocs := r.allocs + 1 }
      match tag with | some t => s2.runFails id none (some t) | none => .ok s2

/-- Allocate the children of a frame in the lowest free slots, as long as none fails (R340, R343, R345); a frame with children left
unallocated fails too (R338). -/
def State.allocChildren (s : State) (id slot : Nat) : Eng State :=
  match s.run? id with
  | none => .ok s
  | some r =>
    let f := r.frame slot
    match r.freeSlots f.nchild with
    | none => s.frameFails id slot (some .recurArena) none
    | some l =>
      (engAll (fun s x =>
        if (s.run? id).any Run.stopped then .ok s
        else (s.arenaRead id r (r.areaAt slot + 64 * x.2) 64).bind fun (arg, tag) =>
          s.allocFrame id x.1 { parent := some slot, cidx := x.2, depth := f.depth + 1, nchild := 0, ndone := 0, state := 1, bound := f.bound, kids := [] } arg tag)
        s l.zipIdx).bind fun s1 =>
          let made := l.filter fun i => match s1.run? id with | some r => (tfind r.frames i).isSome | none => false
          s1.setFrame id slot fun f => { f with state := if made.length = l.length then 3 else 7, kids := made }

/-- The run goes on to a level of the breadth phase, or to the depth phase (R343). -/
def State.startLevel (s : State) (id : Nat) : Eng State :=
  match s.run? id with
  | none => .ok s
  | some r =>
    if r.stopped then .ok s
    else if r.frontier.length < r.lbud && r.depth < r.swd then
      engAll (fun s f => s.pushRoutine id f 0) (s.modRun id fun r => { r with waiting := r.frontier }) r.frontier
    else
      engAll (fun s x => (s.setFrame id x.1 fun f => { f with bound := some x.2 }).bind fun s1 => s1.pushRoutine id x.1 0)
        s r.frontier.zipIdx

/-- Every divide of a level has ended: bases are pushed and children allocated in ascending slot order (R343). -/
def State.levelEnds (s : State) (id : Nat) : Eng State :=
  match s.run? id with
  | none => .ok s
  | some r =>
    let level := sortBy (fun x y => decide (x ≤ y)) r.frontier
    (engAll (fun s f => match s.run? id with
      | some r =>
        if r.stopped then s.putFrame id f fun x => { x with state := 7 }
        else if (r.frame f).nchild = 0 then s.pushRoutine id f 1
        else (s.allocChildren id f).bind fun s1 => .ok (s1.modRun id fun r => { r with frontier := r.frontier ++ (r.frame f).kids })
      | none => .ok s) (s.modRun id fun r => { r with frontier := [] }) level).bind fun s1 =>
        (s1.modRun id fun r => { r with depth := r.depth + 1 }).startLevel id

/-- A divide has ended with `c` children (R340).  Where two conditions are broken the lower cause ranks (R346), and once the run has
stopped the frame is left FAILED, since it goes no further (R338, R345). -/
def State.divideEnds (s : State) (id slot c : Nat) : Eng State :=
  match s.run? id with
  | none => .ok s
  | some r =>
    let f := r.frame slot
    let bad : Option Cause := if c > 0 && f.depth = r.maxD then some .recurDepth else if c > 8 || 64 * c > r.fs then some .recurFanout else none
    let count (x : Frame) : Frame := { x with nchild := if c ≤ 8 then c else 0 }
    match bad with
    | some cause => (s.setFrame id slot count).bind fun s1 => s1.frameFails id slot (some cause) none
    | none =>
      if r.stopped then s.setFrame id slot fun f => { count f with state := 7 }
      else
        (s.setFrame id slot count).bind fun s1 =>
          if (s1.run? id).any Run.stopped then .ok s1
          else if f.bound.isNone then
            let left := r.waiting.filter (· ≠ slot)
            let s2 := s1.modRun id fun r => { r with waiting := left }
            if left.isEmpty then s2.levelEnds id else .ok s2
          else if c = 0 then s1.pushRoutine id slot 1
          else (s1.allocChildren id slot).bind fun s2 => match s2.run? id with
            | some r => match (r.frame slot).kids, r.stopped with
              | k :: _, false => s2.pushRoutine id k 0
              | _, _ => .ok s2
            | none => .ok s2

/-- A base or a combine has ended: the frame is DONE, and its parent goes on (R338, R343). -/
def State.frameDone (s : State) (id slot : Nat) : Eng State :=
  match s.run? id with
  | none => .ok s
  | some r =>
    let f := r.frame slot
    let freed := if f.bound.isSome && f.state = 5 && !r.stopped then f.kids else []
    (engAll (fun s k => (s.setFrame id k fun x => { x with state := 0 }).bind fun s1 => .ok (s1.modRun id fun r => { r with frames := terase r.frames k }))
      s freed).bind fun s1 => (s1.setFrame id slot fun f => { f with state := 6 }).bind fun s2 =>
        match f.parent with
        | none => .ok s2
        | some p => (s2.setFrame id p fun x => { x with ndone := x.ndone + 1 }).bind fun s3 => match s3.run? id with
          | none => .ok s3
          | some r =>
            let x := r.frame p
            if r.stopped then .ok s3
            else if x.ndone = x.nchild then s3.pushRoutine id p 2
            else if x.bound.isSome then match x.kids[f.cidx + 1]? with
              | some k => s3.pushRoutine id k 0
              | none => .ok s3
            else .ok s3

/-- The run is over: its handle completes with the first status of R346 that applies, and a failure is deferred to the
issuing warp. -/
def State.finishRun (s : State) (id : Nat) : State :=
  match s.run? id with
  | none => s
  | some r =>
    let c := s.cmdAt id
    let s1 := s.modClu (cluOf c.core) fun k => { k with runs := k.runs.filter fun x => x.cmd ≠ id }
    if c.cancel then s1.complete id stCANCELLED 0 0 r.allocs
    else match r.prov, r.failed with
      | some t, _ => s1.complete id stPOISONED 0 t r.allocs
      | none, some (cause, _) =>
        let stat := if cause = .recurDepth then 11 else if cause = .recurArena then 12 else stFAULT
        (s1.complete id stat cause.code 0 r.allocs).defer (c.warpRef c.wix) cause id 0 none
      | none, none => s1.complete id stOK 0 0 r.allocs

/-- The run may complete: its root is DONE, or it has stopped or been cancelled and no task of it runs. -/
def State.runOver (s : State) (id : Nat) : Bool :=
  match s.run? id with
  | some r => r.running.isEmpty && r.ended.isEmpty && (r.stopped || (s.cmdAt id).cancel || (r.frame 0).state = 6)
  | none => false

/-! Acceptance (R334) -/

/-- The run that an object describes, or none where it breaks R334. -/
def parseObject (s : State) (c : Cmd) (id : Nat) (pc : GAddr) (o : Nat) : Option (Run × Nat) :=
  let dive := bitsOf o 0 64; let basee := bitsOf o 64 64; let combe := bitsOf o 128 64
  let arena := bitsOf o 192 64; let arSize := bitsOf o 256 32; let fs := 64 * (bitsOf o 288 3 + 1)
  let local_ := bitsOf o 312 1 = 1; let rootA := bitsOf o 384 64
  let stack := ((s.launch? (s.wg c.wg).launch).map (·.rec_.stack)).getD 0
  let slots := (arSize - if local_ then 4 * stack else 0) / (32 + fs)
  let badEntry (e : Nat) : Bool := (targetFault pc true e).isSome
  let reserved := bitsOf o 291 5 ≠ 0 || bitsOf o 302 2 ≠ 0 || bitsOf o 310 2 ≠ 0 || bitsOf o 313 7 ≠ 0 || bitsOf o 336 48 ≠ 0 || bitsOf o 448 64 ≠ 0
  let place := if local_ then arena ≥ 2 ^ 20 || arena + arSize > (s.wg c.wg).aSize else arena + arSize > 2 ^ 57
  if badEntry dive || badEntry basee || badEntry combe || reserved || place || arena % 32 ≠ 0 || rootA ≥ 2 ^ 57 || rootA % 64 ≠ 0 ||
      bitsOf o 320 16 = 0 || bitsOf o 296 6 = 0 || slots = 0 then none
  else some (
    { cmd := id, wg := c.wg, dive := BitVec.ofNat 57 dive, basee := BitVec.ofNat 57 basee, combe := BitVec.ofNat 57 combe, arena, slots, arSize, fs
      maxD := bitsOf o 296 6, swd := bitsOf o 304 6, local_, lbud := bitsOf o 320 16, frames := [], frontier := [0], depth := 0, waiting := []
      running := [], ended := [], allocs := 0, failed := none, prov := none, tainted := false }, rootA)

/-- The engine reads G bytes: the object or the root's argument record. -/
def State.engRead (s : State) (c : Cmd) (addr n : Nat) : Eng (List Byte × Option Nat) :=
  match s.segs c.core c.part c.tr addr n false with
  | .miss va => .miss va
  | .fault => .fault
  | .ok l => .ok (s.segRead l)

/-- A RUNREC whose object cannot be used. -/
def State.badObject (s : State) (id : Nat) (c : Cmd) : State :=
  (s.complete id stFAULT Cause.recurObject.code 0 0).defer (c.warpRef c.wix) .recurObject id 0 none

/-- RUNREC_ACCEPT (R334, R343): the engine of the cluster, at most eight runs at once, reads the object and pushes the root's
divide. -/
def execRunrecAccept (id : Nat) (s : State) : Res :=
  match tfind s.cmds id with
  | none => .next s
  | some c =>
    match c.body with
    | .runrec obj pc =>
      if c.status ≠ 0 || c.walk.isSome || (s.run? id).isSome || !s.startable c then .next s
      else if c.cancel then .next (s.complete id stCANCELLED 0 0 0)
      else if (s.cluster (cluOf c.core)).runs.length ≥ 8 then .next s
      else match s.engRead c obj 64 with
        | .miss va => .next (s.cmdMiss id c va true)
        | .fault => .next (s.badObject id c)
        | .ok (_, some tag) => .next (s.complete id stPOISONED 0 tag 0)
        | .ok (o, none) =>
          match parseObject s c id pc (ofBytes o) with
          | none => .next (s.badObject id c)
          | some (run, rootA) =>
            let root : Frame := { parent := none, cidx := 0, depth := 0, nchild := 0, ndone := 0, state := 1, bound := none, kids := [] }
            let s1 := s.modClu (cluOf c.core) fun k => { k with runs := k.runs ++ [run] }
            match (s.engRead c rootA 64).bind fun (arg, tag) => (s1.allocFrame id 0 root arg tag).bind fun s2 => s2.startLevel id with
            | .miss va => .next (s.cmdMiss id c va true)
            | .fault => .next (s.badObject id c)
            | .ok s2 => .next (if s2.runOver id then s2.finishRun id else s2)
    | _ => .next s

/-! The end of a routine task (R340, R343, R345) -/

/-- What the end of a task does to the run; `v0` is the lane's V0, or a mark.  The frames of a cancelled run stand as left (R346). -/
def State.taskEnds (s : State) (id slot v0 : Nat) : Eng State :=
  match s.run? id with
  | none => .ok s
  | some r =>
    let f := r.frame slot
    if (s.cmdAt id).cancel || v0 = 2 ^ 34 || f.state = 0 || f.state = 7 then .ok s
    else if v0 = 2 ^ 33 then
      s.frameFails id slot (some .recurTask) none
    else (s.arenaRead id r (r.slotAt slot) 32).bind fun (bytes, tag) => match tag with
      | some t => s.frameFails id slot none (some t)
      | none =>
        let bad := r.tainted || bytes ≠ f.header
        let (free, s1) := if bad then s.freeWord else (0, s)
        let s2 := s1.modRun id fun r => { r with tainted := bad }
        if f.state = 2 then s2.divideEnds id slot (if bad then free.toNat else v0) else s2.frameDone id slot

/-- ROUTINE_TASK_END (R340): a task of a frame has ended, and the engine advances the frame; a run that is over completes. -/
def execRoutineTaskEnd (id slot : Nat) (s : State) : Res :=
  match s.run? id with
  | none => .next s
  | some r =>
    let c := s.cmdAt id
    if c.walk.isSome then .next s
    else match r.ended.find? fun x => x.1 = slot with
      | none => .next (if s.runOver id then s.finishRun id else s)
      | some e =>
        let s1 := s.modRun id fun r => { r with ended := r.ended.erase e, running := r.running.erase slot }
        match s1.taskEnds id slot e.2 with
        | .miss va => .next (s.cmdMiss id c va true)
        | .fault => .next (match s1.runFails id (some .recurObject) none with
          | .ok s2 => if s2.runOver id then s2.finishRun id else s2
          | _ => s1)
        | .ok s2 => .next (if s2.runOver id then s2.finishRun id else s2)

end Sys2Proof.Machine
end

