-- ==== Sys2Proof/Machine/System.lean ====
section
/-!
DEFINITION. System.lean: the system instructions, opcodes 0xE0-0xE6 but CODEFENCE (R378-R382), and the checks against silent
errors, 0xD8 and 0xD9 (R396-R398).
-/
namespace Sys2Proof.Machine

/-! Special registers (R23, R379) -/

/-- The value that SRD reads at lane cycle `at_` for thread `t` (R23-R26). -/
def State.special (s : State) (r : WarpRef) (w : Warp) (code t at_ : Nat) : Nat :=
  let g := s.wg r.wg
  let rec_ := (s.launch? g.launch).map (·.rec_)
  match code with
  | 0x140 => w.active.toNat
  | 0x141 => w.xi.toNat
  | 0x142 => s.clock.clk % 2 ^ 64
  | 0x143 => s.time
  | 0x144 => t
  | 0x145 => r.wix
  | 0x146 => g.gx
  | 0x147 => g.gy
  | 0x148 => g.gz
  | 0x149 => (rec_.map (·.nx)).getD 0
  | 0x14A => (rec_.map (·.ny)).getD 0
  | 0x14B => (rec_.map (·.nz)).getD 0
  | 0x14C => w.cwb
  | 0x14D => w.cwl
  | 0x14E => g.core
  | 0x14F => cluOf g.core
  | 0x150 => dieOf (cluOf g.core)
  | 0x151 => g.part
  | 0x152 => if s.flag r.wg (·.det) then 1 else 0
  | 0x153 => (w.flagsIn.foldl (fun st fl => if fl.avail ≤ at_ then st ||| fl.flags else st) w.status).toNat
  | 0x154 => wrapTo 32 (asI 8 w.tbase.toNat)
  | _ => 0

/-- SRD (R379). -/
def execSrd (f : Fields) (s : State) : Res :=
  issue 0xE0 f s fun c w s =>
    let w1 := c.lanes.foldl (fun acc x =>
      acc.putResult (c.dest w x.1) (s.special c.w w c.f.a.toNat x.1 (c.readTime x.2)) 0 (c.readTime x.2 + 4)) w
    c.done w (s.setWarp c.w w1)

/-- SRD.FRAME (R379). -/
def execSrdFrame (f : Fields) (s : State) : Res :=
  uniform 0xE0 f s fun c w x s =>
    let k := c.valA w x % 2 ^ 32
    match w.frame with
    | some fr =>
      if k > 31 then c.trapU s .trapState
      else c.done w (s.modWarp c.w fun w => w.putResult (c.dest w x.1) (frameWord fr k).toNat 0 (c.start + 4))
    | none => c.trapU s .trapState

/-- What SWR leaves in a special register (R379); the registers that are not writable ignore it (R6). -/
def Warp.writeSpecial (w : Warp) (code : Nat) (v : Word) : Warp :=
  match code with
  | 0x140 => { w with em := v &&& w.present }
  | 0x141 => { w with xi := v }
  | 0x153 => { w with status := w.status &&& ~~~v }
  | 0x154 => { w with tbase := v.truncate 8 }
  | _ => w

/-- SWR (R379); an EM that becomes 0 ends the path (R289). -/
def execSwr (f : Fields) (s : State) : Res :=
  uniform 0xE1 f s fun c w x s =>
    let w1 := w.writeSpecial c.f.d.toNat (BitVec.ofNat 32 (c.valA w x))
    let ended := w.active ≠ 0 && w1.active = 0
    let s1 := c.finish (s.setWarp c.w w1) (c.fall w) ended 0
    .next (if ended then match s1.warp? c.w with
      | some k => if k.retired then s1 else s1.endPath c.w
      | none => s1 else s1)

/-- The bits of a word of the trap frame that may be written (R375). -/
def frameMask (k : Nat) : Word :=
  if k = 4 || k = 5 || k = 6 || k = 7 || k = 8 || k = 10 || k = 11 then 0xFFFFFFFF
  else if k = 9 then 0xFF
  else if 16 ≤ k && k ≤ 23 then 0x7F7F7F7F
  else 0

/-- SWR.FRAME (R379). -/
def execSwrFrame (f : Fields) (s : State) : Res :=
  uniform 0xE1 f s fun c w x s =>
    let k := c.valA w x % 2 ^ 32
    let v := BitVec.ofNat 32 (c.valB w x)
    match w.frame with
    | some fr =>
      if k > 31 then c.trapU s .trapState
      else
        let m := frameMask k
        c.done w (s.modWarp c.w fun w => { w with frame := some (fr.set k ((frameWord fr k &&& ~~~m) ||| (v &&& m))) })
    | none => c.trapU s .trapState

/-! Traps asked for, and the return (R380, R381) -/

/-- TRAP (R380). -/
def execTrap (f : Fields) (s : State) : Res :=
  uniform 0xE2 f s fun c w x s => c.trap s { cause := .trapSw, after := true, info0 := BitVec.ofNat 32 (c.valA w x) }

/-- BRK (R380). -/
def execBrk (f : Fields) (s : State) : Res :=
  uniform 0xE4 f s fun c _ _ s => c.trap s { cause := .brk, after := true }

/-- TRAPRET.RESUME (R381). -/
def execTrapretResume (f : Fields) (s : State) : Res :=
  uniform 0xE3 f s fun c w _ s =>
    match w.frame with
    | none => c.trapU s .trapState
    | some fr =>
      if resumable w fr then
        let w1 := w.resume fr
        .next ((c.finish (s.setWarp c.w w1) w1.pc true 0).modWarp c.w fun k => { k with doneLanes := w1.doneLanes, kept := w1.kept })
      else .next ((c.charge s 0).kill c.w.wg Cause.handlerBad.code w.pc.toNat)

/-- TRAPRET.KILL (R381): the kill record carries the CAUSE of the frame. -/
def execTrapretKill (f : Fields) (s : State) : Res :=
  uniform 0xE3 f s fun c w _ s =>
    match w.frame with
    | none => c.trapU s .trapState
    | some fr => .next ((c.charge s 0).kill c.w.wg (bitsOf (frameWord fr 0).toNat 0 8) w.pc.toNat)

/-! PMARK (R382) -/

/-- The lane cycle by which every fixed-latency result and flag of a warp is available. -/
def Warp.settledBy (w : Warp) : Nat := (w.flights.map (·.avail) ++ w.flagsIn.map (·.avail)).foldl max 0

/-- PMARK (R382): it waits for the earlier results and accesses of the warp, then marks. -/
def execPmark (f : Fields) (s : State) : Res :=
  uniform 0xE6 f s fun c w x s =>
    if !w.earlier.isEmpty then c.block s .drain
    else if w.settledBy > c.start then .next (s.modWarp c.w fun w => { w with next := max w.next w.settledBy })
    else
      let k := c.valA w x % 2 ^ 32 % 8
      let s1 := s.modClu (cluOf (s.wg c.w.wg).core) fun q => { q with marks := tsetD 0 q.marks k (tgetD 0 q.marks k + 1) }
      let dest := c.dest w x.1
      if dest.isEmpty then c.done w s1
      else
        let (id, s2) := s1.newId
        c.done w (s2.modWarp c.w fun w => (w.expect id dest 1 false).deliver id dest (s.clock.clk % 2 ^ 64))

/-! Checks against silent errors (R396-R398) -/

/-- One step of the checksum (R397). -/
def csaccStep (c : DWord) (v : Nat) : DWord :=
  let x := (c ^^^ BitVec.ofNat 64 v) * 0xA5B35C471D9E6F2B
  x ^^^ (x >>> 32)

/-- CSACC (R397). -/
def execCsacc (f : Fields) (s : State) : Res :=
  issue 0xD8 f s fun c w s =>
    match c.lanes with
    | [] => c.done w s
    | x :: _ =>
      let d := c.lanes.foldl (fun acc y => csaccStep acc (c.valA w y)) (BitVec.ofNat 64 (readKeys w (c.dest w x.1) c.start).1)
      let (id, s1) := s.newId
      c.done w (s1.modWarp c.w fun w => (w.expect id (c.dest w x.1) 1 false).deliver id (c.dest w x.1) d.toNat)

/-- The value of a finite F32 in units of 2^-149. -/
def f32Units : FpVal → Option Int
  | .zero _ => some 0
  | .fin neg m e => some (scaled neg m e (-149))
  | _ => none

/-- The test of CHECK.NEAR (R398): bit-identical, both NaN, or within the tolerance. -/
def nearOk (a b c : Nat) : Bool :=
  let x := unpack fmtF32 a
  let y := unpack fmtF32 b
  let t := unpack fmtF32 c
  if a = b || (isNan fmtF32 a && isNan fmtF32 b) then true
  else if isNan fmtF32 a || isNan fmtF32 b then false
  else match t with
    | .nan _ => false
    | .inf neg => !neg
    | _ => match f32Units x, f32Units y, f32Units t with
      | some x, some y, some t => decide (0 ≤ t) && decide ((x - y).natAbs ≤ t.natAbs)
      | _, _, _ => false

/-- The operands of CHECK: FP32 under .NEAR, with immediates as in R90. -/
def Ctx.checkVals (c : Ctx) (w : Warp) (x : Nat × Nat) : Nat × Nat × Nat :=
  if c.f.m = 2 then (c.elemA w x fmtF32 32 0, c.elemB w x fmtF32 32 0, c.elemC w x fmtF32 32 0) else (c.valA w x, c.valB w x, 0)

/-- CHECK (R398). -/
def execCheck (f : Fields) (s : State) : Res :=
  issueLanes 0xD9 f s fun c w s =>
    let bad (x : Nat × Nat) : Bool :=
      let (a, b, t) := c.checkVals w x
      if c.f.m = 2 then !nearOk a b t else a ≠ b
    let fault (x : Nat × Nat) : LaneFault :=
      let (a, b, _) := c.checkVals w x
      { lane := x.1, cause := if c.f.m = 2 then .checkNear else .checkEq, info0 := BitVec.ofNat 32 a, info1 := BitVec.ofNat 32 (a / 2 ^ 32)
        info2 := BitVec.ofNat 32 b }
    let fs := c.faults ((c.lanes.filter bad).map fault)
    if fs.isEmpty then c.done w s else c.laneTrap s fs

end Sys2Proof.Machine
end

