-- ==== Sys2Proof/Machine/Isolation.lean ====
section
/-!
DEFINITION. Isolation.lean: page walks and their faults (R354-R359), the control queues and their commands (R349, R360-R368),
the module event queue (R370), and the accesses of the host and of peer modules (R167, R369).
-/
namespace Sys2Proof.Machine

/-! Page walks (R354-R358) -/

/-- A translation joins a TLB of `cap` entries; a full one gives up the entry numbered `victim` (R355). -/
def tlbPut (cap : Nat) (l : List Tlb) (t : Tlb) (victim : Nat) : List Tlb :=
  let rest := l.filter fun x => !(x.part = t.part && x.va / 2 ^ max x.bits t.bits = t.va / 2 ^ max x.bits t.bits)
  if rest.length < cap then rest ++ [t] else rest.eraseIdx (victim % cap) ++ [t]

/-- A translation joins the TLB of a cluster. -/
def State.fillCluster (s : State) (clu : Nat) (t : Tlb) : State :=
  let (v, s1) := if (s.cluster clu).tlb.length < 8192 then (0, s) else s.pick 8192
  s1.modClu clu fun k => { k with tlb := tlbPut 8192 k.tlb t v }
/-- A translation joins the TLBs of a core and of its cluster. -/
def State.fillCore (s : State) (core : Nat) (t : Tlb) : State :=
  let (v, s1) := if (s.core core).tlb.length < 512 then (0, s) else s.pick 512
  (s1.modCore core fun k => { k with tlb := tlbPut 512 k.tlb t v }).fillCluster (cluOf core) t

/-- A translation fills the TLBs of a requester: none for the engines outside the clusters, the cluster's for its unfolding
engine (R355, R267, R334). -/
def State.fillFor (s : State) (t : Tlb) : Joiner → State
  | .warp w => s.fillCore (s.wg w.wg).core t
  | .cmd c => match tfind s.cmds c with
    | some k => if k.kind = 8 || k.kind = 10 then s else if k.kind = 9 then s.fillCluster (cluOf k.core) t else s.fillCore k.core t
    | none => s

/-- The requesters of a walk go on once no other walk keeps them, with an outcome noted for its page where there is one. -/
def State.endWalk (s : State) (id : Nat) (k : Walk) (o : Option TrOutcome) : State :=
  let note (l : List (Nat × TrOutcome)) : List (Nat × TrOutcome) := match o with | some x => (pageOf k.va, x) :: l | none => l
  let one (s : State) (j : Joiner) : State := match j with
    | .warp w => s.modWarp w fun x => match x.wait with
      | some (.walk ids) =>
        if ids.contains id then
          let rest := ids.filter (· ≠ id)
          { x with wait := if rest.isEmpty then none else some (.walk rest), tr := note x.tr }
        else x
      | _ => x
    | .cmd c => s.modCmd c fun x => if x.walk = some id then { x with walk := none, tr := note x.tr } else x
  let s1 := k.joined.foldl one s
  { s1 with walks := terase s1.walks id }

/-- A walk has failed: the park of its warps begins (R332, R357). -/
def State.walkFaults (s : State) (id : Nat) (k : Walk) : State :=
  k.joined.foldl (fun s j => match j with | .warp w => s.modWarp w fun x => { x with waitAt := s.time } | .cmd _ => s)
    { s with walks := tmodify s.walks id fun k => { k with state := .faulted } }

/-- PAGE_WALK_COMPLETE (R354, R355): a walk ends with a page, with BAD_PTE, or with a page fault. -/
def execPageWalkComplete (id : Nat) (s : State) : Res :=
  match tfind s.walks id with
  | none => .next s
  | some k =>
    if k.state ≠ .walking then .next s
    else match s.walk k.part k.va with
      | .page bits e =>
        .next ((k.joined.foldl (fun s j => s.fillFor { part := k.part, va := k.va / 2 ^ bits * 2 ^ bits, bits, pte := e } j) s).endWalk id k none)
      | .bad => .next (s.endWalk id k (some .badPte))
      | .fault => .next (s.walkFaults id k)

/-- The bytes of a fault record (R357). -/
def faultBytes (k : Walk) (fid : Nat) : List Byte :=
  toBytes 32 (k.va + k.kind * 2 ^ 64 + k.part * 2 ^ 72 + k.joined.length % 2 ^ 16 * 2 ^ 80 + fid % 2 ^ 32 * 2 ^ 96 + k.core * 2 ^ 128)

/-- FAULT_RECORD_WRITE (R357, R358): a failed walk writes its record, unless the queue is full. -/
def execFaultRecordWrite (id : Nat) (s : State) : Res :=
  match tfind s.walks id with
  | none => .next s
  | some k => match tfind s.parts k.part with
    | none => .next s
    | some p =>
      if k.state ≠ .faulted || !s.ringRoom (some p) p.fq 32 then .next s
      else
        let s1 := s.ringPut p.fq (faultBytes k p.nextFid)
        .next { s1 with
          walks := tmodify s1.walks id fun k => { k with state := .parked p.nextFid }
          parts := tmodify s1.parts k.part fun p => { p with nextFid := (p.nextFid + 1) % 2 ^ 32 } }

/-! Control queues (R361-R363) -/

def stDONE : Nat := 1
def stCAP_CLAMPED : Nat := 2
def stCAP_REFUSED : Nat := 3
def stBAD_COMMAND : Nat := 4
def stBAD_CONFIG : Nat := 5
def stBUSY : Nat := 6
def stBAD_KEY : Nat := 7

/-- The header of a control queue and what the device holds of it, once it is enabled: that of partition `q`, or, for 8, of the
module manager (R361, R414, R416). -/
def State.ctrlHead (s : State) (q : Nat) : Option (Nat × Ring) :=
  (if q = 8 then some Config.moduleQueue else (tfind s.parts q).map (·.cq)).bind fun hdr => (tfind s.jobs.ring (64 + q)).map fun r => (hdr, r)

/-- Address and content of the record that is due in a control queue. -/
def State.ctrlRec (s : State) (q : Nat) : Option (Nat × Nat) :=
  (s.ctrlHead q).bind fun (hdr, r) =>
    let pa := hdr + 32 + 64 * (r.head % r.size)
    if r.head = s.ringTail hdr then none else some (pa, ofBytes (s.view none pa 64))

/-- The outcome of the record that is due: its STATUS is written, then HEAD advances (R361). -/
def State.ctrlDone (s : State) (q status : Nat) : State :=
  match s.ctrlHead q, s.ctrlRec q with
  | some (hdr, r), some (pa, _) =>
    let head := (r.head + 1) % 2 ^ 32
    let s1 := (s.gWrite none (pa + 4) (toBytes 4 status)).gWrite none (hdr + 4) (toBytes 4 head)
    { s1 with jobs := { s1.jobs with ring := tput s1.jobs.ring (64 + q) { r with head } } }
  | _, _ => s

def ctrlCmd (r : Nat) : Nat := bitsOf r 0 8

/-- The record has bits set outside its fields, given with their lowest bits and lengths. -/
def argsBad (r : Nat) (fields : List (Nat × Nat)) : Bool :=
  bitsOf r 8 8 ≠ 0 || bitsOf r 64 448 ≠ (fields.map fun x => bitsOf r x.1 x.2 * 2 ^ (x.1 - 64)).sum

/-- The commands of a queue (R362). -/
def ctrlKnown (q cmd : Nat) : Bool := if q = 8 then cmd = 0x10 || cmd = 0x11 else 1 ≤ cmd && cmd ≤ 5

/-- Execute the record due in a queue if it holds `cmd`; `go` gives the outcome, or none while the command waits. -/
def State.ctrlRun (s : State) (q cmd : Nat) (fields : List (Nat × Nat)) (go : Nat → State → Option Nat × State) : State :=
  match s.ctrlRec q with
  | none => s
  | some (_, r) =>
    if ctrlCmd r ≠ cmd then s
    else if argsBad r fields then s.ctrlDone q stBAD_COMMAND
    else match go r s with
      | (some st, s1) => s1.ctrlDone q st
      | (none, s1) => s1

/-- A record whose CMD names no command of its queue (R362). -/
def State.ctrlOther (s : State) (q : Nat) : State :=
  match s.ctrlRec q with
  | some (_, r) => if ctrlKnown q (ctrlCmd r) then s else s.ctrlDone q stBAD_COMMAND
  | none => s

/-- A key slot of the partition. -/
def Partition.hasSlot (p : Partition) (k : Nat) : Bool := p.kslot0 ≤ k && k < p.kslot0 + p.kslotN

/-! INVAL and RESOLVE (R359, R360) -/

/-- Bytes [lo, hi) of an address context. -/
def tlbMeets (part lo hi : Nat) (t : Tlb) : Bool := t.part = part && t.va < hi && lo < t.va + 2 ^ t.bits

/-- The cached translations of a range go from every TLB. -/
def State.dropTlbs (s : State) (part lo hi : Nat) : State :=
  { s with
    cores := s.cores.map fun (i, k) => (i, { k with tlb := k.tlb.filter fun t => !tlbMeets part lo hi t })
    clus := s.clus.map fun (i, k) => (i, { k with tlb := k.tlb.filter fun t => !tlbMeets part lo hi t }) }

/-- An access that used a translation of a range has not been performed: one on its way, or that of a lane that waits at its
location. -/
def State.accessIn (s : State) (part lo hi : Nat) : Bool :=
  s.wgs.any fun g => g.2.part = part && g.2.warps.any fun w =>
    (w.accs.any fun a => a.space = .g && a.va < hi && lo < a.va + a.bytes) ||
    match w.wait with
    | some (.lanes ls) => ls.any fun l => !l.finished && (match l.kind with | .waita .. | .qwait => decide (l.va < hi && lo < l.va + 32) | _ => false)
    | _ => false

/-- INVAL (R360): the translations go first; DONE waits for the accesses that used them, on the whole 2 MiB of any such page
(notes/assumptions/81.md). -/
def execInval (part : Nat) (s : State) : Res :=
  .next (s.ctrlRun part 1 [(64, 64), (128, 32)] fun r s =>
    let n := bitsOf r 128 32
    let lo := if n = 0 then 0 else bitsOf r 64 64 / 65536 * 65536
    let hi := if n = 0 then 2 ^ 57 else lo + n * 65536
    let s1 := s.dropTlbs part lo hi
    (if s1.accessIn part (lo / 2 ^ 21 * 2 ^ 21) ((hi + 2 ^ 21 - 1) / 2 ^ 21 * 2 ^ 21) then none else some stDONE, s1))

/-- Accesses of a warp that meet poison, those of its first instruction that has any. -/
def State.poisonedAccs (s : State) (r : WarpRef) (w : Warp) : List Access :=
  let core := (s.wg r.wg).core
  let bad := w.accs.filter fun a => if a.space = .w then (s.wTag core a.va).isSome else (s.accPoison r a).isSome
  bad.filter fun a => some a.inst = bad.head?.map (·.inst)

/-- The warp traps where it stands with 0x25 in each lane, at the address of the first (R359, R390). -/
def State.refuseLanes (s : State) (r : WarpRef) : List (Nat × Nat) → State
  | [] => s
  | (lane, va) :: more =>
    let g := s.wg r.wg
    match s.warp? r with
    | some w => s.takeTrap r (max w.now w.next)
        { cause := .gRefused, lane, mask := laneMask (lane :: more.map (·.1)), ilen := s.lengthAt g.core g.part w.pc / 8
          info0 := BitVec.ofNat 32 va, info1 := BitVec.ofNat 32 (va / 2 ^ 32) }
    | none => s

/-- What met its poison only when it was performed, or in a waiting lane, is refused: it performs nothing, and each of its lanes
raises 0x25 (R390; notes/assumptions/9.md). -/
def State.refusePoisoned (s : State) (r : WarpRef) (w : Warp) : State :=
  match s.poisonedAccs r w with
  | [] => match w.wait with
    | some (.lanes ls) => s.refuseLanes r ((ls.filter fun l => !l.finished && (s.lanePoison r l).isSome).map fun l => (l.lane, l.addr))
    | _ => s
  | bad =>
    let w1 := bad.foldl (fun w a => w.endPend a.pend) { w with accs := w.accs.filter fun x => !bad.contains x, wait := none }
    let s1 := (s.setWarp r w1).modCore (s.wg r.wg).core fun k => { k with reads := k.reads.filter fun x =>
      !(bad.any fun a => a.space = .w && x.w = some (r, a.pend)) }
    s1.refuseLanes r (bad.map fun a => (a.lane, a.va))

/-- The warp parked on poison under a fault id goes on: it replays its load, or finds it refused (R390).  Reads that waited for a
step boundary are served where no run holds their mat any longer. -/
def State.unpark (s : State) (part fid : Nat) (refuse : Bool) : State :=
  let ws := s.errs.parked.filter fun x => x.1 = part && x.2.1 = fid
  let s1 := { s with errs := { s.errs with parked := s.errs.parked.filter fun x => !(x.1 = part && x.2.1 = fid) } }
  ws.foldl (fun (s : State) x =>
    let r := x.2.2
    match s.warp? r with
    | some w =>
      let core := (s.wg r.wg).core
      let s2 := match w.wait, refuse with
        | some (.poison _ (k :: ks)), _ => s.setWarp r { w with wait := none, tr := if refuse then (k :: ks).map (fun x => (x, TrOutcome.refused)) ++ w.tr else w.tr }
        | some (.poison _ []), false => s.setWarp r { w with wait := none }
        | _, true => s.refusePoisoned r w
        | _, false => s
      s2.readsFree core ((s2.core core).reads.map GateRead.mat).eraseDups
    | none => s) s1

/-- RESOLVE (R359): retry walks again, refuse ends the wait of every requester. -/
def execResolve (part : Nat) (s : State) : Res :=
  .next (s.ctrlRun part 2 [(64, 32), (96, 1)] fun r s =>
    let fid := bitsOf r 64 32
    let refuse := bitsOf r 96 1 = 1
    match s.walks.find? fun x => x.2.part = part && x.2.state = .parked fid with
    | some (id, k) =>
      if refuse then (some stDONE, s.endWalk id k (some .refused))
      else (some stDONE, { s with walks := tmodify s.walks id fun k => { k with state := .walking } })
    | none =>
      if s.errs.parked.any fun x => x.1 = part && x.2.1 = fid then (some stDONE, s.unpark part fid refuse)
      else (some stBAD_COMMAND, s))

/-! Keys (R365) -/

/-- KEYLOAD. -/
def execKeyload (part : Nat) (s : State) : Res :=
  .next (s.ctrlRun part 3 [(64, 8), (128, 64)] fun r s =>
    let slot := bitsOf r 64 8
    let pa := bitsOf r 128 64
    match tfind s.parts part with
    | none => (some stBAD_COMMAND, s)
    | some p =>
      if !p.hasSlot slot || !p.holds pa 72 then (some stBAD_COMMAND, s)
      else match keyUnwrap (toBytes 32 p.kek.toNat) (s.view none pa 72) with
        | none => (some stBAD_KEY, s)
        | some k => (some stDONE, { s with keys := tsetD 0 s.keys slot (BitVec.ofNat 512 (ofBytes k)) }))

/-- KEYCLR: a cleared slot holds an all-zero key. -/
def execKeyclr (part : Nat) (s : State) : Res :=
  .next (s.ctrlRun part 4 [(64, 8)] fun r s =>
    let slot := bitsOf r 64 8
    if (tfind s.parts part).any (·.hasSlot slot) then (some stDONE, { s with keys := terase s.keys slot }) else (some stBAD_COMMAND, s))

/-! Attestation (R366) -/

/-- Bytes 0-415 of a report: what is signed. -/
def State.reportBody (s : State) (part : Nat) (p : Partition) (nonce : List Byte) : List Byte :=
  toBytes 4 1 ++ toBytes 4 0xB1 ++ toBytes 8 Config.moduleSerial.toNat ++ toBytes 16 part ++
  toBytes 48 s.boot.mboot.toNat ++ toBytes 48 s.boot.mfirm.toNat ++ toBytes 48 p.hashCfg.toNat ++
  sha384 (p.frames.flatMap (toBytes 4)) ++ nonce ++ toBytes 8 s.time ++ List.replicate 136 0

/-- SIGR and SIGS over the bytes of a report: ECDSA under the device identity key (R366). -/
def signReport (body : List Byte) : List Byte :=
  let z := BitVec.ofNat 384 (ofBytes (sha384 body).reverse)
  let k := 1 + (Config.signNonce z).toNat % (curveN - 1)
  let (r, sg) := ecdsaSign (Config.identityKey.toNat % curveN) k z.toNat
  (toBytes 48 r).reverse ++ (toBytes 48 sg).reverse

/-- ATTEST. -/
def execAttest (part : Nat) (s : State) : Res :=
  .next (s.ctrlRun part 5 [(64, 64), (128, 64)] fun r s =>
    let nonce := bitsOf r 64 64
    let dest := bitsOf r 128 64
    match tfind s.parts part with
    | none => (some stBAD_COMMAND, s)
    | some p =>
      if !p.holds nonce 48 || !p.holds dest 512 || dest % 64 ≠ 0 then (some stBAD_COMMAND, s)
      else
        let body := s.reportBody part p (s.view none nonce 48)
        (some stDONE, s.gWrite none dest (body ++ signReport body)))

/-! Partitions (R349, R416) -/

/-- The frames of the save pool (R387). -/
def poolFrame (f : Nat) : Bool := 0x3F800 ≤ f && f ≤ 0x3FFFF

/-- The descriptor as a number, with the frame list it names. -/
def parsePartition (d : Nat) (frames : List Nat) (hash : BitVec 384) : Partition :=
  { clmask := BitVec.ofNat 48 (bitsOf d 16 48), qmask := BitVec.ofNat 64 (bitsOf d 64 64), frames, kslot0 := bitsOf d 224 8
    kslotN := bitsOf d 232 9, wshare := bitsOf d 256 16, floor := bitsOf d 288 32, ctxroot := bitsOf d 320 64, fq := bitsOf d 384 64
    cq := bitsOf d 448 64, kek := BitVec.ofNat 256 (bitsOf d 512 256), tmask := BitVec.ofNat 64 (bitsOf d 768 64), hashCfg := hash, nextFid := 0 }

/-- Two partitions share something (R349). -/
def Partition.shares (x y : Partition) : Bool :=
  x.clmask &&& y.clmask ≠ 0 || x.qmask &&& y.qmask ≠ 0 || x.tmask &&& y.tmask ≠ 0 || x.frames.any y.frames.contains ||
  (x.kslotN ≠ 0 && y.kslotN ≠ 0 && x.kslot0 < y.kslot0 + y.kslotN && y.kslot0 < x.kslot0 + x.kslotN)

/-- Bits of the descriptor that must be 0 are set, or PART names no partition. -/
def descriptorBad (d : Nat) : Bool :=
  bitsOf d 0 8 > 7 || bitsOf d 8 8 ≠ 0 || bitsOf d 241 15 ≠ 0 || bitsOf d 272 16 ≠ 0 || d / 2 ^ 832 ≠ 0

/-- A descriptor that creates a partition breaks a condition of R349 or R387. -/
def State.configBad (s : State) (part : Nat) (p : Partition) : Bool :=
  let others := (s.parts.filter fun x => x.1 ≠ part).map (·.2)
  p.kslot0 + p.kslotN > 256 || others.any p.shares || (others.map (·.wshare)).sum + p.wshare > 512 ||
  (others.map (·.floor)).sum + p.floor > s.power.req || p.frames.any (fun f => f ≥ 262144 || poolFrame f) ||
  p.ctxroot % 32768 ≠ 0 || p.fq % 32 ≠ 0 || p.cq % 32 ≠ 0 || !p.holds p.ctxroot 32768 || !p.holds p.fq 32 || !p.holds p.cq 32

/-- A partition has a level, or a workgroup, that lives. -/
def State.liveJob (s : State) (part : Nat) : Bool := s.levels.any (fun l => l.2.part = part) || s.wgs.any fun g => g.2.part = part

/-- A core that leaves its partition is cleared; its attic cells are written with it. -/
def Core.cleared (k : Core) (clk : Int) : Core :=
  { k with c := [], cTag := [], attic := [], wiped := clk, gates := k.gates.map fun (i, a) => (i, { a with poison := [] }) }

/-- What frames held before they changed hands is no value that a later access may return (R350): the entries of the history stay
in number, and name no doubleword any more. -/
def GMeta.forget (m : GMeta) (gone : Nat → Bool) : GMeta :=
  { m with hist := m.hist.map fun x => if gone (8 * x.dword / 2 ^ 21) then { x with dword := 2 ^ 64 } else x }

/-- What partition `part` gives up when its descriptor becomes `new`: cores cleared, key slots cleared, trees released, rings and
translations gone (R349). -/
def State.giveUp (s : State) (part : Nat) (old new : Partition) : State :=
  let lost (i : Nat) : Bool := old.clmask.getLsbD (cluOf i) && !new.clmask.getLsbD (cluOf i)
  let s1 := s.dropTlbs part 0 (2 ^ 57)
  { s1 with
    cores := s1.cores.map fun (i, k) => (i, if lost i then k.cleared s.clock.clk else k)
    keys := s1.keys.filter fun x => !(old.hasSlot x.1 && !new.hasSlot x.1)
    trees := s1.trees.filter fun x => !(old.tmask.getLsbD x.1 && !new.tmask.getLsbD x.1)
    gmeta := s1.gmeta.forget fun f => old.frames.contains f && !new.frames.contains f
    errs := { s1.errs with tails := s1.errs.tails.filter fun x => x.1 ≠ old.fq && x.1 ≠ s1.errQueue old }
    jobs := { s1.jobs with ring := s1.jobs.ring.filter fun x => !(if x.1 < 64 then old.qmask.getLsbD x.1 else decide (x.1 = 64 + part)) } }

/-- A ring is enabled if its SIZE is lawful and it lies in the partition's frames (R349, R350): SIZE and HEAD are the device's from
now on, and what stands in it up to TAIL is due at once (R416). -/
def State.enableRing (s : State) (p : Partition) (key top bytes : Nat) : State :=
  let hdr := p.ringAt key
  let size := s.ringSize hdr
  if isPow2To size top && p.holds hdr (32 + bytes * size) then
    { s with jobs := { s.jobs with ring := tput s.jobs.ring key { size, head := s.ringHead hdr, seen := s.ringTail hdr } } }
  else s

/-- The rings of a partition are enabled. -/
def State.enableRings (s : State) (part : Nat) (p : Partition) : State :=
  ((List.range 64).filter fun q => p.qmask.getLsbD q).foldl (fun s q => s.enableRing p q 128 16) (s.enableRing p (64 + part) 65536 64)

/-- The frame list of a descriptor. -/
def State.frameList (s : State) (d : Nat) : List Nat :=
  (List.range (bitsOf d 192 32)).map fun i => (s.word none (bitsOf d 128 64 + 4 * i)).toNat

/-- Accept a descriptor at a physical address, or refuse it. -/
def State.configure (s : State) (pa : Nat) : Nat × State :=
  let bytes := s.view none pa 128
  let d := ofBytes bytes
  let part := bitsOf d 0 8
  let zeroed := bytes.take 64 ++ List.replicate 32 0 ++ bytes.drop 96
  if descriptorBad d then (stBAD_CONFIG, s)
  else if s.liveJob part then (stBUSY, s)
  else if bitsOf d 16 48 = 0 then
    let s1 := match tfind s.parts part with | some old => s.giveUp part old { old with clmask := 0, kslotN := 0, tmask := 0, frames := [] } | none => s
    (stDONE, { s1 with parts := terase s1.parts part, errs := { s1.errs with dropped := terase s1.errs.dropped part } }.gWrite none (pa + 64) (List.replicate 32 0))
  else
    let p := parsePartition d (s.frameList d) (BitVec.ofNat 384 (ofBytes (sha384 zeroed)))
    if s.configBad part p then (stBAD_CONFIG, s)
    else
      let old := tfind s.parts part
      let s1 := match old with | some o => s.giveUp part o p | none => s
      let p' := { p with nextFid := (old.map (·.nextFid)).getD 0 }
      let s2 := { s1 with parts := tput s1.parts part p' }.gWrite none (pa + 64) (List.replicate 32 0)
      (stDONE, s2.enableRings part p')

/-- PARTCFG (R349). -/
def execPartcfg (s : State) : Res :=
  .next (s.ctrlRun 8 0x10 [(64, 64)] fun r s =>
    let pa := bitsOf r 64 64
    if pa % 128 ≠ 0 || pa ≥ 2 ^ 56 || paSpace pa = 3 then (some stBAD_COMMAND, s)
    else let (st, s1) := s.configure pa; (some st, s1))

/-! Power caps (R367, R368) -/

/-- The cap in force for a request at an idle floor, in mW. -/
def capFor (req idle : Nat) : Nat := min 2000000 (max req idle)

/-- CAPSET (R368). -/
def execCapset (s : State) : Res :=
  .next (s.ctrlRun 8 0x11 [(64, 32)] fun r s =>
    let c := bitsOf r 64 32
    if c < (s.parts.map (·.2.floor)).sum then (some stCAP_REFUSED, s)
    else (some (if capFor c s.power.idle = c then stDONE else stCAP_CLAMPED), { s with power := { s.power with req := c } }))

/-! The module event queue (R370) -/

/-- Write an event, or drop and count it while the ring is full.  `args` stands from bit 64 of the record on. -/
def State.event (s : State) (value status args : Nat) : State :=
  let q := Config.eventQueue
  if s.ringRoom none q 64 then
    let rec_ := toBytes 64 (value + s.power.evSeq * 2 ^ 16 + status * 2 ^ 32 + args * 2 ^ 64 + s.power.evDrop * 2 ^ 496)
    let s1 := s.ringPut q rec_
    { s1 with power := { s1.power with evSeq := (s1.power.evSeq + 1) % 65536, evDrop := 0 } }
  else { s with power := { s.power with evDrop := min (s.power.evDrop + 1) 0xFFFF } }

/-! Accesses over the links (R167, R369, R417) -/

/-- CHL is up (R414, R415). -/
def State.linkUp (s : State) : Bool := s.boot.chl.isSome && (s.boot.stage = .trained || s.boot.stage = .running)

/-- What a requester binding owns: the frames of its partition, or, for the module manager, those that no partition owns. -/
def State.bindingOwns (s : State) (binding pa n : Nat) : Bool :=
  if binding = 8 then
    pa + n ≤ 2 ^ 39 && (List.range ((pa + n - 1) / 2 ^ 21 - pa / 2 ^ 21 + 1)).all fun i =>
      !poolFrame (pa / 2 ^ 21 + i) && !s.parts.any fun p => p.2.frames.contains (pa / 2 ^ 21 + i)
  else match tfind s.parts binding with | some p => p.holds pa n | none => false

/-- Bytes read over a link; nothing states those of a poisoned sector, nor the encrypted records of the save pool (R387). -/
def State.linkRead (s : State) (who pa n : Nat) : State :=
  let pool := s.boot.poolKey.isSome && poolFrame ((pa + n - 1) / 2 ^ 21)
  let (bs, s1) := if (s.poisonAt pa n).isSome || pool then s.freeBytes n else (s.view none pa n, s)
  { s1 with replies := s1.replies ++ [(who, bs)] }

/-- HOST_ACCESS (R369): an access that the binding does not own is dropped, and reported. -/
def execHostAccess (binding : Nat) (op : ExtAccess) (s : State) : Res :=
  if !s.linkUp then .next s
  else match op with
    | .read pa n =>
      if s.bindingOwns binding pa n then .next (s.linkRead binding pa n)
      else
        let s1 := { s with replies := s.replies ++ [(binding, List.replicate n 0xFF)] }
        .next (s1.event 0x12 stBAD_COMMAND (pa % 2 ^ 64 + binding * 2 ^ 64))
    | .write pa data =>
      if s.bindingOwns binding pa data.length then .next (s.gWrite none pa data)
      else .next (s.event 0x12 stBAD_COMMAND (pa % 2 ^ 64 + binding * 2 ^ 64 + 2 ^ 72))

/-- PEER_ACCESS (R167, R417): an access to the module's HBM through a trained port. -/
def execPeerAccess (port : Nat) (op : ExtAccess) (s : State) : Res :=
  if (tfind s.boot.ports port).isNone then .next s
  else match op with
    | .read pa n => if pa + n ≤ 2 ^ 39 then .next (s.linkRead (16 + port) pa n) else .next s
    | .write pa data => if pa + data.length ≤ 2 ^ 39 then .next (s.gWrite none pa data) else .next s

end Sys2Proof.Machine
end

