-- ==== Sys2Proof/Machine/Recovery.lean ====
section
/-!
DEFINITION. Recovery.lean: pre-emption, its save record and restoration (R384-R388), uncorrectable and corrected errors
(R389-R392, R399, R400), and PARK records (R390).
-/
namespace Sys2Proof.Machine

/-! Pre-emption (R385) -/

/-- The queue priority of a workgroup. -/
def State.wgPrio (s : State) (wg : Workgroup) : Nat :=
  match s.launch? wg.launch with | some la => tgetD 0 s.jobs.prio la.rec_.queue | none => 0

/-- Bytes of the save pool (R387). -/
def poolBytes : Nat := 2 ^ 32
def Workgroup.saveSize (g : Workgroup) : Nat := Config.saveBytes g.aSize g.warps.length g.crows g.gmatN

/-- Workgroups on a core that may be pre-empted for priority 7: the lowest priority first, then the one placed last. -/
def State.victims (s : State) (core : Nat) : List (Nat × Workgroup) :=
  sortBy (fun x y => if s.wgPrio x.2 ≠ s.wgPrio y.2 then s.wgPrio x.2 < s.wgPrio y.2 else y.2.seqNo ≤ x.2.seqNo)
    (s.wgs.filter fun g => g.2.core = core && g.2.place = .resident && s.wgPrio g.2 < 7)

/-- The priority-7 workgroup for which room is to be made: its head has fitted nowhere for 100 µs. -/
def State.starved (s : State) (die : Nat) : Option Cand :=
  ((s.candidates die).filter fun c => c.prio = 7 && (s.coreFor c).isNone &&
    match (s.launch? c.launch).bind (·.since) with | some t => decide (t + 100000 ≤ s.time) | none => false).foldl
    (fun acc c => match acc with | none => some c | some b => if c.ahead b then some c else some b) none

/-- The cores on which it would fit once their victims were saved, the most free warp places first. -/
def State.clearable (s : State) (c : Cand) : List Nat :=
  sortBy (fun x y => s.freePlaces y < s.freePlaces x || (s.freePlaces x = s.freePlaces y && x ≤ y))
    ((s.candCores c).filter fun k => (s.room k (s.candNeed c) ((s.victims k).map (·.1)) (c.saved.getD 0)).isSome)

/-- The victim on a core whose record finds room in the save pool. -/
def State.victimOn (s : State) (core : Nat) : Option (Nat × Nat) :=
  ((s.victims core).find? fun g => !g.2.preempt && s.jobs.pool + g.2.saveSize ≤ poolBytes).map fun g => (core, g.1)

/-- A warp stops at a wait point: its wait is withdrawn, and the instruction executes again later (R202, R384). -/
def State.stopAt (s : State) (r : WarpRef) : State :=
  match s.warp? r with
  | some w =>
    let kept := match w.wait with | some (.lanes ls) => ls.filter (·.finished) | _ => w.doneLanes
    (s.withdraw r).modWarp r fun x => { x with stopped := true, atSafe := false, wait := none, tr := [], doneLanes := kept, kept := keptWait w }
  | none => s

def wgRefs (g : Nat) (wg : Workgroup) : List WarpRef := (List.range wg.warps.length).map fun i => { wg := g, wix := i }

/-- Every warp of the workgroup that waits at a wait point stops there. -/
def State.stopWaiters (s : State) (g : Nat) : State :=
  (wgRefs g (s.wg g)).foldl (fun s r => match s.warp? r with
    | some w => if w.runs && s.waitPoint w then s.stopAt r else s
    | none => s) s

/-- In deterministic mode the warps that do not hold the core and stand after a safe point are at one. -/
def State.stopDet (s : State) (g : Nat) : State :=
  let wg := s.wg g
  if !s.flag g (·.det) then s
  else
    let run := (s.core wg.core).sched.detRun
    (s.modWg g fun x => { x with savedDet := (run.filter fun r => r.wg = g).map (·.wix) }).modWg g fun x =>
      { x with warps := x.warps.zipIdx.map fun (w, i) =>
          if some { wg := g, wix := i } ≠ run && !w.retired && w.wait.isNone && w.atSafe then { w with stopped := true } else w }

/-- The request reaches every warp of a workgroup (R385 step 1). -/
def State.requestSave (s : State) (g : Nat) : State :=
  let s1 := s.modWg g fun x => { x with preempt := true }
  ({ s1 with jobs := { s1.jobs with pool := s1.jobs.pool + (s.wg g).saveSize } }.stopDet g).stopWaiters g

/-- PREEMPTION_TRIGGER (R385): the distributor of a die pre-empts one more workgroup for a starved one of priority 7. -/
def execPreemptionTrigger (die : Nat) (s : State) : Res :=
  match s.starved die with
  | none => .next s
  | some c =>
    let able := s.clearable c
    let chosen := ((s.launch? c.launch).bind (·.clear)).filter able.contains
    let cores := match chosen with | some k => k :: able.filter (· ≠ k) | none => able
    let busy := s.wgs.any fun g => g.2.preempt && g.2.place = .resident && cores.head? = some g.2.core
    if busy then .next s
    else match cores.findSome? s.victimOn with
      | some (core, g) =>
        .next ((s.requestSave g).modLevel c.launch fun l => { l with launch := l.launch.map fun la => { la with clear := some core } })
      | none => .next s

/-! The save record (R386) -/

/-- A command that the save takes with it: a collective that waits for further slices (R246). -/
def State.held (s : State) (c : Cmd) : Bool := c.status = 0 && c.assembling && !s.assembled c

/-- Nothing of the workgroup is under way any more (R385 step 2). -/
def State.mayClose (s : State) (g : Nat) (wg : Workgroup) : Bool :=
  let mine := s.cmds.filter fun c => c.2.wg = g
  let kept := mine.flatMap fun c => if s.held c.2 then c.2.prs.map (·.2.2) else []
  wg.warps.all (fun w => (w.retired || w.stopped) && w.accs.isEmpty && w.pends.all fun p => kept.contains p.id) &&
  mine.all (fun c => c.2.status ≠ 0 || s.held c.2) &&
  (s.core wg.core).chains.all fun k => k.wg ≠ g || (k.left = 0 && k.mend.isNone)

/-- The groups that a live-mask word marks dead read 0; a dead settled handle returns empty (R53). -/
def Warp.dropDead (w : Warp) (settled : Nat → Bool) : Warp :=
  let live (i : Nat) : Bool := w.live.getLsbD i
  { w with
    v := w.v.filter fun x => live (x.1 / 32 / 4), s := w.s.filter fun x => 61 ≤ x.1 || live (32 + x.1 / 4)
    p := if live 54 then w.p else [], h := w.h.filter fun x => live (48 + x.1 / 4) || !settled x.2 }

/-- What one stopped warp leaves behind: at a safe point, its dead groups and the queue items whose bit is clear (R386). -/
def State.saveWarp (s : State) (r : WarpRef) : State :=
  match s.warp? r with
  | none => s
  | some w =>
    if w.retired then s
    else
      let w1 := w.settleAll
      if !w.atSafe then s.setWarp r w1
      else
        let settled (id : Nat) : Bool := match tfind s.cmds id with | some c => decide (c.status ≠ 0) | none => true
        let s1 := s.setWarp r (w1.dropDead settled)
        let s2 := if w.live.getLsbD 59 then s1
          else { s1 with jobs := { s1.jobs with fetches := s1.jobs.fetches.filter fun f => f.2.w ≠ r } }.modWarp r fun x => { x with mail := [] }
        if w.live.getLsbD 58 then s2
        else s2.modWg r.wg fun x => if x.baton.holder = some r.wix then { x with baton := { x.baton with holder := none } } else x

/-- Subscriptions are saved when a warp waits, or one at a safe point has QSUB set. -/
def Workgroup.keepsSubs (g : Workgroup) : Bool := g.warps.any fun w => !w.retired && (!w.atSafe || w.live.getLsbD 56)

/-- The band cells of a logical attic line. -/
def State.lineBits (s : State) (core mat axis line : Nat) : List Bool × State :=
  let (cells, s1) := s.lineCells core mat axis ((s.attic core mat axis).line line) (List.range 3840)
  (cells.map (·.2), s1)

/-- The 192 logical lines of both attics of the gate mat set, poisoned ones with their tag (R155, R389; notes/assumptions/83.md). -/
def State.saveAttics (s : State) (core : Nat) (wg : Workgroup) : List (Nat × Nat × List Bool × Option Nat) × State :=
  let keys := (List.range wg.gmatN).flatMap fun m => [0, 1].flatMap fun ax => (List.range 192).map fun l => ((wg.gmat0 + m) * 2 + ax, l)
  keys.foldl (fun acc x => let (bs, s1) := acc.2.lineBits core (x.1 / 2) (x.1 % 2) x.2; (acc.1 ++ [(x.1, x.2, bs, (tfind (s.attic core (x.1 / 2) (x.1 % 2)).poison x.2).map (· - 1))], s1)) ([], s)

/-- The rows of a chain, moved. -/
def Chain.shift (c : Chain) (old new : Nat) : Chain :=
  let row (r : Nat) : Nat := r - old + new
  let elem (k : Nat) : Nat := k - old * 128 + new * 128
  { c with lo := row c.lo, hi := row c.hi, sums := c.sums.map fun x => (elem x.1, x.2), clamped := c.clamped.map elem }

/-- What a table of C elements holds of the rows inside a window of one of the warps, relative to the row allocation. -/
def Workgroup.saveRows {α : Type} (wg : Workgroup) (t : Table α) : List (Nat × α) :=
  (t.filter fun x => wg.warps.any fun w => !w.retired && w.cwb ≤ x.1 / 128 && x.1 / 128 < w.cwl).map fun x => (x.1 - wg.cbase * 128, x.2)

/-- The save record is written and the core resources are freed (R385 step 3). -/
def State.closeSave (s : State) (g : Nat) : State :=
  let core := (s.wg g).core
  let s1 := (wgRefs g (s.wg g)).foldl State.saveWarp s
  let s2 := if (s1.wg g).keepsSubs then s1 else (s1.wg g).subs.foldl (fun s x => s.unsubscribe g x.stream) s1
  let (lines, s3) := s2.saveAttics core (s2.wg g)
  let wg := s3.wg g
  let open_ := (s3.core core).chains.filter fun c => c.wg = g && !c.dead
  let s4 := s3.modWg g fun x => { x with
    place := .saved, savedC := wg.saveRows (s3.core core).c, savedMarks := wg.saveRows (s3.core core).cTag, savedChains := open_.map fun c => c.shift wg.cbase 0, savedAttic := lines }
  let s5 := ((open_.foldl (fun s c => s.dropLeave core c.id) s4).leaveSched g).modCore core fun k => { k with chains := k.chains.filter fun c => c.wg ≠ g }
  let s6 := { s5 with cmds := s5.cmds.map fun (x : Nat × Cmd) => (x.1, if x.2.wg = g then { x.2 with core := 384 } else x.2) }
  (s6.sweep g).spareGroups core

/-- PREEMPT_SAVE (R385, R386): warps that wait stop; once nothing is under way the record is written. -/
def execPreemptSave (g : Nat) (s : State) : Res :=
  match tfind s.wgs g with
  | none => .next s
  | some wg =>
    if !wg.preempt || wg.place ≠ .resident then .next s
    else
      let s1 := s.stopWaiters g
      if s1.mayClose g (s1.wg g) && !s1.mayRetire g (s1.wg g) then .next (s1.closeSave g) else .next s1

/-! Restoration (R388) -/

/-- The core to which the distributor returns a saved workgroup now. -/
def State.restoreCore (s : State) (g : Nat) : Option Nat :=
  [0, 1].findSome? fun die => match s.choice die with
    | some (c, k) => if c.saved = some g then some k else none
    | none => none

/-- The tables of a core have entries for what comes back (R246). -/
def State.tablesFit (s : State) (core g : Nat) (wg : Workgroup) : Bool :=
  let mine := (s.cmds.filter fun c => c.2.wg = g).map (·.2)
  s.locksUsed core + (mine.map Cmd.lockEntries).sum + wg.savedChains.length ≤ 32 &&
  s.entriesUsed core + (mine.map fun c => if c.entry then max 1 c.holders.length else 0).sum ≤ 256

/-- A window moves with the row allocation; one that was never set stays as it is. -/
def Warp.moveWindow (w : Warp) (old new : Nat) : Warp :=
  if w.cwb = 0 && w.cwl = 0 then w else { w with cwb := w.cwb - old + new, cwl := w.cwl - old + new }

/-- One attic line is restored by a full-line write through the current map, verified like any other (R154); on a spent line it is
made in place (R155). -/
def State.restoreLine (s : State) (core : Nat) (fails : List (Nat × Nat)) (x : Nat × Nat × List Bool × Option Nat) : State :=
  let mat := x.1 / 2
  let axis := x.1 % 2
  let line := x.2.1
  let s1 := if (s.attic core mat axis).spent line then s else (s.rotate core mat axis line 0 3840 0).2
  let n := match fails.find? fun f => f.1 = x.1 * 256 + line with | some f => f.2 | none => 0
  (s1.writeLine core mat axis line (x.2.2.1.zipIdx.map fun b => (b.2, b.1)) n x.2.2.2).2.2

/-- The saved state is written back to a core. -/
def State.restoreTo (s : State) (g core aOff cbase : Nat) (fails : List (Nat × Nat)) : State :=
  let old := s.wg g
  let s1 := s.modWg g fun x => { x with
    core, aOff := if x.share.isSome then x.aOff else aOff, cbase, place := .resident, preempt := false, savedC := [], savedMarks := [], savedChains := [], savedAttic := [], savedDet := none
    warps := x.warps.map fun w => { w.moveWindow old.cbase cbase with stopped := false } }
  let s2 := (s1.clearRows core cbase old.crows).modCore core fun k => { k with
    c := old.savedC.foldl (fun t x => tsetD 0 t (x.1 + cbase * 128) x.2) k.c
    cTag := old.savedMarks.foldl (fun t x => tput t (x.1 + cbase * 128) x.2) k.cTag
    chains := k.chains ++ old.savedChains.map fun c => { c.shift 0 cbase with granted := false } }
  let s3 := old.savedChains.foldl (fun s c => s.askLeave core c.id 2300 true) s2
  let s4 := old.savedAttic.foldl (fun s x => s.restoreLine core fails x) s3
  let placed (la : Launch) : Launch := { la with since := none, passed := false, clear := none }
  let s5 := ({ s4 with jobs := { s4.jobs with pool := s4.jobs.pool - old.saveSize } }.modLevel old.launch fun (l : Level) =>
    { l with launch := l.launch.map placed }).renameCmds g core |>.joinReady g
  (s5.modWg g Workgroup.grantBaton).modCore core fun k => match old.savedDet with
    | some i => if k.sched.detRun.isNone then { k with sched := { k.sched with detRun := some { wg := g, wix := i } } } else k
    | none => k

/-- WORKGROUP_RESTORE (R388): the distributor's choice is a saved workgroup; `fails` gives the lines whose write fails its
verification, and how often. -/
def execWorkgroupRestore (g : Nat) (fails : List (Nat × Nat)) (s : State) : Res :=
  match tfind s.wgs g, s.restoreCore g with
  | some wg, some core =>
    match s.launch? wg.launch with
    | some la => match s.room core (s.savedNeed g la.rec_) [] g with
      | some (aOff, cbase) => if wg.place = .saved && s.tablesFit core g wg then .next (s.restoreTo g core aOff cbase fails) else .next s
      | none => .next s
    | none => .next s
  | _, _ => .next s

/-! Errors (R389, R391, R392) -/

/-- The partition that owns a frame. -/
def State.partOfPa (s : State) (pa : Nat) : Option Nat := (s.parts.find? fun p => p.2.frames.contains (pa / 2 ^ 21)).map (·.1)

/-- A record about a physical address. -/
def State.paRecord (s : State) (pa kind prov : Nat) : State :=
  match s.partOfPa pa with
  | some part => s.errRecord { part, kind, prov, fid := 0, addr := pa, cause := 0, core := 0x1FF, time := s.time }
  | none => s

/-- A tag joins a table of tags held as tag + 1; the lower of two is kept. -/
def markTag (t : Table Nat) (k tag : Nat) : Table Nat :=
  tput t k (match tfind t k with | some old => min old (tag + 1) | none => tag + 1)

/-- The resident workgroup whose A allocation holds a byte of a core's A SRAM. -/
def State.aOwner (s : State) (core addr : Nat) : Option (Nat × Workgroup) :=
  s.wgs.find? fun g => g.2.core = core && g.2.place = .resident && g.2.share.isNone && g.2.aOff ≤ addr && addr < g.2.aOff + g.2.aSize

/-- Unit classes of provenance tags (R389). -/
def unitClass : ErrUnit → Nat
  | .hbm => 0 | .homeCache => 1 | .clusterCache => 2 | .chl => 8 | .fabric => 9

def State.modTree (s : State) (id : Nat) (f : Tree → Tree) : State := { s with trees := tmodify s.trees id f }

/-- UNCORRECTABLE_ERROR (R389, R392): data is marked poisoned with a POISON record, or a workgroup is killed. -/
def execUncorrectableError (site : ErrSite) (s : State) : Res :=
  match site with
  | .sector pa unit =>
    let tag := s.newTag ((s.partOfPa pa).getD 8) (unitClass unit)
    let s1 := s.paRecord pa 1 tag
    .next { s1 with gmeta := s1.gmeta.mark pa 1 tag }
  | .slot core mat g =>
    let tag := s.newTag (s.partOfClu (cluOf core)) 6
    .next ((s.coreRecord core 1 tag (slotAddr mat g)).modCore core fun k => { k with slotTag := markTag k.slotTag (slotItem mat g) tag })
  | .atticLine core mat axis line =>
    let tag := s.newTag (s.partOfClu (cluOf core)) 7
    .next ((s.coreRecord core 1 tag (lineAddr mat axis line)).modAttic core mat axis fun a => { a with poison := markTag a.poison line tag })
  | .aWord core addr =>
    match s.aOwner core addr with
    | some (g, wg) => .next (s.kill g Cause.aUncorr.code (addr - wg.aOff))
    | none => .next s
  | .register r =>
    match s.warp? r with
    | some w => if w.retired || (s.wg r.wg).place = .saved then .next s else .next (s.kill r.wg Cause.regUncorr.code w.pc.toNat)
    | none => .next s
  | .cElem core row col =>
    let tag := s.newTag (s.partOfClu (cluOf core)) 5
    .next ((s.coreRecord core 1 tag (row * 256 + col)).modCore core fun k => { k with cTag := markTag k.cTag (row * 128 + col) tag })
  | .buffer cmd => match tfind s.cmds cmd with
    | some c =>
      if c.status ≠ 0 || c.out.isEmpty then .next s
      else
        let tag := s.newTag c.part 10
        .next ((s.coreRecord c.core 1 tag ((c.out.map (·.pa)).headD 0)).modCmd cmd fun c =>
          { c.meet (some tag) with out := c.out.map fun d => { d with tag := lowerTag d.tag (some tag) } })
    | none => .next s
  | .tree id => match tfind s.trees id with
    | some t =>
      let tag := s.newTag t.part 11
      .next ((s.paRecord t.base 1 tag).modTree id fun t => { t with poison := lowerTag t.poison (some tag) })
    | none => .next s

/-- CORRECTED_ERROR (R399, R400): an item counts a corrected error, and is spared at the third in its window.  A slot's flips
are corrected, and counted, when the slot is read. -/
def execCorrectedError (item : ErrItem) (flips : BitVec 1280) (s : State) : Res :=
  match item with
  | .slot core mat g =>
    .next (s.modCore core fun k => { k with flips := tsetD 0 k.flips (slotItem mat g) (tgetD 0 k.flips (slotItem mat g) ^^^ flips) })
  | .atticLine core mat axis p =>
    let (s1, last) := s.countCorr core (lineItem mat axis p)
    .next (if last then s1.modAttic core mat axis fun a => { a with lasting := tput a.lasting p true } else s1)
  | .aRow core row =>
    let (s1, last) := s.countCorr core (rowItem row)
    .next (if last then s1.spareItem core (rowItem row) 160 16 3 (row * 128) else s1)
  | .regGroup core group =>
    let (s1, last) := s.countCorr core (groupItem group)
    .next (if last then (s1.modCore core fun k => { k with worn := if k.worn.contains group then k.worn else k.worn ++ [group] }).spareGroups core else s1)
  | .hbmRow row =>
    let (c, last) := (tgetD { count := 0, since := 0 } s.errs.hbmCorr row).bump s.time
    let s1 := { s with errs := { s.errs with hbmCorr := tput s.errs.hbmCorr row c } }
    .next (if last then s1.paRecord row 4 0 else s1)

/-- ERROR_QUEUE_RECORD_WRITE (R390, R391): the oldest PARK record of a partition is written, unless its queue is full. -/
def execErrorQueueRecordWrite (part : Nat) (s : State) : Res :=
  match tfind s.parts part, s.errs.parks.find? fun x => x.1.part = part with
  | some p, some (e, w) =>
    if s.ringRoom (some p) (s.errQueue p) 32 then
      let s1 := s.errRecord e
      .next { s1 with errs := { s1.errs with parks := s1.errs.parks.erase (e, w), parked := s1.errs.parked ++ [(part, e.fid, w)] } }
    else .next s
  | _, _ => .next s

end Sys2Proof.Machine
end

