-- ==== Sys2Proof/Machine/Device.lean ====
section
/-!
DEFINITION. Device.lean: the device around the cores: submission rings (R416), reset, boot and links (R413-R417), the clock
and its discipline (R10, R11, R419), leave and power (R367, R420, R421), marker counters (R422), and the trap of an
unassigned opcode (R55).
-/
namespace Sys2Proof.Machine

/-! Submission rings (R416) -/

/-- The outcome of one ring entry as a status word. -/
def State.ringAccept (s : State) (part record : Nat) : DWord × State :=
  if record ≥ 2 ^ 57 || record % 128 ≠ 0 then (statusWord stFAULT Cause.launchRecord.code 0 10 0, s)
  else match s.acceptLaunch part [] record with
    | .miss _ => (statusWord stFAULT Cause.launchRecord.code 0 10 0, s)
    | .done stat cause prov count s1 => (statusWord stat cause prov 10 count, s1)

/-- SUBMISSION_RING_SERVICE (R416): one entry of an enabled ring, of those up to the last TAIL read: the launch is accepted, STAT is
written, then HEAD advances. -/
def execSubmissionRingService (queue : Nat) (s : State) : Res :=
  match s.parts.find? fun p => p.2.qmask.getLsbD queue, tfind s.jobs.ring queue with
  | some (part, p), some r =>
    let hdr := p.ringAt queue
    let upTo := if r.head = r.seen then s.ringTail hdr else r.seen
    if r.head = upTo then .next s
    else
      let pa := hdr + 32 + 16 * (r.head % r.size)
      let head := (r.head + 1) % 2 ^ 32
      let s1 := { s with jobs := { s.jobs with ring := tput s.jobs.ring queue { r with head, seen := upTo } } }
      let (st, s2) := s1.ringAccept part (s1.dword none pa).toNat
      .next ((s2.gWrite none (pa + 8) (toBytes 8 st.toNat)).gWrite none (hdr + 4) (toBytes 4 head))
  | _, _ => .next s

/-! Leave (R143, R367, R420) -/

/-- Mats that granted runs of a core hold. -/
def State.grantedMats (s : State) (core : Nat) : Nat :=
  s.cmds.foldl (fun n c => n + if c.2.core = core && c.2.granted && c.2.status = 0 then
    (match c.2.body with | .grun _ k .. => k | _ => 0) else 0) 0

/-- The first request of a cluster fits: budget, mats, and the estimated heat flux with the request granted. -/
def State.leaveFits (s : State) (clu : Nat) (ask : Nat × Nat × Bool) : Bool :=
  let k := s.cluster clu
  let mats := match if ask.2.2 then none else tfind s.cmds ask.1 with
    | some c => match c.body with | .grun _ n .. => decide (s.grantedMats c.core + n ≤ 64) | _ => true
    | none => true
  (k.grants.map (·.2.1)).sum + ask.2.1 ≤ s.budget clu && mats && k.flux + Config.fluxOf clu ask.2.1 ≤ 200

/-- LEAVE_GRANT (R420): grants are made in request order. -/
def execLeaveGrant (clu : Nat) (s : State) : Res :=
  match (s.cluster clu).asks with
  | [] => .next s
  | ask :: rest =>
    if !s.leaveFits clu ask then .next s
    else
      let s1 := s.modClu clu fun k => { k with asks := rest, grants := k.grants ++ [ask] }
      let grant (c : Chain) : Chain := if c.id = ask.1 then { c with granted := true } else c
      if ask.2.2 then .next { s1 with cores := s1.cores.map fun x => (x.1, { x.2 with chains := x.2.chains.map grant }) }
      else .next (s1.modCmd ask.1 fun c => { c with granted := true })

/-! Reset and power loss (R147, R413) -/

/-- What a core keeps through reset: its mats with their control cells and spares; attic cells age by `age` CLK ticks. -/
def Core.retained (k : Core) (age : Int) : Core :=
  let line (x : Nat × Corr) : Bool := 2 ^ 24 ≤ x.1 && x.1 < 2 ^ 25
  { Core.empty with
    band := k.band, flips := k.flips, slotTag := k.slotTag, gates := k.gates, lasting := k.lasting, spares := k.spares, worn := k.worn, wiped := k.wiped - age
    corr := (k.corr.filter line).map fun x => (x.1, { x.2 with since := 0 })
    attic := k.attic.map fun x => (x.1, { x.2 with time := x.2.time - age }) }

/-- The machine as reset leaves it: what is retained, and memory outside the caches. -/
def State.afterReset (s : State) (age : Int) : State :=
  { State.reset with
    fresh := s.fresh, mem := s.mem, gmeta := { s.gmeta with hist := [] }, replies := s.replies
    cores := s.cores.map fun x => (x.1, x.2.retained age), errs := { State.reset.errs with hbmLasting := s.errs.hbmLasting } }

/-- RESET (R413).  No time passes for attic cells until reset is released (notes/assumptions/84.md). -/
def execReset (s : State) : Res := .next (s.afterReset s.clock.clk)

/-- POWER_LOSS (R413): as reset, with HBM contents unspecified; how long power was off is not stated, so attic cells may have passed
their retention. -/
def execPowerLoss (s : State) : Res :=
  let s1 := s.afterReset (s.clock.clk + atticKeeps)
  .next { s1 with
    mem := s1.mem.filter fun x => 2 ^ 54 ≤ x.1
    gmeta := { lost := some (s.gmeta.losses + 1), losses := s.gmeta.losses + 1, seals := [], poison := [], hist := [] } }

/-! Boot and links (R414, R415, R417) -/

/-- RESET_RELEASE (R414): the measurements, the step at which a failed signature check stops the device, and the save-pool key. -/
def execResetRelease (b : BootImage) (s : State) : Res :=
  if s.boot.stage ≠ .held then .next s
  else
    let stage : BootStage := if !b.firstOk then .failed 1 else if !b.firmOk then .failed 2 else .loaded
    let (key, s1) := s.freeBytes 64
    .next { s1 with
      clock := { State.reset.clock with clk := 0 }
      boot := { s.boot with
        stage, mboot := b.firstHash, mfirm := if b.firstOk then b.firmHash else 0
        poolKey := if stage = .loaded then some (BitVec.ofNat 512 (ofBytes key)) else none } }

/-- Lane counts and speeds in the order in which they are tried (R415). -/
def trainOrder : List (Nat × Nat) := [224, 112, 56].flatMap fun v => [16, 8, 4].map fun n => (n, v)

/-- The setting that a link takes, of those that pass. -/
def trainWith (passing : List (Nat × Nat)) : Option (Nat × Nat) := trainOrder.find? passing.contains

/-- CHL_TRAIN (R415); at boot HBM is trained with it, and the certificates stand at their address from then on (R414). -/
def execChlTrain (passing : List (Nat × Nat)) (s : State) : Res :=
  match s.boot.stage, trainWith passing with
  | .loaded, some x => .next ({ s with boot := { s.boot with stage := .trained, chl := some x } }.gWrite none Config.certAddress Config.certificates)
  | .trained, some x | .running, some x => .next { s with boot := { s.boot with chl := some x } }
  | _, _ => .next s

/-- PEER_PORT_TRAIN (R417): a peer port trains as CHL does. -/
def execPeerPortTrain (port : Nat) (passing : List (Nat × Nat)) (s : State) : Res :=
  match trainWith passing with
  | some x => if s.boot.stage = .held then .next s else .next { s with boot := { s.boot with ports := tput s.boot.ports port x } }
  | none => .next s

/-- A physical address is reached through a peer port. -/
def onPort (port pa : Nat) : Bool := paSpace pa = 2 && paPort pa = port

/-- A warp with accesses on their way through a port that has lost training: they perform nothing, and its lanes raise 0x25. -/
def State.losePort (s : State) (port : Nat) (r : WarpRef) : State :=
  match s.warp? r with
  | none => s
  | some w =>
    let gone (a : Access) : Bool := a.space = .g && !(a.kind matches .fence _) && onPort port a.pa
    let stuck (l : LaneWait) : Bool := !l.finished && (match l.kind with | .waita .. | .qwait => true | _ => false) && onPort port l.addr
    let waits : List LaneWait := match w.wait with | some (.lanes ls) => ls.filter stuck | _ => []
    let lost := (w.accs.filter gone).map fun a => (a.lane, a.va)
    let w1 := (w.accs.filter gone).foldl (fun w a => w.endPend a.pend) { w with accs := w.accs.filter fun a => !gone a }
    match lost ++ waits.map fun l => (l.lane, l.addr) with
    | [] => s
    | (lane, va) :: more =>
      let g := s.wg r.wg
      let s1 := s.setWarp r w1
      if w.retired then s1
      else s1.takeTrap r (max w.now w.next)
        { cause := .gRefused, lane, mask := laneMask (lane :: more.map (·.1)), ilen := s.lengthAt g.core g.part w.pc / 8
          info0 := BitVec.ofNat 32 va, info1 := BitVec.ofNat 32 (va / 2 ^ 32) }

/-- PEER_PORT_TRAINING_LOSS (R417). -/
def execPeerPortTrainingLoss (port : Nat) (s : State) : Res :=
  let s1 := { s with boot := { s.boot with ports := terase s.boot.ports port } }
  .next ((s.wgs.flatMap fun g => wgRefs g.1 g.2).foldl (fun s r => s.losePort port r) s1)

/-- LINK_LEVEL_REPLAY (R415): a flit is sent again and is delivered once, in order. -/
def execLinkLevelReplay (link : Nat) (s : State) : Res :=
  .next { s with boot := { s.boot with replays := tput s.boot.replays link (tgetD 0 s.boot.replays link + 1) } }

/-! The clock (R10, R11, R419) -/

/-- One CLK tick, from reset release on (R11).  DESIGN CHOICE (notes/assumptions/78.md): CLK wraps at 2^64 with K as it was. -/
def State.tick (s : State) : State :=
  if s.boot.stage = .held then s else { s with clock := { s.clock with clk := (s.clock.clk + 1) % 2 ^ 64 } }.noteArrivals

/-- 1 s of TIME has gone by without sync (R419). -/
def State.syncLost (s : State) : Bool := s.clock.locked && s.clock.lastSync + 1000000000 ≤ s.time

/-- The module control queue is enabled, as any control queue is (R414, R416). -/
def State.enableModule (s : State) : State :=
  let hdr := Config.moduleQueue
  let size := s.ringSize hdr
  if isPow2To size 65536 then
    { s with jobs := { s.jobs with ring := tput s.jobs.ring 72 { size, head := s.ringHead hdr, seen := s.ringTail hdr } } }
  else s

/-- PTP_SYNC_MESSAGE (R419): the offset in ns that firmware finds, and the grandmaster's time.  After 16 intervals within 50 ns
the clock counts as locked; the first time, TIME is stepped and the queues may be enabled (R10, R414). -/
def execPtpSyncMessage (offset : Int) (grand : DWord) (s : State) : Res :=
  if !s.linkUp then .next s
  else
    let k := if s.syncLost then { s.clock with locked := false, good := 0 } else s.clock
    let good := if -50 ≤ offset && offset ≤ 50 then k.good + 1 else 0
    if k.locked then .next { s with clock := { k with good, lastSync := s.time } }
    else if good < 16 then .next { s with clock := { k with good, lastSync := s.time } }
    else if k.stepped then .next { s with clock := { k with good, locked := true, lastSync := s.time } }
    else .next { s with
      clock := { k with good, locked := true, stepped := true, k := (k.clk : Int) - 3 * grand.toNat, lastSync := grand.toNat
                        dumped := grand.toNat / 1000000 }
      boot := { s.boot with stage := .running } }.enableModule

/-- SYNC_HOLDOVER_TIMEOUT (R419): 1 s without sync. -/
def execSyncHoldoverTimeout (s : State) : Res :=
  if s.syncLost then .next { s with clock := { s.clock with locked := false, good := 0 } } else .next s

/-! Patterns and power (R330, R368, R421) -/

/-- The delivered count for the next pattern, by the first rule that applies. -/
def nextPulses (d flux power budget : Nat) : Nat :=
  if flux > 200 || 10 * power > 9 * budget then max 1 (d - 1)
  else if flux < 190 && 10 * power < 8 * budget then min 16 (d + 1)
  else d

/-- The cap in force follows the request and the idle floor; a floor that rises above the request is reported (R368). -/
def State.applyCap (s : State) (idle : Nat) : State :=
  let cap := capFor s.power.req idle
  let s1 := { s with power := { s.power with idle, cap } }
  if s.power.idle ≤ s.power.req && s.power.req < idle then s1.event 0x11 stCAP_CLAMPED cap else s1

/-- PATTERN_BOUNDARY (R368, R421): `flux` is the cluster's estimated heat flux in W/cm², `idle` the module's idle floor in mW. -/
def execPatternBoundary (clu flux idle : Nat) (s : State) : Res :=
  let s1 := s.applyCap idle
  .next (s1.modClu clu fun k =>
    { k with d := nextPulses k.d flux (Config.recordPower k.power) (s1.budget clu), record := k.power, power := 0, flux })

/-- The pattern register of `d` delivered pulses has bit `slot` set (R418). -/
def delivers (d slot : Nat) : Bool := decide (slot * d / 16 < (slot + 1) * d / 16)

/-- The clusters of a die. -/
def dieClusters (die : Nat) : List Nat := (List.range 24).map (· + 24 * die)

/-- A master cycle of a die (R418): at every sixteenth a pattern boundary for each of its clusters, then the pulse of its slot; what
the sensors estimate is free. -/
def State.masterCycle (s : State) (die : Nat) : State :=
  if s.boot.stage = .held then s
  else
    let n := tgetD 0 s.clock.masters die
    let (bounds, s1) := if n % 16 ≠ 0 || n = 0 then ([], s)
      else (dieClusters die).foldl (fun acc clu =>
        let (flux, s1) := acc.2.freeWord
        let (idle, s2) := s1.freeWord
        (acc.1 ++ [Act.row (.patternBoundary clu flux.toNat idle.toNat)], s2)) (([], s) : List Act × State)
    { s1 with clock := { s1.clock with masters := tput s1.clock.masters die (n + 1) }, agenda := s1.agenda ++ bounds ++ [.pulse die (n % 16)] }

/-- The lane cycles of the cores of a die that slot `slot` of their pattern delivers. -/
def State.pulse (s : State) (die slot : Nat) : State :=
  let cores := ((dieClusters die).filter fun c => delivers (s.cluster c).d slot).flatMap fun c =>
    ((List.range 8).map (· + 8 * c)).filter fun k => !(s.coreWarps k).isEmpty
  { s with agenda := s.agenda ++ cores.map fun k => .row (.laneCycleSchedule k) }

/-! Marker counters (R422) -/

/-- MARKER_COUNTER_DUMP: every 1 ms of TIME all counters are written, cluster by cluster. -/
def execMarkerCounterDump (s : State) : Res :=
  if s.time / 1000000 = s.clock.dumped then .next s
  else
    let bytes := (List.range 48).flatMap fun c => (List.range 8).flatMap fun k => toBytes 8 (tgetD 0 (s.cluster c).marks k).toNat
    .next ({ s with clock := { s.clock with dumped := s.time / 1000000 } }.gWrite none Config.markerBlock bytes)

/-! An unassigned opcode (R55) -/

/-- UNASSIGNED_OPCODE: the trap at decode, before any further word is examined. -/
def execUnassignedOpcode (w : DWord) (s : State) : Res :=
  issue (opOfWord w) (fieldsOfWord w 0 0) s fun c _ s => c.trapU s .opcodeIllegal

end Sys2Proof.Machine
end

