-- ==== Sys2Proof/Machine/Dispatch.lean ====
section
/-!
DEFINITION. Dispatch.lean: the meaning of every instruction and device step, one arm each.
-/
namespace Sys2Proof.Machine

def exec (i : Instr) (s : State) : Host.Outcome State Fault Refusal :=
  match i with
  | .nop f => Sys2Proof.Machine.execNop f s
  | .br f => Sys2Proof.Machine.execBr f s
  | .bru f => Sys2Proof.Machine.execBru f s
  | .brx f => Sys2Proof.Machine.execBrx f s
  | .join f => Sys2Proof.Machine.execJoin f s
  | .call f => Sys2Proof.Machine.execCall f s
  | .calli f => Sys2Proof.Machine.execCalli f s
  | .ret f => Sys2Proof.Machine.execRet f s
  | .yield f => Sys2Proof.Machine.execYield f s
  | .sleep f => Sys2Proof.Machine.execSleep f s
  | .sleept f => Sys2Proof.Machine.execSleept f s
  | .exit f => Sys2Proof.Machine.execExit f s
  | .mov f => Sys2Proof.Machine.execMov f s
  | .movi f => Sys2Proof.Machine.execMovi f s
  | .add f => Sys2Proof.Machine.execAdd f s
  | .sub f => Sys2Proof.Machine.execSub f s
  | .mul f => Sys2Proof.Machine.execMul f s
  | .mulh f => Sys2Proof.Machine.execMulh f s
  | .mad f => Sys2Proof.Machine.execMad f s
  | .madw f => Sys2Proof.Machine.execMadw f s
  | .and f => Sys2Proof.Machine.execAnd f s
  | .or f => Sys2Proof.Machine.execOr f s
  | .xor f => Sys2Proof.Machine.execXor f s
  | .not f => Sys2Proof.Machine.execNot f s
  | .shl f => Sys2Proof.Machine.execShl f s
  | .shr f => Sys2Proof.Machine.execShr f s
  | .sar f => Sys2Proof.Machine.execSar f s
  | .rotl f => Sys2Proof.Machine.execRotl f s
  | .bfe f => Sys2Proof.Machine.execBfe f s
  | .bfi f => Sys2Proof.Machine.execBfi f s
  | .popc f => Sys2Proof.Machine.execPopc f s
  | .clz f => Sys2Proof.Machine.execClz f s
  | .brev f => Sys2Proof.Machine.execBrev f s
  | .perm f => Sys2Proof.Machine.execPerm f s
  | .min f => Sys2Proof.Machine.execMin f s
  | .max f => Sys2Proof.Machine.execMax f s
  | .abs f => Sys2Proof.Machine.execAbs f s
  | .sel f => Sys2Proof.Machine.execSel f s
  | .setp f => Sys2Proof.Machine.execSetp f s
  | .lea f => Sys2Proof.Machine.execLea f s
  | .leaPc f => Sys2Proof.Machine.execLeaPc f s
  | .fadd f => Sys2Proof.Machine.execFadd f s
  | .fsub f => Sys2Proof.Machine.execFsub f s
  | .fmul f => Sys2Proof.Machine.execFmul f s
  | .fma f => Sys2Proof.Machine.execFma f s
  | .fmin f => Sys2Proof.Machine.execFmin f s
  | .fmax f => Sys2Proof.Machine.execFmax f s
  | .rcp f => Sys2Proof.Machine.execRcp f s
  | .rsq f => Sys2Proof.Machine.execRsq f s
  | .sqrt f => Sys2Proof.Machine.execSqrt f s
  | .exp2 f => Sys2Proof.Machine.execExp2 f s
  | .log2 f => Sys2Proof.Machine.execLog2 f s
  | .fsetp f => Sys2Proof.Machine.execFsetp f s
  | .fkey f => Sys2Proof.Machine.execFkey f s
  | .cvt f => Sys2Proof.Machine.execCvt f s
  | .narrow f => Sys2Proof.Machine.execNarrow f s
  | .widen f => Sys2Proof.Machine.execWiden f s
  | .pkadd f => Sys2Proof.Machine.execPkadd f s
  | .pkmul f => Sys2Proof.Machine.execPkmul f s
  | .pkfma f => Sys2Proof.Machine.execPkfma f s
  | .lxch f => Sys2Proof.Machine.execLxch f s
  | .lpoll f => Sys2Proof.Machine.execLpoll f s
  | .lmask f => Sys2Proof.Machine.execLmask f s
  | .lfirst f => Sys2Proof.Machine.execLfirst f s
  | .lpeer f => Sys2Proof.Machine.execLpeer f s
  | .lfold f => Sys2Proof.Machine.execLfold f s
  | .lscan f => Sys2Proof.Machine.execLscan f s
  | .bara f => Sys2Proof.Machine.execBara f s
  | .barw f => Sys2Proof.Machine.execBarw f s
  | .bar f => Sys2Proof.Machine.execBar f s
  | .fence f => Sys2Proof.Machine.execFence f s
  | .waita f => Sys2Proof.Machine.execWaita f s
  | .qwait f => Sys2Proof.Machine.execQwait f s
  | .qwakeBank f => Sys2Proof.Machine.execQwakeBank f s
  | .qwakeDrop f => Sys2Proof.Machine.execQwakeDrop f s
  | .starr f => Sys2Proof.Machine.execStarr f s
  | .lda f => Sys2Proof.Machine.execLda f s
  | .sta f => Sys2Proof.Machine.execSta f s
  | .ldg f => Sys2Proof.Machine.execLdg f s
  | .stg f => Sys2Proof.Machine.execStg f s
  | .ldi f => Sys2Proof.Machine.execLdi f s
  | .ldw f => Sys2Proof.Machine.execLdw f s
  | .ldc f => Sys2Proof.Machine.execLdc f s
  | .stc f => Sys2Proof.Machine.execStc f s
  | .ldtf f => Sys2Proof.Machine.execLdtf f s
  | .stte f => Sys2Proof.Machine.execStte f s
  | .tagsetEmpty f => Sys2Proof.Machine.execTagsetEmpty f s
  | .tagsetFull f => Sys2Proof.Machine.execTagsetFull f s
  | .atom f => Sys2Proof.Machine.execAtom f s
  | .cas f => Sys2Proof.Machine.execCas f s
  | .copy f => Sys2Proof.Machine.execCopy f s
  | .copyv f => Sys2Proof.Machine.execCopyv f s
  | .gather f => Sys2Proof.Machine.execGather f s
  | .redcopy f => Sys2Proof.Machine.execRedcopy f s
  | .subscribeOn f => Sys2Proof.Machine.execSubscribeOn f s
  | .subscribeOff f => Sys2Proof.Machine.execSubscribeOff f s
  | .publish f => Sys2Proof.Machine.execPublish f s
  | .waitf f => Sys2Proof.Machine.execWaitf f s
  | .testfStat f => Sys2Proof.Machine.execTestfStat f s
  | .testfName f => Sys2Proof.Machine.execTestfName f s
  | .cancf f => Sys2Proof.Machine.execCancf f s
  | .mbegin f => Sys2Proof.Machine.execMbegin f s
  | .mma f => Sys2Proof.Machine.execMma f s
  | .mend f => Sys2Proof.Machine.execMend f s
  | .mwin f => Sys2Proof.Machine.execMwin f s
  | .cread f => Sys2Proof.Machine.execCread f s
  | .cclr f => Sys2Proof.Machine.execCclr f s
  | .batonTake f => Sys2Proof.Machine.execBatonTake f s
  | .batonPass f => Sys2Proof.Machine.execBatonPass f s
  | .wstore f => Sys2Proof.Machine.execWstore f s
  | .wscrubCheck f => Sys2Proof.Machine.execWscrubCheck f s
  | .wscrubFix f => Sys2Proof.Machine.execWscrubFix f s
  | .grun f => Sys2Proof.Machine.execGrun f s
  | .gstop f => Sys2Proof.Machine.execGstop f s
  | .gration f => Sys2Proof.Machine.execGration f s
  | .gread f => Sys2Proof.Machine.execGread f s
  | .gwrite f => Sys2Proof.Machine.execGwrite f s
  | .gmap f => Sys2Proof.Machine.execGmap f s
  | .gwear f => Sys2Proof.Machine.execGwear f s
  | .treecfgOn f => Sys2Proof.Machine.execTreecfgOn f s
  | .treecfgOff f => Sys2Proof.Machine.execTreecfgOff f s
  | .treecfgBeta f => Sys2Proof.Machine.execTreecfgBeta f s
  | .treesetSet f => Sys2Proof.Machine.execTreesetSet f s
  | .treesetInval f => Sys2Proof.Machine.execTreesetInval f s
  | .treeupd f => Sys2Proof.Machine.execTreeupd f s
  | .treedraw f => Sys2Proof.Machine.execTreedraw f s
  | .treesumRoot f => Sys2Proof.Machine.execTreesumRoot f s
  | .treesumLeaf f => Sys2Proof.Machine.execTreesumLeaf f s
  | .treeclr f => Sys2Proof.Machine.execTreeclr f s
  | .launchRun f => Sys2Proof.Machine.execLaunchRun f s
  | .launchGraph f => Sys2Proof.Machine.execLaunchGraph f s
  | .launchPhase f => Sys2Proof.Machine.execLaunchPhase f s
  | .launchJob f => Sys2Proof.Machine.execLaunchJob f s
  | .launchQprio f => Sys2Proof.Machine.execLaunchQprio f s
  | .spawn f => Sys2Proof.Machine.execSpawn f s
  | .taskend f => Sys2Proof.Machine.execTaskend f s
  | .fetchw f => Sys2Proof.Machine.execFetchw f s
  | .migrateCore f => Sys2Proof.Machine.execMigrateCore f s
  | .migrateNear f => Sys2Proof.Machine.execMigrateNear f s
  | .lvlcancel f => Sys2Proof.Machine.execLvlcancel f s
  | .cntrd f => Sys2Proof.Machine.execCntrd f s
  | .runrec f => Sys2Proof.Machine.execRunrec f s
  | .csacc f => Sys2Proof.Machine.execCsacc f s
  | .check f => Sys2Proof.Machine.execCheck f s
  | .srd f => Sys2Proof.Machine.execSrd f s
  | .srdFrame f => Sys2Proof.Machine.execSrdFrame f s
  | .swr f => Sys2Proof.Machine.execSwr f s
  | .swrFrame f => Sys2Proof.Machine.execSwrFrame f s
  | .trap f => Sys2Proof.Machine.execTrap f s
  | .trapretResume f => Sys2Proof.Machine.execTrapretResume f s
  | .trapretKill f => Sys2Proof.Machine.execTrapretKill f s
  | .brk f => Sys2Proof.Machine.execBrk f s
  | .codefence f => Sys2Proof.Machine.execCodefence f s
  | .pmark f => Sys2Proof.Machine.execPmark f s
  | .workgroupRetire wg => Sys2Proof.Machine.execWorkgroupRetire wg s
  | .loadResultLand w pend => Sys2Proof.Machine.execLoadResultLand w pend s
  | .gAccessPerform w acc => Sys2Proof.Machine.execGAccessPerform w acc s
  | .tagConditionMet w lane => Sys2Proof.Machine.execTagConditionMet w lane s
  | .instrWaitLimit w => Sys2Proof.Machine.execInstrWaitLimit w s
  | .pollRead w lane => Sys2Proof.Machine.execPollRead w lane s
  | .sleepEnd w => Sys2Proof.Machine.execSleepEnd w s
  | .promiseMissed w => Sys2Proof.Machine.execPromiseMissed w s
  | .pageWalkComplete walk => Sys2Proof.Machine.execPageWalkComplete walk s
  | .faultRecordWrite walk => Sys2Proof.Machine.execFaultRecordWrite walk s
  | .copyComplete cmd => Sys2Proof.Machine.execCopyComplete cmd s
  | .roundaboutIntake cmd => Sys2Proof.Machine.execRoundaboutIntake cmd s
  | .roundaboutDelivery clu stream wg => Sys2Proof.Machine.execRoundaboutDelivery clu stream wg s
  | .leaveGrant clu => Sys2Proof.Machine.execLeaveGrant clu s
  | .mmaStepRetire cmd => Sys2Proof.Machine.execMmaStepRetire cmd s
  | .chainCommit core => Sys2Proof.Machine.execChainCommit core s
  | .cclrComplete w => Sys2Proof.Machine.execCclrComplete w s
  | .wstoreSlotWrite cmd fails => Sys2Proof.Machine.execWstoreSlotWrite cmd fails s
  | .wscrubSlotRead cmd => Sys2Proof.Machine.execWscrubSlotRead cmd s
  | .gateStep cmd fails => Sys2Proof.Machine.execGateStep cmd fails s
  | .gateReadServe cmd => Sys2Proof.Machine.execGateReadServe cmd s
  | .gateSnapshot cmd => Sys2Proof.Machine.execGateSnapshot cmd s
  | .treeAccept cmd => Sys2Proof.Machine.execTreeAccept cmd s
  | .treeComplete cmd => Sys2Proof.Machine.execTreeComplete cmd s
  | .runrecAccept cmd => Sys2Proof.Machine.execRunrecAccept cmd s
  | .routineTaskEnd cmd slot => Sys2Proof.Machine.execRoutineTaskEnd cmd slot s
  | .taskPush cmd => Sys2Proof.Machine.execTaskPush cmd s
  | .waveForm core => Sys2Proof.Machine.execWaveForm core s
  | .waveWaitExpiry core => Sys2Proof.Machine.execWaveWaitExpiry core s
  | .launchAccept cmd => Sys2Proof.Machine.execLaunchAccept cmd s
  | .levelCancelApply cmd => Sys2Proof.Machine.execLevelCancelApply cmd s
  | .placementDecision die => Sys2Proof.Machine.execPlacementDecision die s
  | .passedOverTimeout die => Sys2Proof.Machine.execPassedOverTimeout die s
  | .fetchwDelivery req => Sys2Proof.Machine.execFetchwDelivery req s
  | .migrateArrival wg => Sys2Proof.Machine.execMigrateArrival wg s
  | .laneCycleSchedule core => Sys2Proof.Machine.execLaneCycleSchedule core s
  | .forcedSwap core => Sys2Proof.Machine.execForcedSwap core s
  | .clockGate core => Sys2Proof.Machine.execClockGate core s
  | .coreWake core => Sys2Proof.Machine.execCoreWake core s
  | .progressStall core => Sys2Proof.Machine.execProgressStall core s
  | .waitLimit core launch => Sys2Proof.Machine.execWaitLimit core launch s
  | .preemptionTrigger die => Sys2Proof.Machine.execPreemptionTrigger die s
  | .preemptSave wg => Sys2Proof.Machine.execPreemptSave wg s
  | .workgroupRestore wg fails => Sys2Proof.Machine.execWorkgroupRestore wg fails s
  | .uncorrectableError site => Sys2Proof.Machine.execUncorrectableError site s
  | .correctedError item flips => Sys2Proof.Machine.execCorrectedError item flips s
  | .submissionRingService queue => Sys2Proof.Machine.execSubmissionRingService queue s
  | .inval part => Sys2Proof.Machine.execInval part s
  | .resolve part => Sys2Proof.Machine.execResolve part s
  | .keyload part => Sys2Proof.Machine.execKeyload part s
  | .keyclr part => Sys2Proof.Machine.execKeyclr part s
  | .attest part => Sys2Proof.Machine.execAttest part s
  | .partcfg => Sys2Proof.Machine.execPartcfg s
  | .capset => Sys2Proof.Machine.execCapset s
  | .hostAccess binding op => Sys2Proof.Machine.execHostAccess binding op s
  | .peerAccess port op => Sys2Proof.Machine.execPeerAccess port op s
  | .resetRelease b => Sys2Proof.Machine.execResetRelease b s
  | .chlTrain passing => Sys2Proof.Machine.execChlTrain passing s
  | .peerPortTrainingLoss port => Sys2Proof.Machine.execPeerPortTrainingLoss port s
  | .ptpSyncMessage offset grand => Sys2Proof.Machine.execPtpSyncMessage offset grand s
  | .syncHoldoverTimeout => Sys2Proof.Machine.execSyncHoldoverTimeout s
  | .patternBoundary clu flux idle => Sys2Proof.Machine.execPatternBoundary clu flux idle s
  | .markerCounterDump => Sys2Proof.Machine.execMarkerCounterDump s
  | .unassignedOpcode w => Sys2Proof.Machine.execUnassignedOpcode w s
  | .reset => Sys2Proof.Machine.execReset s
  | .powerLoss => Sys2Proof.Machine.execPowerLoss s
  | .peerPortTrain port passing => Sys2Proof.Machine.execPeerPortTrain port passing s
  | .linkLevelReplay link => Sys2Proof.Machine.execLinkLevelReplay link s
  | .errorQueueRecordWrite part => Sys2Proof.Machine.execErrorQueueRecordWrite part s
  | .atticRetentionExpiry core key => Sys2Proof.Machine.execAtticRetentionExpiry core key s

end Sys2Proof.Machine
end

