-- ==== Sys2Proof/Machine/Next.lean ====
section
/-!
DEFINITION. Next.lean: what the machine may do next (R434), the choice among it, and how an instruction is placed where the next
step fetches.  An action whose condition does not hold leaves the state as it is, so a list here may name too much.
-/
namespace Sys2Proof.Machine

/-! What a warp waits for (R167, R213, R123) -/

/-- Actions on the lanes of a wait. -/
def laneActs (s : State) (r : WarpRef) (l : LaneWait) : List Act :=
  if !l.finished && l.poll.any (· ≤ s.time) then [.row (.pollRead r l.lane)] else []

/-- Actions on a warp: results that land, accesses that are performed, and its wait. -/
def warpActs (s : State) (r : WarpRef) (w : Warp) : List Act :=
  ((w.pends.filter fun p => p.left = 0).map fun p => .row (.loadResultLand r p.id)) ++
  ((w.accs.filter fun a => (s.performable r a.id).isSome).map fun a => .row (.gAccessPerform r a.id)) ++
  match w.wait with
  | some (.lanes ls) => ls.flatMap (laneActs s r)
  | some (.cclr _ _ false) => [.row (.cclrComplete r)]
  | _ => []

/-- Actions on a workgroup. -/
def wgActs (s : State) (g : Nat) (wg : Workgroup) : List Act :=
  (if s.mayRetire g wg then [.row (.workgroupRetire g)] else []) ++
  (match wg.place with
    | .moving => [.row (.migrateArrival g)]
    | .resident => if wg.preempt then [.row (.preemptSave g)] else []
    | .saved => if (s.restoreCore g).isSome then [.row (.workgroupRestore g [])] else []) ++
  wg.warps.zipIdx.flatMap fun x => warpActs s { wg := g, wix := x.2 } x.1

/-! Commands, cores, clusters -/

/-- Actions on a command that has not completed. -/
def cmdActs (id : Nat) (c : Cmd) : List Act :=
  if c.status ≠ 0 then []
  else (if c.choices = 0 then [] else [.deposit id 0]) ++ match c.body with
    | .copy .. | .copyv .. | .gather .. | .redcopy .. => [.row (.copyComplete id)]
    | .publish .. => [.row (.roundaboutIntake id)]
    | .wstore .. => [.row (.wstoreSlotWrite id 0)]
    | .wscrub .. => [.row (.wscrubSlotRead id)]
    | .mma .. => [.row (.mmaStepRetire id)]
    | .mend _ => []
    | .grun .. | .gwrite .. | .gration .. => [.row (.gateStep id [])]
    | .gread .. => [.row (.gateReadServe id)]
    | .gsnap .. => [.row (.gateSnapshot id)]
    | .tree .. => [.row (if c.landed.isSome then .treeComplete id else .treeAccept id)]
    | .runrec .. => [.row (.runrecAccept id)]
    | .launch .. | .qprio .. => [.row (.launchAccept id)]
    | .spawn _ => [.row (.taskPush id)]
    | .lvlcancel .. => [.row (.levelCancelApply id)]

/-- Actions on a core: its waves, its chains and its attic cells. -/
def coreActs (s : State) (core : Nat) (k : Core) : List Act :=
  (if k.tasks.isEmpty then [] else [.row (.waveForm core), .row (.waveWaitExpiry core)]) ++
  (if k.chains.isEmpty then [] else [.row (.chainCommit core)]) ++
  (k.attic.filter fun x => !x.2.lost && x.2.time + atticKeeps ≤ (s.clock.clk : Int)).map fun x => .row (.atticRetentionExpiry core x.1)

/-- Actions of a cluster unit: deliveries, the leave governor, the unfolding engine. -/
def clusterActs (s : State) (clu : Nat) (k : Cluster) : List Act :=
  (k.streams.flatMap fun st => (st.2.flatMap (·.todo)).eraseDups.map fun g => .row (.roundaboutDelivery clu st.1 g)) ++
  (if k.asks.isEmpty then [] else [.row (.leaveGrant clu)]) ++
  k.runs.flatMap fun r =>
    (r.ended.map fun e => .row (.routineTaskEnd r.cmd e.1)) ++ if r.ended.isEmpty && s.runOver r.cmd then [.row (.routineTaskEnd r.cmd 0)] else []

/-! The dies, the queues and the clock -/

/-- Actions of the distributor of a die. -/
def dieActs (s : State) (die : Nat) : List Act :=
  (if (s.candidates die).isEmpty then [] else [.row (.placementDecision die)]) ++
  (if s.levels.any fun l => l.2.launch.any fun la => la.since.isSome && !la.passed then [.row (.passedOverTimeout die)] else []) ++
  (if (s.starved die).isSome then [.row (.preemptionTrigger die)] else [])

/-- The record due in a control queue. -/
def ctrlActs (s : State) (q : Nat) : List Act :=
  match s.ctrlRec q with
  | none => []
  | some (_, r) =>
    let c := ctrlCmd r
    if !ctrlKnown q c then [.ctrl q]
    else if q = 8 then [.row (if c = 0x10 then .partcfg else .capset)]
    else [.row (if c = 1 then .inval q else if c = 2 then .resolve q else if c = 3 then .keyload q else if c = 4 then .keyclr q else .attest q)]

/-- Walks, error records and ring entries. -/
def queueActs (s : State) : List Act :=
  (s.walks.map fun k => .row (if k.2.state = .walking then .pageWalkComplete k.1 else .faultRecordWrite k.1)) ++
  ((s.errs.parks.map fun x => x.1.part).eraseDups.map fun p => .row (.errorQueueRecordWrite p)) ++
  (s.jobs.fetches.map fun f => .row (.fetchwDelivery f.1)) ++
  ((s.jobs.ring.filter fun x => x.1 < 64).map fun x => .row (.submissionRingService x.1)) ++
  (List.range 9).flatMap (ctrlActs s)

/-- What the clocks bring: the next CLK tick, and from reset release on the next master cycle of each die (R11, R418). -/
def clockActs (s : State) : List Act := (if s.boot.stage = .held then [] else [.master 0, .master 1]) ++ [.tick]

/-- Everything that may happen next without an input from outside. -/
def State.acts (s : State) : List Act :=
  (s.wgs.flatMap fun g => wgActs s g.1 g.2) ++ (s.cmds.flatMap fun c => cmdActs c.1 c.2) ++ (s.cores.flatMap fun k => coreActs s k.1 k.2) ++
  (s.clus.flatMap fun k => clusterActs s k.1 k.2) ++ [0, 1].flatMap (dieActs s) ++ queueActs s ++ clockActs s

/-! What happens at the moment its condition holds (R199, R212, R235, R303, R328, R331, R332, R419, R422) -/

/-- Of a warp: a waiting lane may act or has passed its limit, a promise is missed, a sleep ends. -/
def warpUrgent (s : State) (r : WarpRef) (w : Warp) : List Act :=
  match w.wait with
  | some (.lanes ls) =>
    ((ls.filter fun l => (s.tagTurn r l.lane).isSome).map fun l => .row (.tagConditionMet r l.lane)) ++
      if (s.lanesDue r).isEmpty then [] else [.row (.instrWaitLimit r)]
  | some (.handle _ true) => if (s.missedBy r).isSome then [.row (.promiseMissed r)] else []
  | some (.sleep t false) => if t ≤ s.clock.clk then [.row (.sleepEnd r)] else []
  | _ => []

/-- Of a core: its wake, and its watchdogs. -/
def coreUrgent (s : State) (core : Nat) : List Act :=
  (if s.wakeDue core then [.row (.coreWake core)] else []) ++ (if s.stallDue core then [.row (.progressStall core)] else []) ++
  ((((s.coreWarps core).map fun r => (s.wg r.wg).launch).eraseDups.filter (s.waitDue core)).map fun l => .row (.waitLimit core l))

/-- Everything that is due.  Each of these actions makes its own condition false. -/
def State.urgent (s : State) : List Act :=
  (s.wgs.flatMap fun g => g.2.warps.zipIdx.flatMap fun x => warpUrgent s { wg := g.1, wix := x.2 } x.1) ++
  (s.cores.flatMap fun k => coreUrgent s k.1) ++
  (if s.syncLost then [.row .syncHoldoverTimeout] else []) ++
  if s.boot.stage = .running && s.time / 1000000 ≠ s.clock.dumped then [.row .markerCounterDump] else []

/-! The choice (R434; notes/assumptions/2.md) -/

/-- An action that may happen, freely chosen, and in it what a command does next. -/
def State.freeAct (s : State) : Act × State :=
  let (i, s1) := s.pick s.acts.length
  match s.acts.getD i .tick with
  | .deposit id _ =>
    let (k, s2) := s1.pick (match tfind s1.cmds id with | some c => c.choices | none => 0)
    (.deposit id k, s2)
  | a => (a, s1)

/-- The next action: the instruction placed from outside, else what is due, else the first of the agenda, else one that may happen. -/
def State.nextAct (s : State) : Act × State :=
  match s.agenda, s.urgent with
  | .issue w :: rest, _ => (.issue w, { s with agenda := rest })
  | _, a :: _ => (a, s)
  | a :: rest, [] => (a, { s with agenda := rest })
  | [], [] => s.freeAct

/-! Placing an instruction (notes/assumptions/4.md) -/

/-- The G address at which the placed instruction stands; it lies at physical address 0. -/
def placedPc : GAddr := 0x10000

/-- A record with the largest allotments, for the warp that runs the placed instruction. -/
def placedRec : LaunchRec := parseRecord (128 * 2 ^ 144 + 64 * 2 ^ 152 + 32 * 2 ^ 128)

/-- Bytes at physical address 0, as a plain page holds them. -/
def State.putCode (s : State) (bytes : List Byte) : State :=
  let s1 := bytes.zipIdx.foldl (fun (s : State) x => s.putByte x.2 x.1) s
  { s1 with gmeta := { s1.gmeta with seals := terase s1.gmeta.seals 0, poison := terase s1.gmeta.poison 0 } }

/-- A workgroup of one warp on core 0 of partition 0 whose PC is at these bytes, and its turn to issue. -/
def State.placeCode (s : State) (bytes : List Byte) : State :=
  let (g, s1) := s.newId
  let wg : Workgroup := { Workgroup.blank with warps := [newWarp placedRec 0 placedPc 32 0], aSize := 4096, seqNo := g, origin := g }
  let page : Tlb := { part := 0, va := 0x10000, bits := 16, pte := 0x3F }
  let s2 := { s1.putCode bytes with wgs := tput s1.wgs g wg, agenda := .issue { wg := g, wix := 0 } :: s1.agenda }
  s2.modCore 0 fun k => { k with tlb := page :: k.tlb, fence := s2.gmeta.hist.length }

end Sys2Proof.Machine
end

