-- ==== Sys2Proof/Machine/Step.lean ====
section
/-!
DEFINITION. Step.lean: one step of the machine: the next action, performed.
-/
namespace Sys2Proof.Machine

/-- Perform an action. -/
def runAct (a : Act) (s : State) : Host.Outcome State Fault Refusal :=
  match a with
  | .row i => exec i s
  | .issue w | .turn w => match s.issueWarp w with
    | .run i s1 => exec i s1
    | .held s1 => .next s1
  | .deposit cmd unit => .next (s.deposit cmd unit)
  | .ctrl queue => .next (s.ctrlOther queue)
  | .master die => .next (s.masterCycle die)
  | .pulse die slot => .next (s.pulse die slot)
  | .tick => .next s.tick

/-- One step. -/
def step (s : State) : Host.Outcome State Fault Refusal := runAct s.nextAct.1 s.nextAct.2

/-- The state with an instruction placed where the next step fetches it (notes/assumptions/4.md). -/
def State.withFetchWord (s : State) (nbits w : Nat) : State := s.placeCode (tableBytes (w % 2 ^ nbits))

end Sys2Proof.Machine
end

