-- ==== Sys2Proof/Safety.lean ====
section
/-!
DEFINITION. Safety.lean: what holds of every state that a run passes through, and when an instruction executes without a wait or
a trap before its effect, in the terms the statements use.
-/
namespace Sys2Proof.Machine

/-! What every step keeps -/

/-- The memory of the machine is in canonical form. -/
def State.memoryOk (s : State) : Bool := Memory.wf s.gmeta.lost s.mem

/-- Before the single step of TIME, CLK and TIME count from the same instant: K = 0 (R10, R11). -/
def State.clockOk (s : State) : Bool := s.clock.stepped || decide (s.clock.k = 0)

/-- The cap in force never exceeds 2,000 W (R368, R421). -/
def State.capOk (s : State) : Bool := decide (s.power.cap ≤ 2000000)

/-- Every cluster is delivered 1 to 16 pulses of 16 (R418). -/
def State.pulsesOk (s : State) : Bool := s.clus.all fun k => decide (1 ≤ k.2.d ∧ k.2.d ≤ 16)

/-- The granules that are stored under a key are listed in rising order. -/
def State.sealsOk (s : State) : Bool := tsorted s.gmeta.seals

/-- The bytes and the tags of every A space are in canonical form. -/
def State.spacesOk (s : State) : Bool := s.wgs.all fun g => twf (0 : Byte) g.2.a && twf false g.2.tags

/-- The keys of the machine's tables rise, so that a key is listed once and an erased entry is gone. -/
def State.tablesOk (s : State) : Bool :=
  tsorted s.wgs && tsorted s.cmds && tsorted s.parts && tsorted s.walks && tsorted s.levels && tsorted s.keys && tsorted s.jobs.ring &&
  s.cores.all (fun k => tsorted k.2.c) && s.wgs.all fun g => g.2.warps.all fun w => tsorted w.v && tsorted w.s && tsorted w.p

/-- What every step keeps. -/
structure State.Inv (s : State) : Prop where
  memory : s.memoryOk = true
  seals  : s.sealsOk = true
  spaces : s.spacesOk = true
  tables : s.tablesOk = true
  clock  : s.clockOk = true
  cap    : s.capOk = true
  pulses : s.pulsesOk = true

/-! An instruction that executes -/

/-- The warp `w` whose turn it is executes an instruction now: it has a present thread, does not stand inside an instruction, no
token (R51), pending register (R49), deferred trap (R377), decode-time fault (R44) or read that SBCHECK refuses (R48) stops it,
and where the instruction is a safe point its level has not been cancelled (R315). -/
structure Ready (op : Nat) (f : Fields) (s : State) (w : Warp) : Prop where
  here    : s.warp? s.cur = some w
  present : w.present ≠ 0
  fresh   : inProgress w.wait = false
  tokens  : busyTokens f w.begun = []
  settled : pendingKeys op f w.begun = []
  clear   : deferDue s.cmds w.begun op f (!(startCtx op f s w).1.lanes.isEmpty) = none
  legal   : decodeFault w.begun op f = none
  onTime  : earlyLanes (startCtx op f s w).1 (startCtx op f s w).2 w.begun = []
  calm    : f.sp = true → (s.wg s.cur.wg).cancelled = false

/-- The context of an instruction that executes; one that goes on keeps the threads that its guard named at its start (R42). -/
def ctxOf (op : Nat) (f : Fields) (s : State) (w : Warp) : Ctx :=
  { (startCtx op f s w).1 with lanes := if inProgress w.wait then w.slotLanes else (startCtx op f s w).1.lanes }

/-- The instruction executes with its uniform guard true (R43), its operands read for thread `x.1`. -/
structure ReadyUni (op : Nat) (f : Fields) (s : State) (w : Warp) (x : Nat × Nat) : Prop extends Ready op f s w where
  lane : (ctxOf op f s w).lanes = [x]

/-- Between `s` and `t` only warp `r` has changed, and how far its core and its cluster have come: every byte of memory, every
other warp, handle, command and special register is the same. -/
structure OnlyWarp (s t : State) (r : WarpRef) : Prop where
  rest  : t = { s with wgs := t.wgs, cores := t.cores, clus := t.clus }
  group : ∀ g, tfind t.wgs g = (tfind s.wgs g).map fun k => { k with warps := (t.wg g).warps }
  warps : ∀ q, q ≠ r → t.warp? q = s.warp? q
  core  : ∀ c, t.core c = { s.core c with progress := (t.core c).progress }
  clu   : ∀ c, t.cluster c = { s.cluster c with power := (t.cluster c).power }

/-- The instruction goes on after a wait inside it: its waits and its traps at the start have been passed (R46, R201). -/
structure Resumed (op : Nat) (f : Fields) (s : State) (w : Warp) : Prop where
  here    : s.warp? s.cur = some w
  present : w.present ≠ 0
  inside  : inProgress w.wait = true
  calm    : f.sp = true → (s.wg s.cur.wg).cancelled = false

/-- The state in which the effect of the instruction of warp `w` happens: what has become available stands in its registers. -/
abbrev State.started (s : State) (w : Warp) : State := s.setWarp s.cur w.begun

/-- The address of the next instruction in line (R36). -/
def nextPc (op : Nat) (f : Fields) (w : Warp) : GAddr := w.pc + BitVec.ofNat 57 (lengthOf op f.sp)

/-- The instruction retires with PC at `pc`: its warp is `w1` but for the progress of the warp, and everything else is as in `s1`. -/
def Ends (i : Instr) (f : Fields) (s s1 : State) (w1 : Warp) (pc : GAddr) : Prop :=
  ∃ t w', exec i s = .next t ∧ OnlyWarp s1 t s.cur ∧ t.warp? s.cur = some w' ∧
    w' = { w1 with
      pc := pc, next := w'.next, busy := w'.busy, draw := w'.draw, wait := none, doneLanes := [], kept := none, tr := []
      atSafe := f.sp, live := if f.sp then f.live else w1.live, stopped := w'.stopped }

/-- The warp waits at the instruction, and nothing else happens; a wait that only goes on keeps the moment it began (R332). -/
def Waits (i : Instr) (op : Nat) (f : Fields) (s : State) (w : Warp) (x : Wait) : Prop :=
  exec i s = .next ((s.started w).modWarp s.cur fun v =>
    { v with wait := some x, waitAt := if w.wait = some x then v.waitAt else s.time, slotLanes := (ctxOf op f s w).lanes })

/-- The instruction takes the trap `x` at its own address, in the state `s1` (R374); its spacing holds for the handler too (R46). -/
def TrapsIn (s1 : State) (i : Instr) (op : Nat) (f : Fields) (s : State) (w : Warp) (x : TrapInfo) : Prop :=
  exec i s = .next ((((ctxOf op f s w).charge s1 0).modWarp s.cur fun v =>
    { v with next := w.startAt + (ctxOf op f s w).span }).takeTrap s.cur w.startAt { x with ilen := lengthOf op f.sp / 8 })

/-- The instruction takes the trap `x` and does nothing else. -/
abbrev Traps (i : Instr) (op : Nat) (f : Fields) (s : State) (w : Warp) (x : TrapInfo) : Prop := TrapsIn (s.started w) i op f s w x

/-- What a register holds once every fixed-latency result on its way to it has landed (R47, R50). -/
def Warp.final (w : Warp) (k : RegKey) : Word :=
  match w.flights.find? fun fl => fl.key = k with
  | some fl => fl.val
  | none => w.stored k

/-- STATUS once every flag on its way has been set (R25). -/
def Warp.finalStatus (w : Warp) : Word := w.flagsIn.foldl (fun st fl => st ||| fl.flags) w.status

/-- The warp `w'` is `w` after an instruction has retired with PC at `pc`: but for what `fs` names of it (results on their way,
pending results, accesses and the like) only its progress has changed. -/
def Retired (f : Fields) (w w' : Warp) (pc : GAddr) : Prop :=
  w' = { w with
    flights := w'.flights, flagsIn := w'.flagsIn, pc := pc, next := w'.next, busy := w'.busy, draw := w'.draw, wait := none, doneLanes := []
    kept := none, tr := [], atSafe := f.sp, live := if f.sp then f.live else w.live, stopped := w'.stopped }

/-- An instruction of opcode `op` that is ready computes: `val` gives the value and the flags of each executing thread from the
operands it reads (R47).  It goes on at the next instruction; each destination register receives its word of the value, P7
excepted (R18), STATUS the flags (R25); every other register, and everything but this warp, is as before. -/
def Computes (i : Instr) (op : Nat) (f : Fields) (val : Ctx → Warp → Nat × Nat → Nat × Word) : Prop :=
  ∀ s w, Ready op f s w → ∃ t w',
    exec i s = .next t ∧ OnlyWarp s t s.cur ∧ t.warp? s.cur = some w' ∧
    Retired f w.begun w' (nextPc op f w) ∧
    (∀ x ∈ (ctxOf op f s w).lanes, ∀ k n, (k, n) ∈ ((ctxOf op f s w).dest w.begun x.1).zipIdx → k.constant = false →
      w'.final k = BitVec.ofNat 32 ((val (ctxOf op f s w) w.begun x).1 >>> (32 * n))) ∧
    (∀ k, (∀ x ∈ (ctxOf op f s w).lanes, k ∉ (ctxOf op f s w).dest w.begun x.1) → w'.final k = w.begun.final k) ∧
    w'.finalStatus = (ctxOf op f s w).lanes.foldl (fun st x => st ||| (val (ctxOf op f s w) w.begun x).2) w.begun.finalStatus

/-- An access of `n` bytes to A space of the workgroup of `r` passes every check (items of R193; R183, R359, R390). -/
structure AOk (s : State) (r : WarpRef) (w : Warp) (addr align n : Nat) (write : Bool) : Prop where
  fits    : addr + n ≤ (s.wg r.wg).aSize
  aligned : addr % align = 0
  free    : s.lockedA (s.wg r.wg).core r.wg addr n write = false
  noted   : (w.tr.find? fun x => x.1 = 2 ^ 65 + addr / 4) = none

/-- An access of `n` bytes to G space is translated to `t` by the TLBs and passes every check (items of R193; R183, R356, R417). -/
structure GOk (s : State) (r : WarpRef) (w : Warp) (addr align n : Nat) (write needWr unitOk : Bool) (t : Trans) : Prop where
  canonical : addr < 2 ^ 57
  aligned   : addr % align = 0
  noted     : (w.tr.find? fun x => x.1 = pageOf addr || x.1 = 2 ^ 64 + addr / 32) = none
  cached    : s.tlbAt (s.wg r.wg).core (s.wg r.wg).part addr = some t
  unit      : unitOk = true ∨ paSpace t.pa = 0
  allowed   : (if needWr then pteWr t.pte else pteRd t.pte) = true
  port      : s.portDown t.pa = false
  free      : s.lockedG (s.wg r.wg).core (s.wg r.wg).part addr n write = false

/-- A cross-lane instruction that is ready, and whose participants' results depend on no register that SBCHECK finds read too early
(R254), gives the threads of `res` their values and STATUS the flags; all else is as before, as for `Computes`. -/
def ComputesAcross (i : Instr) (op : Nat) (f : Fields) (early : Ctx → Warp → Nat → Bool)
    (res : Ctx → Warp → List Nat → List (Nat × Nat × Word)) : Prop :=
  ∀ s w, Ready op f s w → let c := ctxOf op f s w; let ps := c.lanes.map (·.1); let b := w.begun
    (c.sb = true → ∀ j ∈ ps, early c b j = false) → ∃ t w',
      exec i s = .next t ∧ OnlyWarp s t s.cur ∧ t.warp? s.cur = some w' ∧ Retired f b w' (nextPc op f w) ∧
      (∀ r ∈ res c b ps, ∀ k n, (k, n) ∈ (c.dest b r.1).zipIdx → k.constant = false →
        w'.final k = BitVec.ofNat 32 (r.2.1 >>> (32 * n))) ∧
      (∀ k, (∀ j ∈ ps, k ∉ c.dest b j) → w'.final k = b.final k) ∧
      w'.finalStatus = (res c b ps).foldl (fun st r => st ||| r.2.2) b.finalStatus

end Sys2Proof.Machine
end

