-- ==== Sys2Proof/Certificates/Slice0/Obligations.lean ====
section
/-!
DEFINITION. Obligations.lean: the statements about the machine.  Each docstring names the rule of the manual that it states.
-/
namespace Sys2Proof.Machine

/-! Words of the integer rules -/

/-- The exact integer `x` brought into the range of I(w), with ISAT where it lay outside (R59, R81). -/
def satSigned (w : Nat) (x : Int) : Nat × Word :=
  if x > 2 ^ (w - 1) - 1 then (2 ^ (w - 1) - 1, flagISAT)
  else if x < -2 ^ (w - 1) then (2 ^ (w - 1), flagISAT)
  else ((BitVec.ofInt w x).toNat, 0)

/-- The exact integer `x` brought into the range of N(w), with ISAT where it lay outside (R59, R81). -/
def satUnsigned (w : Nat) (x : Int) : Nat × Word :=
  if x > 2 ^ w - 1 then (2 ^ w - 1, flagISAT) else if x < 0 then (0, flagISAT) else (x.toNat, 0)

/-- An exact result of `w` bits modulo 2^w, and no flag. -/
def wrapped (w : Nat) (x : Int) : Nat × Word := ((BitVec.ofInt w x).toNat, 0)

/-- A pattern read as I(w). -/
def signed (w n : Nat) : Int := (BitVec.ofNat w n).toInt

/-- ADD and SUB by form (R80, R81). -/
def addRule (m : Nat) (op : Int → Int → Int) (a b : Nat) : Nat × Word :=
  match m with
  | 1 => satSigned 32 (op (signed 32 a) (signed 32 b))
  | 2 => satUnsigned 32 (op a b)
  | 3 => wrapped 64 (op a b)
  | 4 => satSigned 64 (op (signed 64 a) (signed 64 b))
  | 5 => satUnsigned 64 (op a b)
  | _ => wrapped 32 (op a b)

end Sys2Proof.Machine

open Sys2Proof Sys2Proof.Machine

namespace Sys2Proof.Machine
/-- R81: ADD and SUB compute the exact sum or difference and wrap or saturate it once; only saturation sets ISAT. -/
def addSubRules : Prop :=
  ∀ f, Computes (.add f) 0x12 f (fun c w x => addRule f.m.toNat (· + ·) (c.valA w x) (c.valB w x)) ∧
    Computes (.sub f) 0x13 f (fun c w x => addRule f.m.toNat (· - ·) (c.valA w x) (c.valB w x))

/-- R81: MUL, MULH, MAD and MADW compute exactly and wrap or saturate once. -/
def multiplyRules : Prop :=
  ∀ f, Computes (.mul f) 0x14 f (fun c w x => match f.m.toNat with
      | 1 => satSigned 32 (signed 32 (c.valA w x) * signed 32 (c.valB w x))
      | 2 => satUnsigned 32 ((c.valA w x : Int) * c.valB w x)
      | 3 => wrapped 64 ((c.valA w x : Int) * c.valB w x)
      | _ => wrapped 32 ((c.valA w x : Int) * c.valB w x)) ∧
    Computes (.mulh f) 0x15 f (fun c w x =>
      (((if f.m = 0 then (BitVec.ofNat 32 (c.valA w x)).signExtend 64 * (BitVec.ofNat 32 (c.valB w x)).signExtend 64
         else BitVec.ofNat 64 (c.valA w x) * BitVec.ofNat 64 (c.valB w x)) >>> 32).toNat, 0)) ∧
    Computes (.mad f) 0x16 f (fun c w x => match f.m.toNat with
      | 1 => satSigned 32 (signed 32 (c.valA w x) * signed 32 (c.valB w x) + signed 32 (c.valC w x))
      | 2 => satUnsigned 32 ((c.valA w x : Int) * c.valB w x + c.valC w x)
      | _ => wrapped 32 ((c.valA w x : Int) * c.valB w x + c.valC w x)) ∧
    Computes (.madw f) 0x17 f (fun c w x => wrapped 64
      (if f.m = 0 then signed 32 (c.valA w x) * signed 32 (c.valB w x) + signed 64 (c.valC w x)
       else (c.valA w x : Int) * c.valB w x + c.valC w x))
end Sys2Proof.Machine

/-- R81: ADD, SUB, MUL, MULH, MAD and MADW. -/
def Obligations.IntegerArithmetic : Prop := addSubRules ∧ multiplyRules

namespace Sys2Proof.Machine
/-- The number whose bit i is `p i`, for i below `n`. -/
def bitSum (n : Nat) (p : Nat → Bool) : Nat := ((List.range n).map fun i => (p i).toNat * 2 ^ i).sum

/-- The width of a .B32 or .B64 form as a bit vector operand. -/
def bitsForm (m : BitVec 3) : Nat := if m = 1 then 64 else 32
end Sys2Proof.Machine

/-- R82: AND, OR, XOR, NOT, SHL, SHR, SAR and ROTL on patterns of 32 or 64 bits; no flag. -/
def Obligations.LogicShift : Prop :=
  ∀ f, let n := bitsForm f.m
    Computes (.and f) 0x18 f (fun c w x => ((BitVec.ofNat n (c.valA w x) &&& BitVec.ofNat n (c.valB w x)).toNat, 0)) ∧
    Computes (.or f) 0x19 f (fun c w x => ((BitVec.ofNat n (c.valA w x) ||| BitVec.ofNat n (c.valB w x)).toNat, 0)) ∧
    Computes (.xor f) 0x1A f (fun c w x => ((BitVec.ofNat n (c.valA w x) ^^^ BitVec.ofNat n (c.valB w x)).toNat, 0)) ∧
    Computes (.not f) 0x1B f (fun c w x => ((~~~ BitVec.ofNat n (c.valA w x)).toNat, 0)) ∧
    Computes (.shl f) 0x1C f (fun c w x => ((BitVec.ofNat n (c.valA w x) <<< c.valB w x).toNat, 0)) ∧
    Computes (.shr f) 0x1D f (fun c w x => ((BitVec.ofNat n (c.valA w x) >>> c.valB w x).toNat, 0)) ∧
    Computes (.sar f) 0x1E f (fun c w x => (((BitVec.ofNat n (c.valA w x)).sshiftRight (c.valB w x)).toNat, 0)) ∧
    Computes (.rotl f) 0x1F f (fun c w x => (((BitVec.ofNat n (c.valA w x)).rotateLeft (c.valB w x)).toNat, 0))

namespace Sys2Proof.Machine
/-- R83: BFE and BFI take position and length from a control word, cut to the 32 bits of the register. -/
def bitFieldRules : Prop :=
  ∀ f, Computes (.bfe f) 0x20 f (fun c w x =>
      let p := min (c.valB w x % 256) 32
      let l := min (c.valB w x / 256 % 256) (32 - p)
      let field := c.valA w x / 2 ^ p % 2 ^ l
      (if f.m = 1 ∧ 0 < l ∧ 2 ^ (l - 1) ≤ field then field + 2 ^ 32 - 2 ^ l else field, 0)) ∧
    Computes (.bfi f) 0x21 f (fun c w x =>
      let p := min (c.valC w x % 256) 32
      let l := min (c.valC w x / 256 % 256) (32 - p)
      (bitSum 32 fun i => if p ≤ i ∧ i < p + l then (c.valA w x).testBit (i - p) else (c.valB w x).testBit i, 0))

/-- R84: POPC, CLZ and BREV. -/
def bitCountRules : Prop :=
  ∀ f, let n := bitsForm f.m
    Computes (.popc f) 0x22 f (fun c w x => (((List.range n).filter fun i => (c.valA w x).testBit i).length, 0)) ∧
    Computes (.clz f) 0x23 f (fun c w x => (((List.range n).takeWhile fun i => !(c.valA w x).testBit (n - 1 - i)).length, 0)) ∧
    Computes (.brev f) 0x24 f (fun c w x => ((BitVec.ofNat n (c.valA w x)).reverse.toNat, 0))

/-- R85: PERM moves bytes, or looks nibbles or bytes up in a table. -/
def permRule : Prop :=
  ∀ f, Computes (.perm f) 0x25 f (fun c w x =>
    let a := c.valA w x
    let b := c.valB w x
    let byte (n k : Nat) : Nat := n / 2 ^ (8 * k) % 256
    let nibble (n k : Nat) : Nat := n / 2 ^ (4 * k) % 16
    let sum (g : Nat → Nat) (step n : Nat) : Nat := ((List.range n).map fun k => g k * 2 ^ (step * k)).sum
    (match f.m.toNat with
      | 0 => sum (fun k => let s := nibble (c.valC w x) k; if s ≥ 8 then 0 else byte (a + b * 2 ^ 32) s) 8 4
      | 1 => sum (fun k => nibble b (nibble a k)) 4 8
      | 2 => sum (fun k => byte b (nibble a (2 * k))) 8 4
      | _ => sum (fun k => byte b (nibble a (2 * k + 1))) 8 4, 0))
end Sys2Proof.Machine

/-- R83-R85: BFE, BFI, POPC, CLZ, BREV and PERM. -/
def Obligations.BitMoves : Prop := bitFieldRules ∧ bitCountRules ∧ permRule

namespace Sys2Proof.Machine
/-- `a` precedes `b` in the type that M names: I32, N32, I64, N64 (R86, R87). -/
def precedes (m : BitVec 3) (a b : Nat) : Bool :=
  match m.toNat with
  | 0 => (BitVec.ofNat 32 a).slt (BitVec.ofNat 32 b)
  | 1 => decide (a < b)
  | 2 => (BitVec.ofNat 64 a).slt (BitVec.ofNat 64 b)
  | _ => decide (a < b)
end Sys2Proof.Machine

namespace Sys2Proof.Machine
/-- R86: MIN and MAX write the lesser or the greater of the type M names; ABS wraps or saturates with ISAT. -/
def minMaxAbsRules : Prop :=
  ∀ f, Computes (.min f) 0x26 f (fun c w x => (if precedes f.m (c.valB w x) (c.valA w x) then c.valB w x else c.valA w x, 0)) ∧
    Computes (.max f) 0x27 f (fun c w x => (if precedes f.m (c.valA w x) (c.valB w x) then c.valB w x else c.valA w x, 0)) ∧
    Computes (.abs f) 0x28 f (fun c w x => match f.m.toNat with
      | 0 => wrapped 32 (signed 32 (c.valA w x)).natAbs
      | 1 => satSigned 32 (signed 32 (c.valA w x)).natAbs
      | 2 => wrapped 64 (signed 64 (c.valA w x)).natAbs
      | _ => satSigned 64 (signed 64 (c.valA w x)).natAbs)

/-- R87: SEL chooses by its predicate, and SETP writes the outcome of a comparison to a P register. -/
def selSetpRules : Prop :=
  ∀ f, Computes (.sel f) 0x29 f (fun c w x => (if c.valC w x % 2 = 1 then c.valA w x else c.valB w x, 0)) ∧
    Computes (.setp f) 0x2A f (fun c w x =>
      let a := c.valA w x
      let b := c.valB w x
      let holds : Bool := match f.c.toNat with
        | 0 => a = b
        | 1 => a ≠ b
        | 2 => precedes f.m a b
        | 3 => !precedes f.m b a
        | 4 => precedes f.m b a
        | _ => !precedes f.m a b
      (if holds then 1 else 0, 0))
end Sys2Proof.Machine

/-- R86, R87: MIN, MAX, ABS, SEL and SETP. -/
def Obligations.Compare : Prop := minMaxAbsRules ∧ selSetpRules

/-- R88, R89: MOV, MOVI, LEA and LEA.PC; no flag and no check of the address formed. -/
def Obligations.MoveAddress : Prop :=
  ∀ f, Computes (.mov f) 0x10 f (fun c w x => (c.valA w x, 0)) ∧
    Computes (.movi f) 0x11 f (fun _ _ _ => (if f.m = 0 then (f.ext.truncate 32).toNat else f.ext.toNat, 0)) ∧
    Computes (.lea f) 0x2B f (fun c w x => wrapped 64 ((c.valA w x : Int) + signed 32 (c.valB w x) * 2 ^ f.m.toNat + signed 32 (c.valC w x))) ∧
    Computes (.leaPc f) 0x2C f (fun _ w _ => wrapped 57 ((w.pc.toNat : Int) + (f.ext.truncate 32).toInt))

/-! Floating point -/

namespace Sys2Proof.Machine
/-- The results of `n` elements, `step` bits apart, and the flags of all of them (R92, R100). -/
def perElement (step n : Nat) (g : Nat → Nat × Word) : Nat × Word :=
  (((List.range n).map fun k => (g k).1 * 2 ^ (step * k)).sum, ((List.range n).map fun k => (g k).2).foldl (· ||| ·) 0)
/-- An exact result with its flags, rounded once (R72). -/
def roundOnce (fm : Fmt) (mode : Nat) (x : FpVal × Word) : Nat × Word := ((roundVal fm mode x.1).1, x.2 ||| (roundVal fm mode x.1).2)
/-- a · b + c without a rounding between (R92). -/
def fpMulAdd (a b c : FpVal) : FpVal × Word := ((fpAdd 0 (fpMul a b).1 c).1, (fpMul a b).2 ||| (fpAdd 0 (fpMul a b).1 c).2)
/-- The exact value of a finite or zero operand; 0 for the others. -/
def FpVal.rat : FpVal → ℚ
  | .fin neg m e => (if neg then -1 else 1) * m * (2 : ℚ) ^ e
  | _ => 0
/-- The formats of R60-R64. -/
def formats : List Fmt := [fmtF32, fmtF16, fmtBF16, fmtE4M3, fmtE5M2, fmtE2M1]
end Sys2Proof.Machine

/-- R92, R100: FADD, FSUB, FMUL, FMA and the packed forms compute exactly and round once, element by element, the flags of all
elements together in STATUS; R90 gives the elements and immediates. -/
def Obligations.FloatArithmetic : Prop :=
  ∀ f, let n := f.c.toNat + 1
    let pk := f.c.toNat
    let fm := f.m.toNat
    Computes (.fadd f) 0x40 f (fun c w x => perElement 32 n fun k => roundOnce fmtF32 fm
      (fpAdd fm (unpack fmtF32 (c.elemA w x fmtF32 32 k)) (unpack fmtF32 (c.elemB w x fmtF32 32 k)))) ∧
    Computes (.fsub f) 0x41 f (fun c w x => perElement 32 n fun k => roundOnce fmtF32 fm
      (fpAdd fm (unpack fmtF32 (c.elemA w x fmtF32 32 k)) (unpack fmtF32 (c.elemB w x fmtF32 32 k)).neg)) ∧
    Computes (.fmul f) 0x42 f (fun c w x => perElement 32 n fun k => roundOnce fmtF32 fm
      (fpMul (unpack fmtF32 (c.elemA w x fmtF32 32 k)) (unpack fmtF32 (c.elemB w x fmtF32 32 k)))) ∧
    Computes (.fma f) 0x43 f (fun c w x => perElement 32 (fm + 1) fun k => roundOnce fmtF32 0
      (fpMulAdd (unpack fmtF32 (c.elemA w x fmtF32 32 k)) (unpack fmtF32 (c.elemB w x fmtF32 32 k)) (unpack fmtF32 (c.elemC w x fmtF32 32 k)))) ∧
    Computes (.pkadd f) 0x50 f (fun c w x => let h := packedFmt pk
      perElement 16 (packedCount pk) fun k => roundOnce h fm
        (fpAdd fm (unpack h (c.elemA w x h 16 k)) (unpack h (c.elemB w x h 16 k)))) ∧
    Computes (.pkmul f) 0x51 f (fun c w x => let h := packedFmt pk
      perElement 16 (packedCount pk) fun k => roundOnce h fm
        (fpMul (unpack h (c.elemA w x h 16 k)) (unpack h (c.elemB w x h 16 k)))) ∧
    Computes (.pkfma f) 0x52 f (fun c w x => let h := packedFmt fm
      perElement 16 (packedCount fm) fun k => roundOnce h 0
        (fpMulAdd (unpack h (c.elemA w x h 16 k)) (unpack h (c.elemB w x h 16 k)) (unpack h (c.elemC w x h 16 k))))

namespace Sys2Proof.Machine
/-- A NaN, and a signalling one. -/
def FpVal.isNan : FpVal → Bool
  | .nan _ => true
  | _ => false
def FpVal.isSnan : FpVal → Bool
  | .nan sg => sg
  | _ => false
/-- R92: sums and products of finite operands are exact; an exact zero sum of opposite signs is +0, or −0 under RDN, and the sign of a
product is the XOR of the operand signs. -/
def exactFiniteRule : Prop :=
  ∀ mode n1 m1 e1 n2 m2 e2, 0 < m1 → 0 < m2 → let a := FpVal.fin n1 m1 e1; let b := FpVal.fin n2 m2 e2
    (fpAdd mode a b).1.rat = a.rat + b.rat ∧ (fpAdd mode a b).2 = 0 ∧
    (a.rat + b.rat = 0 → (fpAdd mode a b).1 = .zero (mode = 2)) ∧
    (fpMul a b).1.rat = a.rat * b.rat ∧ (∃ m e, (fpMul a b).1 = .fin (n1 ^^ n2) m e ∧ 0 < m) ∧ (fpMul a b).2 = 0

/-- R92, R61: a NaN operand gives the canonical NaN, with INV where one is signalling; ∞ − ∞ and 0 × ∞ raise INV; elsewhere an infinity
stays one; a zero adds nothing, two zeros of one sign keep it, and a product with a zero is a zero. -/
def specialOperandRule : Prop :=
  (∀ mode a b, (FpVal.isNan a || FpVal.isNan b) = true → let r := (FpVal.nan false, if FpVal.isSnan a || FpVal.isSnan b then flagINV else 0)
    fpAdd mode a b = r ∧ fpMul a b = r) ∧
  (∀ mode x y n m e, 0 < m →
    fpAdd mode (.inf x) (.inf y) = (if x = y then (.inf x, 0) else (.nan false, flagINV)) ∧
    fpAdd mode (.inf x) (.fin n m e) = (.inf x, 0) ∧ fpAdd mode (.fin n m e) (.inf x) = (.inf x, 0) ∧
    fpAdd mode (.inf x) (.zero y) = (.inf x, 0) ∧ fpAdd mode (.zero y) (.inf x) = (.inf x, 0) ∧
    fpAdd mode (.zero x) (.zero y) = (.zero (if x = y then x else mode = 2), 0) ∧
    fpAdd mode (.zero x) (.fin n m e) = (.fin n m e, 0) ∧ fpAdd mode (.fin n m e) (.zero x) = (.fin n m e, 0) ∧
    fpMul (.inf x) (.inf y) = (.inf (x ^^ y), 0) ∧
    fpMul (.inf x) (.fin n m e) = (.inf (x ^^ n), 0) ∧ fpMul (.fin n m e) (.inf x) = (.inf (n ^^ x), 0) ∧
    fpMul (.inf x) (.zero y) = (.nan false, flagINV) ∧ fpMul (.zero y) (.inf x) = (.nan false, flagINV) ∧
    fpMul (.zero x) (.zero y) = (.zero (x ^^ y), 0) ∧
    fpMul (.zero x) (.fin n m e) = (.zero (x ^^ n), 0) ∧ fpMul (.fin n m e) (.zero x) = (.zero (n ^^ x), 0))
end Sys2Proof.Machine

/-- R92: sums and products are exact, and what they are of NaNs, infinities and zeros. -/
def Obligations.ExactArithmetic : Prop := exactFiniteRule ∧ specialOperandRule

namespace Sys2Proof.Machine
/-- R72, R73: a value of a format rounds to itself under every mode and sets no flag; only the code 0b1000 of E2M1 is no value of
its own (R64, R72). -/
def roundExactRule : Prop :=
  ∀ fm ∈ formats, ∀ mode code, code < 2 ^ (fm.mag + 1) → isNan fm code = false → (fm = fmtE2M1 → code ≠ 8) →
    roundVal fm mode (unpack fm code) = (code, 0)

/-- The value of a finite code of a format. -/
noncomputable def codeValue (fm : Fmt) (code : Nat) : ℝ := ((unpack fm code).rat : ℝ)
/-- The candidate that a mode chooses for x exceeds the largest finite magnitude `top`, whose last place is `ulp`; for E4M3 and E2M1 x
itself does (R72). -/
def Overflows (fm : Fmt) (mode : Nat) (x top ulp : ℝ) : Prop :=
  if fm.ieee = false then top < |x|
  else match mode with
    | 0 => top + ulp / 2 ≤ |x|
    | 1 => top + ulp ≤ |x|
    | 2 => top < -x ∨ top + ulp ≤ x
    | _ => top < x ∨ top + ulp ≤ -x
/-- R72: the code and the flags of x ≠ 0 rounded once into a format.  Without overflow no value of the format lies between x and the
result, the result lies on the side of x that the mode names, under RNE no value is nearer and of two as near it is the even one; INX is
set where it differs from x, and UFL with it where |x| is less than the smallest normal magnitude.  A zero keeps the sign of x, but in
E2M1 it is 0b0000.  With overflow the result is that of the table. -/
def RoundedTo (fm : Fmt) (mode : Nat) (x : ℝ) (r : Nat × Word) : Prop :=
  let top := codeValue fm fm.top
  let beyond := Overflows fm mode x top (top - codeValue fm (fm.top - 1))
  let y := codeValue fm r.1
  (beyond → r.2 = (if fm.ieee = true then flagOFL else flagISAT) ||| flagINX ∧
    (0 < x → r.1 = if fm.ieee = true ∧ (mode = 0 ∨ mode = 3) then fm.top + 1 else fm.top) ∧
    (x < 0 → r.1 = 2 ^ fm.mag + if fm.ieee = true ∧ (mode = 0 ∨ mode = 2) then fm.top + 1 else fm.top)) ∧
  (¬beyond →
    (0 < x → r.1 ≤ fm.top) ∧ (x < 0 → (2 ^ fm.mag ≤ r.1 ∧ r.1 ≤ 2 ^ fm.mag + fm.top ∧ (fm = fmtE2M1 → r.1 ≠ 8)) ∨ (fm = fmtE2M1 ∧ r.1 = 0)) ∧
    (∀ c < 2 ^ (fm.mag + 1), c % 2 ^ fm.mag ≤ fm.top → let z := codeValue fm c
      ¬(x < z ∧ z < y) ∧ ¬(y < z ∧ z < x) ∧ (mode = 0 → z ≠ y → |x - y| ≤ |x - z| ∧ (|x - y| = |x - z| → r.1 % 2 = 0))) ∧
    (mode = 1 → |y| ≤ |x|) ∧ (mode = 2 → y ≤ x) ∧ (mode = 3 → x ≤ y) ∧
    (y = x → r.2 = 0) ∧ (y ≠ x → |x| < codeValue fm (2 ^ fm.mb) → r.2 = flagINX ||| flagUFL) ∧
    (y ≠ x → codeValue fm (2 ^ fm.mb) ≤ |x| → r.2 = flagINX))

/-- R72: a finite value is rounded once into any of the formats under any mode. -/
def roundFiniteRule : Prop :=
  ∀ fm ∈ formats, ∀ mode < 4, ∀ neg m e, 0 < m → RoundedTo fm mode ((FpVal.fin neg m e).rat : ℝ) (roundVal fm mode (.fin neg m e))

/-- R73: what infinities, zeros and NaNs become. -/
def roundSpecialRule : Prop :=
  ∀ fm ∈ formats, ∀ mode neg sg,
    roundVal fm mode (.nan sg) = (if fm = fmtE2M1 then (0, flagINV) else (fm.nan, if sg then flagINV else 0)) ∧
    roundVal fm mode (.inf neg) = ((if neg then 2 ^ fm.mag else 0) + (if fm.ieee = true then fm.top + 1 else fm.top), if fm.ieee = true then 0 else flagISAT) ∧
    roundVal fm mode (.zero neg) = (if neg = true ∧ fm ≠ fmtE2M1 then 2 ^ fm.mag else 0, 0)
end Sys2Proof.Machine

/-- R64, R72, R73: rounding keeps what a format holds, takes the candidate that its mode names, and sets the flags of R72; special
inputs convert as R73 says. -/
def Obligations.Rounding : Prop := roundExactRule ∧ roundFiniteRule ∧ roundSpecialRule

/-- R93, R95, R96: FMIN and FMAX by their NaN rules with −0 < +0, FSETP with −0 equal to +0, and FKEY's order keys. -/
def Obligations.FloatCompare : Prop :=
  ∀ f, let minMax (greater : Bool) (a b : Nat) : Nat × Word :=
      (if isNan fmtF32 a ∧ isNan fmtF32 b then 0x7FC00000
       else if isNan fmtF32 a ∨ isNan fmtF32 b then (if f.m = 1 ∧ greater then 0x7FC00000 else if isNan fmtF32 a then b else a)
       else if (fpOrd0 fmtF32 a < fpOrd0 fmtF32 b) ↔ greater = true then b else a,
       if isSnan fmtF32 a ∨ isSnan fmtF32 b then flagINV else 0)
    Computes (.fmin f) 0x44 f (fun c w x => minMax false (c.elemA w x fmtF32 32 0) (c.elemB w x fmtF32 32 0)) ∧
    Computes (.fmax f) 0x45 f (fun c w x => minMax true (c.elemA w x fmtF32 32 0) (c.elemB w x fmtF32 32 0)) ∧
    Computes (.fsetp f) 0x4B f (fun c w x =>
      let fm := if f.m = 0 then fmtF32 else if f.m = 1 then fmtF16 else fmtBF16
      let a := c.elemA w x fm 32 0
      let b := c.elemB w x fm 32 0
      let nan : Bool := isNan fm a || isNan fm b
      let holds : Bool := match f.c.toNat with
        | 0 => !nan && fpOrd fm a = fpOrd fm b
        | 1 => nan || fpOrd fm a ≠ fpOrd fm b
        | 2 => !nan && fpOrd fm a < fpOrd fm b
        | 3 => !nan && fpOrd fm a ≤ fpOrd fm b
        | 4 => !nan && fpOrd fm b < fpOrd fm a
        | 5 => !nan && fpOrd fm b ≤ fpOrd fm a
        | 6 => !nan
        | _ => nan
      (if holds then 1 else 0, if (if f.c.toNat ∈ [2, 3, 4, 5] then nan else isSnan fm a || isSnan fm b) then flagINV else 0)) ∧
    Computes (.fkey f) 0x4C f (fun c w x =>
      let fm := if f.m.toNat < 3 then fmtF32 else fmtF16
      let n := fm.mag + 1
      let a := c.elemA w x fm 32 0
      (if isNan fm a then
         (if f.m.toNat % 3 = 1 then 2 ^ n - 1 else if f.m.toNat % 3 = 2 then 0 else if a < 2 ^ fm.mag then 2 ^ n - 1 else 0)
       else if a < 2 ^ fm.mag then (BitVec.ofNat n a ||| BitVec.ofNat n (2 ^ fm.mag)).toNat else (~~~BitVec.ofNat n a).toNat, 0))

namespace Sys2Proof.Machine
/-- R94: what RCP, RSQ and SQRT give for a finite operand is the exact 1/a, 1/√a or √a, rounded once. -/
def rootsExactRule : Prop :=
  ∀ mode < 4, ∀ neg m e, 0 < m → let a : ℝ := ((FpVal.fin neg m e).rat : ℝ)
    (m < 2 ^ 24 → RoundedTo fmtF32 mode (1 / a) (rcpFin mode neg m e)) ∧
    (m < 2 ^ 24 → neg = false → RoundedTo fmtF32 mode (1 / Real.sqrt a) (rsqFin mode m e) ∧ RoundedTo fmtF32 mode (Real.sqrt a) (sqrtFin mode m e))

/-- R94: RCP, RSQ, SQRT, EXP2 and LOG2 in their special and domain inputs, and a value rounded once elsewhere. -/
def transcendentalRules : Prop :=
  ∀ f, let a (c : Ctx) (w : Warp) (x : Nat × Nat) : FpVal := unpack fmtF32 (c.elemA w x fmtF32 32 0)
    let nan (quiet : Bool) : Nat × Word := (0x7FC00000, if quiet then 0 else flagINV)
    let inf (neg : Bool) : Nat := if neg then 0xFF800000 else 0x7F800000
    let zero (neg : Bool) : Nat := if neg then 0x80000000 else 0
    Computes (.rcp f) 0x46 f (fun c w x => match a c w x with
      | .nan sg => nan !sg
      | .inf neg => (zero neg, 0)
      | .zero neg => (inf neg, flagDZE)
      | .fin neg m e => rcpFin f.m.toNat neg m e) ∧
    Computes (.rsq f) 0x47 f (fun c w x => match a c w x with
      | .nan sg => nan !sg
      | .inf neg => if neg then nan false else (0, 0)
      | .zero neg => (inf neg, flagDZE)
      | .fin neg m e => if neg then nan false else rsqFin f.m.toNat m e) ∧
    Computes (.sqrt f) 0x48 f (fun c w x => match a c w x with
      | .nan sg => nan !sg
      | .inf neg => if neg then nan false else (inf false, 0)
      | .zero neg => (zero neg, 0)
      | .fin neg m e => if neg then nan false else sqrtFin f.m.toNat m e) ∧
    Computes (.exp2 f) 0x49 f (fun c w x => match a c w x with
      | .nan sg => nan !sg
      | .inf neg => (if neg then 0 else inf false, 0)
      | .zero _ => (0x3F800000, 0)
      | .fin neg m e => exp2Fin f.m.toNat neg m e) ∧
    Computes (.log2 f) 0x4A f (fun c w x => match a c w x with
      | .nan sg => nan !sg
      | .inf neg => if neg then nan false else (inf false, 0)
      | .zero _ => (inf true, flagDZE)
      | .fin neg m e => if neg then nan false else log2Fin f.m.toNat m e)
end Sys2Proof.Machine

/-- R94: RCP, RSQ, SQRT, EXP2 and LOG2, and the exact values that the first three round. -/
def Obligations.Transcendental : Prop := transcendentalRules ∧ rootsExactRule

/-- R97-R99: CVT rounds the exact value of its source type into its destination type; NARROW writes one field of D and keeps its
other bits; WIDEN takes one element, scaled where it has a header (R66-R68). -/
def Obligations.Convert : Prop :=
  ∀ f, let mode := f.m.toNat
    Computes (.cvt f) 0x4D f (fun c w x =>
      let dst := f.b.toNat / 16
      let src := f.b.toNat % 16
      let v := if src ≤ 2 then unpack (cvtFmt src) (c.elemA w x (cvtFmt src) 32 0)
        else if src = 3 ∨ src = 5 ∨ src = 7 ∨ src = 9 then ofInt (signed (cvtBits src) (c.valA w x))
        else ofInt ((c.valA w x % 2 ^ cvtBits src : Nat) : Int)
      if dst ≤ 2 then roundVal (cvtFmt dst) mode v
      else if dst = 3 ∨ dst = 5 ∨ dst = 7 ∨ dst = 9 then
        let r := toIntType mode (-2 ^ (cvtBits dst - 1)) (2 ^ (cvtBits dst - 1) - 1) v
        ((BitVec.ofInt (max (cvtBits dst) 32) r.1).toNat, r.2)
      else let r := toIntType mode 0 (2 ^ cvtBits dst - 1) v; (r.1.toNat, r.2)) ∧
    Computes (.narrow f) 0x4E f (fun c w x =>
      let fm := narrowFmt f.b.toNat
      let n := fm.mag + 1
      let p := c.valC w x % (32 / n)
      let d := c.valD w x % 2 ^ 32
      let put (y : Nat) : Nat := bitSum 32 fun i => if n * p ≤ i ∧ i < n * p + n then y.testBit (i - n * p) else d.testBit i
      if mode = 4 then
        let r := roundEf fm (c.elemA w x fmtF32 32 0) (c.valD w x / 2 ^ 32)
        (put r.1 + 2 ^ 32 * r.2.1, r.2.2)
      else let r := roundVal fm mode (unpack fmtF32 (c.elemA w x fmtF32 32 0)); (put r.1, r.2)) ∧
    Computes (.widen f) 0x4F f (fun c w x =>
      let fm := narrowFmt f.b.toNat
      let n := fm.mag + 1
      let code := c.valA w x / 2 ^ (n * (c.valC w x % (32 / n))) % 2 ^ n
      let hdr := c.valA w x / 2 ^ 32 % 256
      if f.b.toNat ≥ 8 then roundVal fmtF32 mode (blockVal (f.b.toNat = 9) hdr w.tbase.toInt code)
      else roundVal fmtF32 0 (unpack fm code))

/-! Cross-lane -/

namespace Sys2Proof.Machine
/-- R256: LXCH gives each participant the register of another thread of its segment, taken from one snapshot. -/
def laneExchangeRule : Prop :=
  ∀ f, let source (c : Ctx) (w : Warp) (i : Nat) : Nat :=
      let seg := 2 ^ min ((c.snapC w i).1 % 8) 5
      let base := i / seg * seg
      let o : Int := i % seg
      let t : Int := (c.snapB w i).1
      base + match f.m.toNat % 4 with
        | 0 => (t % seg).toNat
        | 1 => ((o - t) % seg).toNat
        | 2 => ((o + t) % seg).toNat
        | _ => (i % seg ^^^ (c.snapB w i).1) % seg
    ComputesAcross (.lxch f) 0x60 f
      (fun c w i => (c.snapB w i).2 || (c.snapC w i).2 || (c.snapA w (source c w i)).2)
      (fun c w ps => ps.map fun i => (i, (c.snapA w (source c w i)).1, 0))

/-- R257, R258: LPOLL, LMASK and LFIRST read one predicate of each participant, LPEER compares their values. -/
def lanePredicateRules : Prop :=
  ∀ f, let early (c : Ctx) (w : Warp) (_ : Nat) : Bool := c.lanes.any fun x => (c.snapA w x.1).2
    let holds (c : Ctx) (w : Warp) (i : Nat) : Bool := (c.snapA w i).1 % 2 = 1
    ComputesAcross (.lpoll f) 0x61 f early (fun c w ps =>
      let every := ps.all (holds c w)
      let some := ps.any (holds c w)
      let r : Bool := match f.m.toNat with
        | 0 => some
        | 1 => every
        | _ => every || !some
      ps.map fun i => (i, if r then 1 else 0, 0)) ∧
    ComputesAcross (.lmask f) 0x62 f early (fun c w ps =>
      ps.map fun i => (i, bitSum 32 fun k => decide (k ∈ ps) && holds c w k, 0)) ∧
    ComputesAcross (.lfirst f) 0x63 f (fun _ _ _ => false) (fun _ _ ps => ps.map fun i => (i, if ps.head? = some i then 1 else 0, 0)) ∧
    ComputesAcross (.lpeer f) 0x64 f early (fun c w ps =>
      let same (i : Nat) : Nat := bitSum 32 fun k => decide (k ∈ ps ∧ (c.snapA w k).1 = (c.snapA w i).1)
      ps.map fun i => (i, if f.m.toNat < 2 then same i
        else if ∀ k ∈ ps, (c.snapA w k).1 = (c.snapA w i).1 then bitSum 32 fun k => decide (k ∈ ps) else 0, 0))
end Sys2Proof.Machine

/-- R256-R258: LXCH, LPOLL, LMASK, LFIRST and LPEER. -/
def Obligations.LaneRead : Prop := laneExchangeRule ∧ lanePredicateRules

namespace Sys2Proof.Machine
/-- Combine two values under a selector of LFOLD and LSCAN (R259). -/
def combine (sel : Nat) (x y : Nat) : Nat × Word :=
  match sel with
  | 0 => ((x + y) % 2 ^ 32, 0)
  | 1 => ((x + y) % 2 ^ 64, 0)
  | 2 => (if signed 32 x ≤ signed 32 y then x else y, 0)
  | 3 => (if signed 32 y ≤ signed 32 x then x else y, 0)
  | 4 | 6 => (min x y, 0)
  | 5 | 7 => (max x y, 0)
  | 8 => (x &&& y, 0)
  | 9 => (x ||| y, 0)
  | 10 => (x ^^^ y, 0)
  | _ => roundOnce fmtF32 0 (fpAdd 0 (unpack fmtF32 x) (unpack fmtF32 y))
/-- The identity of a selector (R259). -/
def combineIdentity (sel : Nat) : Nat :=
  ([0, 0, 0x7FFFFFFF, 0x80000000, 0xFFFFFFFF, 0, 0xFFFFFFFFFFFFFFFF, 0, 0xFFFFFFFF, 0, 0, 0] : List Nat).getD sel 0
/-- The fold of the values in order, the first unchanged, with the flags of every step (R260); none of no value. -/
def foldValues (sel : Nat) : List Nat → Option (Nat × Word)
  | [] => none
  | v :: vs => some (vs.foldl (fun a x => ((combine sel a.1 x).1, a.2 ||| (combine sel a.1 x).2)) (v, 0))
end Sys2Proof.Machine

/-- R259, R260: LFOLD and LSCAN fold the participants' values in strictly ascending thread order. -/
def Obligations.LaneFold : Prop :=
  ∀ f, let acc (c : Ctx) (w : Warp) (ps : List Nat) : Option (Nat × Word) := foldValues f.b.toNat (ps.map fun i => (c.snapA w i).1)
    ComputesAcross (.lfold f) 0x65 f (fun c w _ => c.lanes.any fun x => (c.snapA w x.1).2)
      (fun c w ps => ps.map fun i => (i, ((acc c w ps).map (·.1)).getD 0, ((acc c w ps).map (·.2)).getD 0)) ∧
    ComputesAcross (.lscan f) 0x66 f
      (fun c w i => c.lanes.any fun x => decide (x.1 < i ∨ (f.m = 0 ∧ x.1 = i)) && (c.snapA w x.1).2)
      (fun c w ps => ps.map fun i =>
        let upTo := acc c w (ps.filter (· ≤ i))
        let before := acc c w (ps.filter (· < i))
        (i, (if f.m = 0 then (upTo.map (·.1)).getD 0 else (before.map (·.1)).getD (combineIdentity f.b.toNat)), (upTo.map (·.2)).getD 0))

/-! Control flow -/

/-- R43: a uniform instruction whose guard is false does nothing but go on at the next instruction. -/
def Obligations.GuardFalse : Prop :=
  ∀ f, ∀ i ∈ ((
      [(0x00, .nop f), (0x02, .bru f), (0x03, .brx f), (0x05, .call f), (0x07, .ret f), (0x08, .yield f), (0x09, .sleep f), (0x0A, .sleept f),
       (0x70, .bara f), (0x71, .barw f), (0x72, .bar f), (0x73, .fence f), (0xA0, .copy f), (0xA1, .copyv f), (0xA2, .gather f),
       (0xA3, .redcopy f), (0xA4, .subscribeOn f), (0xA4, .subscribeOff f), (0xA5, .publish f), (0xA6, .waitf f), (0xA7, .testfStat f),
       (0xA7, .testfName f), (0xA8, .cancf f), (0xB0, .mbegin f)] ++
      [(0xB1, .mma f), (0xB2, .mend f), (0xB3, .mwin f), (0xB5, .cclr f), (0xB6, .batonTake f), (0xB6, .batonPass f), (0xB7, .wstore f),
       (0xB8, .wscrubCheck f), (0xB8, .wscrubFix f), (0xC0, .grun f), (0xC1, .gstop f), (0xC2, .gration f), (0xC3, .gread f), (0xC4, .gwrite f),
       (0xC5, .gmap f), (0xC6, .gwear f), (0xC8, .treecfgOn f), (0xC8, .treecfgOff f), (0xC8, .treecfgBeta f), (0xC9, .treesetSet f),
       (0xC9, .treesetInval f), (0xCA, .treeupd f), (0xCB, .treedraw f), (0xCC, .treesumRoot f)] ++
      [(0xCC, .treesumLeaf f), (0xCD, .treeclr f), (0xD0, .launchRun f), (0xD0, .launchGraph f), (0xD0, .launchPhase f), (0xD0, .launchJob f),
       (0xD0, .launchQprio f), (0xD3, .fetchw f), (0xD4, .migrateCore f), (0xD4, .migrateNear f), (0xD5, .lvlcancel f), (0xD6, .cntrd f),
       (0xD7, .runrec f), (0xE0, .srdFrame f), (0xE1, .swr f), (0xE1, .swrFrame f), (0xE2, .trap f), (0xE3, .trapretResume f),
       (0xE3, .trapretKill f), (0xE4, .brk f), (0xE5, .codefence f), (0xE6, .pmark f)] : List (Nat × Instr))),
    ∀ s w, Ready i.1 f s w → (ctxOf i.1 f s w).lanes = [] → Ends i.2 f s s w.begun (nextPc i.1 f w)

/-- R302, R303, R326, R329: NOP does nothing; YIELD makes its warp the youngest, gives its place to the first ready warp, or in
deterministic mode gives up the core; SLEEP and SLEEPT wait for their CLK tick and go on once it has come. -/
def Obligations.Pauses : Prop :=
  (∀ f s w, Ready 0x00 f s w → Ends (.nop f) f s s w.begun (nextPc 0x00 f w)) ∧
  (∀ f s w x, ReadyUni 0x08 f s w x →
    let core := (s.wg s.cur.wg).core
    let k := (s.core core).sched
    let others := k.active.filter fun y => decide (y.1 ≠ s.cur)
    let k' : Sched :=
      if s.flag s.cur.wg (·.det) then { k with yielded := some s.cur, detRun := none }
      else match k.rq with
        | [] => { k with active := others ++ [(s.cur, k.cycle)] }
        | b :: rest => { k with active := others ++ [(b.w, k.cycle)], rq := rest ++ [{ w := s.cur, count := 0 }], lastSwap := k.cycle }
    Ends (.yield f) f s (s.modCore core fun c => { c with sched := k' }) w.begun (nextPc 0x08 f w)) ∧
  (∀ f s w x, ReadyUni 0x09 f s w x → w.wait.isNone → w.kept.isNone →
    let n := (ctxOf 0x09 f s w).valA w.begun x
    (n = 0 → Ends (.sleep f) f s s w.begun (nextPc 0x09 f w)) ∧
    (0 < n → n < 2 ^ 32 → Waits (.sleep f) 0x09 f s w (.sleep (s.clock.clk + n) false))) ∧
  (∀ f s w x, ReadyUni 0x0A f s w x → w.wait.isNone →
    let n := (ctxOf 0x0A f s w).valA w.begun x
    (n ≤ s.clock.clk → Ends (.sleept f) f s s w.begun (nextPc 0x0A f w)) ∧
    (s.clock.clk < n → Waits (.sleept f) 0x0A f s w (.sleep n false))) ∧
  (∀ f s w x target woke, w.wait = some (.sleep target woke) → target ≤ s.clock.clk →
    (Resumed 0x09 f s w → (ctxOf 0x09 f s w).lanes = [x] → Ends (.sleep f) f s s w.begun (nextPc 0x09 f w)) ∧
    (Resumed 0x0A f s w → (ctxOf 0x0A f s w).lanes = [x] → Ends (.sleept f) f s s w.begun (nextPc 0x0A f w))) ∧
  (∀ s r w target, s.warp? r = some w → w.wait = some (.sleep target false) → target ≤ s.clock.clk →
    exec (.sleepEnd r) s = .next (s.setWarp r { w with wait := some (.sleep target true) }))

namespace Sys2Proof.Machine
/-- The displacements in the low and the high half of an extension word (R282). -/
def dispLo (e : DWord) : GAddr := (e.truncate 32 : Word).signExtend 57
def dispHi (e : DWord) : GAddr := ((e >>> 32).truncate 32 : Word).signExtend 57
/-- The executing threads as a mask. -/
def Ctx.mask (c : Ctx) : Mask := BitVec.ofNat 32 (bitSum 32 fun i => decide (i ∈ c.lanes.map (·.1)))
end Sys2Proof.Machine

namespace Sys2Proof.Machine
/-- R284: BR divides its warp's path, or takes it whole to one side. -/
def branchRule : Prop :=
  ∀ f s w, Ready 0x01 f s w → let b := w.begun
    let x := (ctxOf 0x01 f s w).mask
    let y := b.active &&& ~~~x
    let fall := nextPc 0x01 f w
    let t := w.pc + dispLo f.ext
    let j := w.pc + dispHi f.ext
    let first := if f.m = 1 then y else x
    let second := if f.m = 1 then x else y
    let fpc := if f.m = 1 then fall else t
    let spc := if f.m = 1 then t else fall
    let waiting := spc = j ∧ ∃ k ks, b.splits = k :: ks ∧ k.ja = j
    let s1 := { s with fresh := s.fresh + 1 }
    (x = 0 → Ends (.br f) f s s1 b fall) ∧
    (x ≠ 0 → y = 0 → Ends (.br f) f s s1 b t) ∧
    (x ≠ 0 → y ≠ 0 → waiting → Ends (.br f) f s s1 { b with em := first } fpc) ∧
    (x ≠ 0 → y ≠ 0 → ¬waiting → b.splits.length < 64 → Ends (.br f) f s s1
      { b with
        em := first, kUsed := min (b.kUsed + 1) 8
        splits := { ja := j, u := b.active, pend := if spc = j then 0 else second, pstart := spc, resume := false, did := s.fresh } :: b.splits } fpc) ∧
    (x ≠ 0 → y ≠ 0 → ¬waiting → 64 ≤ b.splits.length → Traps (.br f) 0x01 f s w { cause := .splitOverflow })

/-- R285, R286: BRU and BRX move the whole warp; BRX past its table falls through. -/
def jumpRule : Prop :=
  (∀ f s w x, ReadyUni 0x02 f s w x → Ends (.bru f) f s s w.begun (w.pc + dispLo f.ext)) ∧
  (∀ f s w x, ReadyUni 0x03 f s w x →
    let k := (ctxOf 0x03 f s w).valA w.begun x
    let n := f.ext.toNat / 2 ^ 32 % 2 ^ 16
    let entry := (w.pc + dispLo f.ext + BitVec.ofNat 57 (4 * k)).toNat
    k < 2 ^ 32 →
    (n ≤ k → Ends (.brx f) f s s w.begun (nextPc 0x03 f w)) ∧
    (k < n → ∀ d s1, (s.started w).fetchDword s.cur w.begun entry = .got d s1 →
      let e : Word := (d >>> (8 * (entry % 8))).truncate 32
      (e.toNat % 8 = 0 → Ends (.brx f) f s s1 w.begun (w.pc + e.signExtend 57)) ∧
      (e.toNat % 8 ≠ 0 → TrapsIn s1 (.brx f) 0x03 f s w { cause := .targetAlign })) ∧
    (k < n → ∀ cause, (s.started w).fetchDword s.cur w.begun entry = .fault cause → Traps (.brx f) 0x03 f s w
      { cause, info0 := if cause.hasAddress then BitVec.ofNat 32 entry else 0
        info1 := if cause.hasAddress then BitVec.ofNat 32 (entry / 2 ^ 32) else 0 }))
end Sys2Proof.Machine

namespace Sys2Proof.Machine
/-- The loop of R288 on the entries, the newest first: the entries and EM it leaves, and where a pending path starts. -/
def joinRule (pc : GAddr) (exited never : Mask) : List Split → Mask → List Split × Mask × Option GAddr
  | [], em => ([], em, none)
  | t :: rest, em =>
    if t.ja ≠ pc then (t :: rest, em, none)
    else if t.pend &&& ~~~exited ≠ 0 then ({ t with pend := 0, resume := true } :: rest, t.pend &&& ~~~exited, some t.pstart)
    else joinRule pc exited never rest (t.u &&& ~~~exited &&& ~~~never)
end Sys2Proof.Machine

namespace Sys2Proof.Machine
/-- R288: JOIN switches to a pending path or pops the entries that are joined at it. -/
def joinsRule : Prop :=
  ∀ f s w, Ready 0x04 f s w → let b := w.begun
    let r := joinRule w.pc b.exited b.never b.splits b.em
    ∃ k, Ends (.join f) f s s { b with splits := r.1, em := r.2.1, kUsed := k } (r.2.2.getD (nextPc 0x04 f w))
end Sys2Proof.Machine

/-- R284-R288: BR, BRU, BRX and JOIN: how the paths of a warp divide, move and come together. -/
def Obligations.Branches : Prop := branchRule ∧ jumpRule ∧ joinsRule

namespace Sys2Proof.Machine
/-- The warp with the address of the next instruction in S62 (R292, R293). -/
def Warp.linked (w : Warp) (ret : GAddr) : Warp := w.land (.s 62) (ret.truncate 32)
/-- A call target that all four checks of R293 pass. -/
def callable (pc : GAddr) (g : Nat) : Bool := decide (g < 2 ^ 57 ∧ g ≠ 0 ∧ g % 8 = 0 ∧ g / 2 ^ 32 = pc.toNat / 2 ^ 32)
/-- The cause of a call target that one of them refuses, the lowest code where several do. -/
def callCause (pc : GAddr) (g : Nat) : Cause :=
  if g ≥ 2 ^ 57 then .gNoncanon else if g ≠ 0 ∧ g % 8 ≠ 0 then .targetAlign else if g ≠ 0 ∧ g / 2 ^ 32 ≠ pc.toNat / 2 ^ 32 then .callRegion
  else .linkUnbound
end Sys2Proof.Machine

/-- R292-R294: CALL, CALLI and RET; S62 receives the return address, and a CALLI through V registers serves its threads in groups of
one target, the lowest first. -/
def Obligations.Calls : Prop :=
  (∀ f s w x, ReadyUni 0x05 f s w x → let g := w.pc + dispLo f.ext
    (g >>> 32 = w.pc >>> 32 → Ends (.call f) f s s (w.begun.linked (nextPc 0x05 f w)) g) ∧
    (g >>> 32 ≠ w.pc >>> 32 → Traps (.call f) 0x05 f s w { cause := .callRegion })) ∧
  (∀ f s w, Ready 0x06 f s w → let c := ctxOf 0x06 f s w; let b := w.begun; let fall := nextPc 0x06 f w
    (c.lanes = [] → Ends (.calli f) f s s b fall) ∧
    (∀ x, c.lanes = [x] → c.uni = true → let g := c.valA b x
      (callable w.pc g → Ends (.calli f) f s s (b.linked fall) (BitVec.ofNat 57 g)) ∧
      (¬callable w.pc g → Traps (.calli f) 0x06 f s w
        { cause := callCause w.pc g, info0 := if g ≥ 2 ^ 57 then BitVec.ofNat 32 g else 0
          info1 := if g ≥ 2 ^ 57 then BitVec.ofNat 32 (g / 2 ^ 32) else 0 })) ∧
    (∀ g1, c.uni = false → (∀ x ∈ c.lanes, callable w.pc (c.valA b x)) → (∃ x ∈ c.lanes, c.valA b x = g1) →
      (∀ x ∈ c.lanes, g1 ≤ c.valA b x) →
      let group : Mask := BitVec.ofNat 32 (bitSum 32 fun i => c.lanes.any fun x => x.1 = i && c.valA b x = g1)
      let rest := c.mask &&& ~~~group
      (∀ k ks, b.splits = k :: ks → k.resume = true → k.pstart = w.pc → k.ja = fall →
        Ends (.calli f) f s s ({ b with splits := { k with pend := rest, resume := false } :: ks, em := group }.linked fall) (BitVec.ofNat 57 g1)) ∧
      ((∀ k ks, b.splits = k :: ks → ¬(k.resume = true ∧ k.pstart = w.pc ∧ k.ja = fall)) →
        (group = b.active → Ends (.calli f) f s s (b.linked fall) (BitVec.ofNat 57 g1)) ∧
        (group ≠ b.active → b.splits.length < 64 → Ends (.calli f) f s s
          ({ b with
            em := group, kUsed := min (b.kUsed + 1) 8
            splits := { ja := fall, u := b.active, pend := rest, pstart := w.pc, resume := false, did := 0 } :: b.splits }.linked fall)
          (BitVec.ofNat 57 g1)) ∧
        (group ≠ b.active → 64 ≤ b.splits.length → Traps (.calli f) 0x06 f s w { cause := .splitOverflow }))) ∧
    (∀ x, c.uni = false → x ∈ c.lanes → ¬callable w.pc (c.valA b x) → (∀ y ∈ c.lanes, ¬callable w.pc (c.valA b y) → x.1 ≤ y.1) →
      let g := c.valA b x
      Traps (.calli f) 0x06 f s w
        { cause := callCause w.pc g, lane := x.1
          mask := BitVec.ofNat 32 (bitSum 32 fun i => c.lanes.any fun y =>
            y.1 = i && decide (¬callable w.pc (c.valA b y) ∧ callCause w.pc (c.valA b y) = callCause w.pc g))
          info0 := if g ≥ 2 ^ 57 then BitVec.ofNat 32 g else 0, info1 := if g ≥ 2 ^ 57 then BitVec.ofNat 32 (g / 2 ^ 32) else 0 })) ∧
  (∀ f s w x, ReadyUni 0x07 f s w x → let a := (w.begun.readAt (.s 62) w.startAt).1
    (a.toNat % 8 = 0 → Ends (.ret f) f s s w.begun (((w.pc >>> 32) <<< 32) + a.setWidth 57)) ∧
    (a.toNat % 8 ≠ 0 → Traps (.ret f) 0x07 f s w { cause := .targetAlign }))

namespace Sys2Proof.Machine
/-- Where a path that has ended goes on (R289): it joins at the top entry, and where that leaves EM empty at the next one, until a
pending path starts (`true`), threads go on after the word at a join address (`false`), or no entry is left. -/
def endRule (exited never : Mask) : List Split → List Split × Mask × Option (GAddr × Bool)
  | [] => ([], 0, none)
  | t :: rest =>
    let em := t.u &&& ~~~exited &&& ~~~never
    if t.pend &&& ~~~exited ≠ 0 then ({ t with pend := 0, resume := true } :: rest, t.pend &&& ~~~exited, some (t.pstart, true))
    else if rest.head?.any (·.ja = t.ja) ∨ em = 0 then endRule exited never rest
    else (rest, em, some (t.ja, false))
/-- What ending the executing threads does (R289, R304, R322): they are EXITED, in a wave their tasks end with what V0 holds, and a
path left without a thread goes on as `endRule` says or retires the warp. -/
def Exits (i : Instr) (op : Nat) (f : Fields) (s : State) (w : Warp) : Prop :=
  let c := ctxOf op f s w
  let b := w.begun
  let m := c.mask
  let s1 := (s.started w).endTasks s.cur.wg (c.lanes.map fun x => (x.1, (b.readAt (.v 0 x.1) (c.readTime x.2)).1.toNat))
  let b1 : Warp := { b with exited := b.exited ||| m, em := b.em &&& ~~~m }
  ((b.em = 0 ∨ b.em &&& ~~~m ≠ 0) → Ends i f s s1 b1 (nextPc op f w)) ∧
  (b.em ≠ 0 → b.em &&& ~~~m = 0 → ∃ t w', exec i s = .next t ∧ t.warp? s.cur = some w' ∧
    t = { s1 with wgs := t.wgs, cores := t.cores, clus := t.clus } ∧ (∀ q, q ≠ s.cur → t.warp? q = s1.warp? q) ∧
    let r := endRule b1.exited b.never b.splits
    (∀ p, r.2.2 = some (p, true) → w'.splits = r.1 ∧ w'.em = r.2.1 ∧ w'.pc = p ∧ w'.exited = b1.exited ∧ w'.retired = b.retired) ∧
    (∀ p, r.2.2 = some (p, false) → w'.splits = r.1 ∧ w'.em = r.2.1 ∧ w'.exited = b1.exited ∧ w'.retired = b.retired ∧
      w'.pc = p + BitVec.ofNat 57 (s.lengthAt (s.wg s.cur.wg).core (s.wg s.cur.wg).part p)) ∧
    (r.2.2 = none → w'.retired = true ∧ w'.exited = b1.exited ||| ~~~b.never ∧ w'.em = 0))
end Sys2Proof.Machine

/-- R289, R304, R322: EXIT, and TASKEND of a wave; TASKEND elsewhere traps in every executing lane. -/
def Obligations.Exit : Prop :=
  (∀ f s w, Ready 0x0B f s w →
    ((s.wg s.cur.wg).kind = .grid ∨ (w.begun.isPending ((ctxOf 0x0B f s w).lanes.map fun x => .v 0 x.1) = false ∧ w.released = true)) →
    Exits (.exit f) 0x0B f s w) ∧
  (∀ f s w, Ready 0xD2 f s w → (s.wg s.cur.wg).kind ≠ .grid →
    w.begun.isPending ((ctxOf 0xD2 f s w).lanes.map fun x => .v 0 x.1) = false → w.released = true →
    Exits (.taskend f) 0xD2 f s w) ∧
  (∀ f s w x rest, Ready 0xD2 f s w → (s.wg s.cur.wg).kind = .grid → (ctxOf 0xD2 f s w).lanes = x :: rest →
    Traps (.taskend f) 0xD2 f s w { cause := .taskState, lane := x.1, mask := (ctxOf 0xD2 f s w).mask })

/-! Barriers, fences and stages -/

namespace Sys2Proof.Machine
/-- What the trap of an instruction with the faulting lanes `fs` reports: the lowest lane, and all lanes with its cause; no lane
where the instruction executes once (R45, R376). -/
def Ctx.report (c : Ctx) : List LaneFault → TrapInfo
  | [] => { cause := .opcodeIllegal }
  | x :: xs =>
    { cause := x.cause, lane := if c.uni then 0 else x.lane
      mask := if c.uni then 0 else BitVec.ofNat 32 (bitSum 32 fun i => (x :: xs).any fun y => y.lane = i && decide (y.cause = x.cause))
      info0 := x.info0, info1 := x.info1, info2 := x.info2 }
end Sys2Proof.Machine

namespace Sys2Proof.Machine
/-- The effective mask of a barrier instruction among `n` warps: bit k for k < n (R249). -/
def effectiveMask (n mask : Nat) : BitVec 16 := BitVec.ofNat 16 (mask % 2 ^ n)
/-- The barrier after warp `k` of a workgroup has arrived with mask `m`: a complete phase ends (R250). -/
def arrivedBarrier (ws : List Warp) (old : Barrier) (k : Nat) (m : BitVec 16) : Barrier :=
  let arr := old.arr ||| (1 <<< k)
  if ∀ j, (h : j < ws.length) → m.getLsbD j = true → arr.getLsbD j = true ∨ ws[j].retired = true
  then { phase := old.phase + 1, pmask := none, arr := 0 } else { phase := old.phase, pmask := some m, arr := arr }
/-- The workgroup of `r` with barrier `n` as given. -/
def State.withBar (s : State) (r : WarpRef) (n : Nat) (x : Barrier) : State := s.modWg r.wg fun g => { g with bars := tput g.bars n x }
/-- An arrival of the current warp at barrier `n` with mask `m` is accepted (R250). -/
structure Accepts (s : State) (w : Warp) (n : Nat) (m : BitVec 16) : Prop where
  number : n ≤ 15
  mine   : tfind w.barPend n = none
  member : m.getLsbD s.cur.wix = true
  same   : ∀ p, (tgetD Barrier.clear (s.wg s.cur.wg).bars n).pmask = some p → p = m
end Sys2Proof.Machine

namespace Sys2Proof.Machine
/-- The arrival at a phase as it stands among the accesses while earlier ones are still to be performed (R252). -/
def arrivalOf (s : State) (w : Warp) (n phase : Nat) : Access :=
  { plainAccess 0 .a 0 0 0 (.arrive n phase) with id := s.fresh + 1, inst := s.fresh, path := w.path }
/-- The wait of a pending arrival at phase `mine` of barrier `n` has ended: the phase has completed, the releases of its members have
taken effect, and no earlier access of the warp holds up an acquire (R250, R252). -/
def BarDone (s : State) (g : Workgroup) (w : Warp) (n mine : Nat) : Prop :=
  mine < (tgetD Barrier.clear g.bars n).phase ∧ (∀ v ∈ (s.wg s.cur.wg).warps, ∀ a ∈ v.accs, a.kind ≠ .arrive n mine) ∧ w.held acquireBlk = false
end Sys2Proof.Machine

/-- R249-R253: BARA arrives, BARW waits for the phase of its arrival to complete, and BAR does both; a barrier number above 15 and an
arrival that is already pending trap with 0x42, a mask that leaves the warp out or differs from the phase's with 0x43, and change
nothing.  An arrival is recorded at once; while earlier accesses are still to be performed its release waits behind them, and the
barrier with it. -/
def Obligations.Barriers : Prop :=
  (∀ f s w x, ReadyUni 0x70 f s w x → let c := ctxOf 0x70 f s w; let n := c.valA w.begun x
    let g := (s.started w).wg s.cur.wg
    let m := effectiveMask g.warps.length (c.valB w.begun x)
    let old := tgetD Barrier.clear g.bars n
    let s1 := (s.started w).withBar s.cur n (arrivedBarrier g.warps old s.cur.wix m)
    let w1 := { w.begun with barPend := tput w.barPend n old.phase }
    (Accepts (s.started w) w n m → w.released = true → Ends (.bara f) f s s1 w1 (nextPc 0x70 f w)) ∧
    (Accepts (s.started w) w n m → w.released = false → Ends (.bara f) f s { s1 with fresh := s.fresh + 2 }
      { w1 with accs := w.accs ++ [arrivalOf s w n old.phase] } (nextPc 0x70 f w)) ∧
    ((15 < n ∨ (tfind w.barPend n).isSome) → Traps (.bara f) 0x70 f s w { cause := .barState }) ∧
    (n ≤ 15 → tfind w.barPend n = none → ¬Accepts (s.started w) w n m → Traps (.bara f) 0x70 f s w { cause := .barMask })) ∧
  (∀ f s w x, ReadyUni 0x71 f s w x → let n := (ctxOf 0x71 f s w).valA w.begun x
    (∀ mine, n ≤ 15 → tfind w.barPend n = some mine →
      (BarDone s (s.wg s.cur.wg) w n mine → Ends (.barw f) f s s { w.begun with barPend := terase w.barPend n } (nextPc 0x71 f w)) ∧
      (¬BarDone s (s.wg s.cur.wg) w n mine → Waits (.barw f) 0x71 f s w (.bar n))) ∧
    ((15 < n ∨ tfind w.barPend n = none) → Traps (.barw f) 0x71 f s w { cause := .barState })) ∧
  (∀ f s w x, ReadyUni 0x72 f s w x → w.kept = none → let c := ctxOf 0x72 f s w; let n := c.valA w.begun x
    let g := (s.started w).wg s.cur.wg
    let m := effectiveMask g.warps.length (c.valB w.begun x)
    let old := tgetD Barrier.clear g.bars n
    let new := arrivedBarrier g.warps old s.cur.wix m
    let s1 := (s.started w).withBar s.cur n new
    let w1 := { w.begun with barPend := tput w.barPend n old.phase, wait := some (.bar n), waitAt := s.time, slotLanes := [x] }
    let others := ∀ v ∈ g.warps, ∀ a ∈ v.accs, a.kind ≠ .arrive n old.phase
    (Accepts (s.started w) w n m → w.released = true → others → old.phase < new.phase → Ends (.bar f) f s s1
      { w.begun with barPend := terase (tput w.barPend n old.phase) n } (nextPc 0x72 f w)) ∧
    (Accepts (s.started w) w n m → w.released = true → (new.phase = old.phase ∨ ¬others) → exec (.bar f) s = .next (s1.setWarp s.cur w1)) ∧
    (Accepts (s.started w) w n m → w.released = false → exec (.bar f) s = .next
      ({ s1 with fresh := s.fresh + 2 }.setWarp s.cur { w1 with accs := w.accs ++ [arrivalOf s w n old.phase] })) ∧
    ((15 < n ∨ (tfind w.barPend n).isSome) → Traps (.bar f) 0x72 f s w { cause := .barState }) ∧
    (n ≤ 15 → tfind w.barPend n = none → ¬Accepts (s.started w) w n m → Traps (.bar f) 0x72 f s w { cause := .barMask })) ∧
  (∀ i op f s w x n mine, ((i, op) = (Instr.barw f, 0x71) ∨ (i, op) = (Instr.bar f, 0x72)) →
    Resumed op f s w → (ctxOf op f s w).lanes = [x] → w.wait = some (.bar n) → tfind w.barPend n = some mine →
    BarDone s (s.wg s.cur.wg) w n mine → Ends i f s s { w.begun with barPend := terase w.barPend n } (nextPc op f w))

/-- R207, R300: FENCE goes on and holds its place among the accesses still to be performed; CODEFENCE waits for them, and every fetch
of the cores of its scope then reads code as it stands. -/
def Obligations.Fences : Prop :=
  (∀ f s w x, ReadyUni 0x73 f s w x →
    (w.released = true → Ends (.fence f) f s s w.begun (nextPc 0x73 f w)) ∧
    (w.released = false → Ends (.fence f) f s { s with fresh := s.fresh + 2 }
      { w.begun with accs := w.accs ++ [{ plainAccess 0 .g 0 0 0 (.fence f.m.toNat) with
          id := s.fresh + 1, inst := s.fresh, path := w.path, scope := scopeOf f.a.toNat }] }
      (nextPc 0x73 f w))) ∧
  (∀ f s w x, ReadyUni 0xE5 f s w x → w.released = true → ∃ s1,
    Ends (.codefence f) f s s1 w.begun (nextPc 0xE5 f w) ∧ s1 = { s with cores := s1.cores } ∧
    ∀ k, s1.core k =
      if (f.a = 0 ∧ k = (s.wg s.cur.wg).core) ∨ (f.a = 1 ∧ k / 8 = (s.wg s.cur.wg).core / 8) ∨ (1 < f.a.toNat ∧ k < 384)
      then { s.core k with fence := s.gmeta.hist.length } else s.core k) ∧
  (∀ f s w x, ReadyUni 0xE5 f s w x → w.released = false → Waits (.codefence f) 0xE5 f s w .drain)

namespace Sys2Proof.Machine
/-- R208-R210: one contribution of `b` bytes to a stage word counts REMAIN down, fills the word's tag when all has come, and sets OVERRUN
when more comes; bits 30-24 stay as they were; and it changes no other word and no other tag. -/
def stageWordRule : Prop :=
  ∀ (g : Workgroup) addr b, tsorted g.a = true → tsorted g.tags = true → addr % 4 = 0 → b < 2 ^ 24 →
    let v := g.aRead addr 4
    let remain := v % 2 ^ 24
    let r := g.contribute addr b
    let overrun := b ≠ 0 ∧ (g.full addr = true ∨ remain < b)
    (r.2 = true ↔ overrun) ∧
    r.1.aRead addr 4 % 2 ^ 24 = (if b = 0 then remain else if g.full addr = true then remain else remain - b) ∧
    r.1.aRead addr 4 / 2 ^ 24 % 2 ^ 7 = v / 2 ^ 24 % 2 ^ 7 ∧
    r.1.aRead addr 4 / 2 ^ 31 = (if overrun then 1 else v / 2 ^ 31) ∧
    r.1.full addr = (if b ≠ 0 ∧ (g.full addr = true ∨ remain ≤ b) then true else g.full addr) ∧
    (∀ p, p < addr ∨ addr + 4 ≤ p → r.1.aRead p 1 = g.aRead p 1) ∧
    (∀ p, p / 4 ≠ addr / 4 → r.1.full p = g.full p)

/-- The accesses with the numbers they are given from `n` on, as those of one instruction on the path of the warp (R164, R165). -/
def numbered (n : Nat) (w : Warp) (as : List Access) : List Access := as.zipIdx.map fun x => { x.1 with id := n + 1 + x.2, inst := n, path := w.path }
/-- Where a contribution to the word at `addr` of `count` bytes traps, and with what: outside the allocation 0x30, not a multiple of 4
0x31, more than 0xFF_FFFF bytes 0x44, in a registered range 0x41. -/
def starrFault (s : State) (r : WarpRef) (addr count : Nat) : Option Cause :=
  if (s.wg r.wg).aSize < addr + 4 then some .aRange
  else if addr % 4 ≠ 0 then some .localAlign
  else if 2 ^ 24 ≤ count then some .stageCount
  else if s.lockedA (s.wg r.wg).core r.wg addr 4 true then some .rangeLocked
  else none
/-- R209: STARR issues one contribution per executing thread, in ascending order, each a release; an address or a count that it may not
have traps, the lowest faulting thread first. -/
def stageArriveRules : Prop :=
  ∀ f s w, Ready 0x77 f s w → let c := ctxOf 0x77 f s w; let b := w.begun
    let addr (x : Nat × Nat) := c.valA b x % 2 ^ 32
    let count (x : Nat × Nat) := c.valB b x % 2 ^ 32
    let fs := c.lanes.filterMap fun x => (starrFault (s.started w) s.cur (addr x) (count x)).map fun cause =>
      ({ lane := x.1, cause, info0 := if cause = .stageCount then 0 else BitVec.ofNat 32 (addr x) } : LaneFault)
    (fs = [] → Ends (.starr f) f s { s with fresh := s.fresh + 1 + c.lanes.length }
      { b with accs := w.accs ++ numbered s.fresh w (c.lanes.map fun x => { plainAccess x.1 .a (addr x) (addr x) 4 .starr with data := count x }) }
      (nextPc 0x77 f w)) ∧
    (fs ≠ [] → Traps (.starr f) 0x77 f s w (c.report fs))
end Sys2Proof.Machine

/-- R208-R210: stage words and STARR. -/
def Obligations.Stages : Prop := stageWordRule ∧ stageArriveRules

/-! Memory -/

namespace Sys2Proof.Machine
/-- The address that a lane's memory operand forms: base + index · 2^SCALE + DISP modulo 2^`bits` (R192). -/
def Ctx.formed (c : Ctx) (w : Warp) (bits : Nat) (indexed : Bool) (x : Nat × Nat) : Nat :=
  (BitVec.ofInt bits ((c.valA w x : Int) +
    (if indexed then (BitVec.ofNat 32 (c.valB w x)).toInt * 2 ^ (c.f.ext.toNat / 2 ^ 35 % 4) else 0) + (c.f.ext.truncate 32 : Word).toInt)).toNat
/-- A result whose registers `keys` are pending until `left` parts of it have come (R49). -/
def awaited (id : Nat) (keys : List RegKey) (left : Nat) (long : Bool) : Pend := { id, keys, vals := [], left, flags := 0, long }
end Sys2Proof.Machine

/-- R45, R170, R188, R192-R194: LDA reads A space at the addresses its lanes form, once no earlier access of its
warp has to be performed before; STA issues one store per lane and 8 bytes, in lane order;
a fault of any lane traps before any access is made. -/
def Obligations.LocalAccess : Prop :=
  (∀ f s w, Ready 0x80 f s w → let c := ctxOf 0x80 f s w; let b := w.begun; let n := c.bytes
    let a := c.formed b 32 true
    let stands : Bool := c.lanes.any fun x => b.held { plainAccess x.1 .a (a x) (a x) n .read with acq := f.m = 1, scope := c.scope }
    (∀ x ∈ c.lanes, AOk (s.started w) s.cur b (a x) n n false ∧ ((s.started w).asp s.cur.wg).aTag (a x) n = none) →
    (stands = true → Waits (.lda f) 0x80 f s w .drain) ∧
    (stands = false → Ends (.lda f) f s { s with fresh := s.fresh + 1 }
      (c.lanes.foldl (fun v x => v.deliver s.fresh (c.dest b x.1) (extendLoad c.signed n (((s.started w).asp s.cur.wg).aRead (a x) n)))
        { b with pends := b.pends ++ [awaited s.fresh (c.lanes.flatMap fun x => c.dest b x.1) c.lanes.length false] })
      (nextPc 0x80 f w))) ∧
  (∀ f s w, Ready 0x81 f s w → let c := ctxOf 0x81 f s w; let b := w.begun; let n := c.bytes
    let a := c.formed b 32 true
    let as := c.lanes.flatMap fun x => splitAccess
      { plainAccess x.1 .a (a x) (a x) n .write with data := c.valC b x % 2 ^ (8 * n), rel := f.m = 2, scope := c.scope }
    (∀ x ∈ c.lanes, AOk (s.started w) s.cur b (a x) n n true) →
    Ends (.sta f) f s { s with fresh := s.fresh + 1 + as.length } { b with accs := b.accs ++ numbered s.fresh w as } (nextPc 0x81 f w)) ∧
  (∀ i op f s w, ((i, op) = (Instr.lda f, 0x80) ∨ (i, op) = (Instr.sta f, 0x81)) → Ready op f s w →
    let c := ctxOf op f s w
    let fs := c.lanes.filterMap fun x => (s.started w).aFault s.cur x.1 (c.formed w.begun 32 true x) c.bytes c.bytes (op = 0x81)
    fs ≠ [] → Traps i op f s w (c.report fs))

namespace Sys2Proof.Machine
/-- The first fault of a G access of `n` bytes at an address, in the order of R193: an address beyond 57 bits, an atomic that its page does
not take, a misaligned address, what a walk or RESOLVE has left for the page (R356, R359), the permission of the page (R353), a lost port
(R417), a registered range (R183). -/
def gFault (s : State) (r : WarpRef) (w : Warp) (addr n : Nat) (write unitOk : Bool) : Option Cause :=
  let noted := (w.tr.find? fun x => x.1 = pageOf addr || x.1 = 2 ^ 64 + addr / 32).map (·.2)
  let t := s.tlbAt (s.wg r.wg).core (s.wg r.wg).part addr
  if 2 ^ 57 ≤ addr then some .gNoncanon
  else if noted = none ∧ unitOk = false ∧ t.any (fun x => paSpace x.pa ≠ 0) then some .scopeSpace
  else if addr % n ≠ 0 then some .gAlign
  else if noted = some .refused then some .gRefused
  else if noted = some .badPte then some .gPte
  else match t with
    | none => none
    | some x =>
      if (if write then pteWr x.pte else pteRd x.pte) = false then some .gPerm
      else if s.portDown x.pa then some .gRefused
      else if s.lockedG (s.wg r.wg).core (s.wg r.wg).part addr n write then some .rangeLocked
      else none
/-- What becomes of the address is known without a walk. -/
def gKnown (s : State) (r : WarpRef) (w : Warp) (addr n : Nat) (unitOk : Bool) : Prop :=
  2 ^ 57 ≤ addr ∨ (addr % n ≠ 0 ∧ unitOk = true) ∨ (w.tr.any fun x => x.1 = pageOf addr || x.1 = 2 ^ 64 + addr / 32) = true ∨
    (s.tlbAt (s.wg r.wg).core (s.wg r.wg).part addr).isSome = true
/-- R193, R356: the traps of G accesses: when the address of every lane is known and some lane faults, the lowest one traps with its cause
and its address, and nothing is accessed. -/
def globalFaultRule : Prop :=
  ∀ i op f s w, (i, op) ∈ [(Instr.ldg f, 0x82), (Instr.stg f, 0x83), (Instr.ldi f, 0x84), (Instr.atom f, 0x8B), (Instr.cas f, 0x8C)] → Ready op f s w →
    let c := ctxOf op f s w; let b := w.begun; let s0 := s.started w
    let atomic : Bool := op = 0x8B ∨ op = 0x8C
    let a := c.formed b 64 (op ≠ 0x8C)
    let write : Bool := atomic || op = 0x83
    let unitOk : Bool := !atomic || c.scope = .sys
    (atomic = true → c.scope ≠ .blk ∧ s.flag s.cur.wg (·.det) = false) →
    let early : Bool := (op = 0x82 || op = 0x83) && f.m ≠ 0 && c.scope = .blk
    (early = true ∨ ∀ x ∈ c.lanes, gKnown s0 s.cur b (a x) c.bytes unitOk) →
    let fs := c.lanes.filterMap fun x => (if early then some .scopeSpace else gFault s0 s.cur b (a x) c.bytes write unitOk).map fun cause =>
      ({ lane := x.1, cause, info0 := BitVec.ofNat 32 (a x), info1 := BitVec.ofNat 32 (a x / 2 ^ 32) } : LaneFault)
    fs ≠ [] → Traps i op f s w (c.report fs)

/-- R182, R194, R195: LDG, LDI and STG issue one access per lane and 8 bytes, in lane order, once every lane's address is translated and
passes its checks; the results of a load are pending until its accesses have been performed. -/
def globalIssueRule : Prop :=
  (∀ i op f s w (tr : LaneAddr → Trans), ((i, op) = (Instr.ldg f, 0x82) ∨ (i, op) = (Instr.ldi f, 0x84)) → Ready op f s w →
    let c := ctxOf op f s w; let b := w.begun; let n := c.bytes; let s0 := s.started w
    let a := c.formed b 64 true
    let t (x : Nat × Nat) := tr (x.1, x.2, a x)
    (op = 0x84 ∨ f.m = 0 ∨ c.scope ≠ .blk) →
    (∀ x ∈ c.lanes, GOk s0 s.cur b (a x) n n false false true (t x) ∧ s0.poisonAt (t x).pa n = none) →
    let as := c.lanes.flatMap fun x => splitAccess
      { plainAccess x.1 .g (a x) (t x).pa n .read with
          acq := op = 0x82 && f.m = 1, scope := if op = 0x82 then c.scope else .blk, ldi := op = 0x84, sx := c.signed
          key := pteSlot (t x).pte, dest := c.dest b x.1, pend := s.fresh }
    Ends i f s { s with fresh := s.fresh + 2 + as.length }
      { b with
        accs := b.accs ++ numbered (s.fresh + 1) w as
        pends := b.pends ++ [awaited s.fresh (c.lanes.flatMap fun x => c.dest b x.1) as.length true] } (nextPc op f w)) ∧
  (∀ f s w (tr : LaneAddr → Trans), Ready 0x83 f s w →
    let c := ctxOf 0x83 f s w; let b := w.begun; let n := c.bytes; let s0 := s.started w
    let a := c.formed b 64 true
    let t (x : Nat × Nat) := tr (x.1, x.2, a x)
    (f.m = 0 ∨ c.scope ≠ .blk) → (∀ x ∈ c.lanes, GOk s0 s.cur b (a x) n n true true true (t x)) →
    let as := c.lanes.flatMap fun x => splitAccess
      { plainAccess x.1 .g (a x) (t x).pa n .write with
          data := c.valC b x % 2 ^ (8 * n), rel := f.m = 2, scope := c.scope, key := pteSlot (t x).pte }
    Ends (.stg f) f s { s with fresh := s.fresh + 1 + as.length } { b with accs := b.accs ++ numbered s.fresh w as } (nextPc 0x83 f w))
end Sys2Proof.Machine

/-- R182, R193-R195, R356: LDG, LDI and STG where they pass their checks, and the traps of G accesses. -/
def Obligations.GlobalAccess : Prop := globalIssueRule ∧ globalFaultRule

/-- R197: LDC and STC act at one element of C space per lane; one outside the window of the warp traps. -/
def Obligations.MatrixElement : Prop :=
  (∀ f s w, Ready 0x86 f s w → let c := ctxOf 0x86 f s w; let b := w.begun; let core := (s.wg s.cur.wg).core
    let row (x : Nat × Nat) := c.valA b x % 2 ^ 32 + f.ext.toNat / 2 ^ 8 % 256
    let col (x : Nat × Nat) := c.valB b x % 2 ^ 32 + f.ext.toNat % 256
    (∀ x ∈ c.lanes, b.cwb ≤ row x ∧ row x < b.cwl ∧ col x ≤ 127 ∧ s.lockedC core (row x) = false ∧
      (s.core core).tagC (row x * 128 + col x) = none ∧ (∀ y ∈ b.tr, y.1 ≠ 2 ^ 67 + (row x * 128 + col x)) ∧
      b.held (plainAccess x.1 .c 0 (4 * (row x * 128 + col x)) 4 .read) = false) →
    Ends (.ldc f) f s { s with fresh := s.fresh + 1 }
      (c.lanes.foldl (fun v x => v.deliver s.fresh (c.dest b x.1) (tgetD 0 (s.core core).c (row x * 128 + col x)).toNat)
        { b with pends := b.pends ++ [awaited s.fresh (c.lanes.flatMap fun x => c.dest b x.1) c.lanes.length false] })
      (nextPc 0x86 f w)) ∧
  (∀ f s w, Ready 0x87 f s w → let c := ctxOf 0x87 f s w; let b := w.begun; let core := (s.wg s.cur.wg).core
    let row (x : Nat × Nat) := c.valA b x % 2 ^ 32 + f.ext.toNat / 2 ^ 8 % 256
    let col (x : Nat × Nat) := c.valB b x % 2 ^ 32 + f.ext.toNat % 256
    (∀ x ∈ c.lanes, b.cwb ≤ row x ∧ row x < b.cwl ∧ col x ≤ 127 ∧ s.lockedC core (row x) = false ∧
      b.held (plainAccess x.1 .c 0 (4 * (row x * 128 + col x)) 4 .write) = false) →
    Ends (.stc f) f s
      (s.modCore core fun k => { k with
        c := c.lanes.foldl (fun t x => tsetD 0 t (row x * 128 + col x) (BitVec.ofNat 64 (c.valC b x))) k.c
        cTag := k.cTag.filter fun e => c.lanes.all fun x => decide (row x * 128 + col x ≠ e.1) }) b (nextPc 0x87 f w)) ∧
  (∀ i op f s w x, ((i, op) = (Instr.ldc f, 0x86) ∨ (i, op) = (Instr.stc f, 0x87)) → Ready op f s w →
    let c := ctxOf op f s w; let b := w.begun
    let row := c.valA b x % 2 ^ 32 + f.ext.toNat / 2 ^ 8 % 256
    let col := c.valB b x % 2 ^ 32 + f.ext.toNat % 256
    c.lanes = [x] → (row < b.cwb ∨ b.cwl ≤ row ∨ 127 < col) →
    Traps i op f s w (c.report [{ lane := x.1, cause := .cWindow, info0 := BitVec.ofNat 32 (row * 256 + col)
                                  info1 := BitVec.ofNat 32 ((row * 256 + col) / 2 ^ 32) }]))

/-- R198-R202: LDTF and STTE begin the waits of all their lanes together and end once every lane has finished; a lane acts when its tag
condition holds, in ascending order on one word, and ends without effect when its limit has passed; TAGSET sets tags and leaves data. -/
def Obligations.Tags : Prop :=
  (∀ i op f s w, ((i, op) = (Instr.ldtf f, 0x88) ∨ (i, op) = (Instr.stte f, 0x89)) → Ready op f s w → w.doneLanes = [] →
    let c := ctxOf op f s w; let b := w.begun; let s0 := s.started w
    let a := c.formed b 32 true
    let st : Bool := op = 0x89
    c.lanes ≠ [] →
    (∀ x ∈ c.lanes, AOk s0 s.cur b (a x) 4 4 st ∧
      b.held { plainAccess x.1 .a (a x) (a x) 4 (if st then .write else .read) with
        acq := !st && (f.m = 1 || f.m = 5), rel := st && f.m = 2, scope := c.scope } = false) →
    let ls : List LaneWait := c.lanes.map fun x =>
      { lane := x.1, addr := a x, va := 0, kind := if st then .stte (BitVec.ofNat 32 (c.valC b x)) else .ldtf (4 ≤ f.m.toNat)
        dest := if st then [] else c.dest b x.1, pred := predKey (if st then f.d else f.c) x.1
        limit := if f.ext.toNat / 2 ^ 48 = 0 then none else some (s.time + 1024 * (f.ext.toNat / 2 ^ 48))
        poll := none, key := none, finished := false }
    exec i s = .next (s.setWarp s.cur { b with wait := some (.lanes ls), waitAt := s.time, slotLanes := c.lanes })) ∧
  (∀ i op f s w ls, ((i, op) = (Instr.ldtf f, 0x88) ∨ (i, op) = (Instr.stte f, 0x89)) → Resumed op f s w → w.wait = some (.lanes ls) →
    (∀ l ∈ ls, l.finished = true) → (∀ x ∈ (ctxOf op f s w).lanes, ∃ l ∈ ls, l.lane = x.1) →
    Ends i f s s w.begun (nextPc op f w)) ∧
  (∀ r lane s w ls l, s.warp? r = some w → w.wait = some (.lanes ls) → w.laneWait? lane = some l → l.lane = lane →
    (∀ x ∈ ls, x.finished = false → x.addr = l.addr → lane ≤ x.lane) → let g := s.asp r.wg
    (∀ e, l.kind = .ldtf e → g.full l.addr = true → g.aTag l.addr 4 = none → exec (.tagConditionMet r lane) s = .next
      ((if e then s.modA r.wg fun g => g.setTag l.addr false else s).modWarp r fun v => v.finishLane lane (some (g.aRead l.addr 4)) true)) ∧
    (∀ v, l.kind = .stte v → g.full l.addr = false → exec (.tagConditionMet r lane) s = .next
      ((s.modA r.wg fun g => (g.aPut l.addr (toBytes 4 v.toNat)).setTag l.addr true).modWarp r fun v => v.finishLane lane none true)) ∧
    (∀ limit, l.limit = some limit → limit ≤ s.time → (∀ x ∈ ls, x.lane ≠ lane → x.finished = true ∨ x.limit = none) →
      (ls.filter fun x => x.lane = lane).length = 1 →
      ((∃ e, l.kind = .ldtf e ∧ g.full l.addr = false) ∨ (∃ v, l.kind = .stte v ∧ g.full l.addr = true)) →
      exec (.instrWaitLimit r) s = .next (s.modWarp r fun v => v.finishLane lane none false))) ∧
  (∀ i f s w, (i = Instr.tagsetEmpty f ∨ i = Instr.tagsetFull f) → Ready 0x8A f s w →
    let c := ctxOf 0x8A f s w; let b := w.begun; let s0 := s.started w
    let a := c.formed b 32 true
    let n (x : Nat × Nat) := c.valC b x % 2 ^ 32
    (∀ x ∈ c.lanes, a x + 4 * max (n x) 1 ≤ (s0.wg s.cur.wg).aSize ∧ a x % 4 = 0 ∧
      (n x ≠ 0 → s0.lockedA (s0.wg s.cur.wg).core s.cur.wg (a x) (4 * n x) true = false) ∧ (∀ y ∈ b.tr, y.1 ≠ 2 ^ 65 + a x / 4) ∧ b.held (plainAccess x.1 .a (a x) (a x) (4 * n x) .write) = false) →
    Ends i f s (s0.modA s.cur.wg fun g => c.lanes.foldl (fun g x => (List.range (n x)).foldl
      (fun g k => g.setTag (a x + 4 * k) (decide (i = .tagsetFull f))) g) g) b (nextPc 0x8A f w))

/-- R203-R206: ATOM and CAS issue one access per lane, in lane order, of scope .blk to the bank and of a wider one to the home slice; the
wider ones are forbidden in deterministic mode. -/
def Obligations.Atomics : Prop :=
  ∀ i op f s w, ((i, op) = (Instr.atom f, 0x8B) ∨ (i, op) = (Instr.cas f, 0x8C)) → Ready op f s w →
    let c := ctxOf op f s w; let b := w.begun; let s0 := s.started w; let n := c.bytes
    let aop := f.ext.toNat / 2 ^ 39 % 32
    let operand (x : Nat × Nat) := (if op = 0x8B ∧ aop = 9 then c.elemC b x fmtF32 32 0 else c.valC b x) % 2 ^ (8 * n)
    let access (x : Nat × Nat) (sp : Space) (va pa : Nat) : Access :=
      { plainAccess x.1 sp va pa n (if op = 0x8B then .atom aop else .cas) with
          data := operand x, cmp := if op = 0x8B then 0 else c.valB b x % 2 ^ (8 * n), acq := f.m = 1 || f.m = 3, rel := f.m = 2 || f.m = 3
          scope := c.scope, dest := c.dest b x.1, pend := s.fresh }
    (c.scope = .blk → let a := c.formed b 32 (op = 0x8B)
      (∀ x ∈ c.lanes, AOk s0 s.cur b (a x) n n true ∧ (s0.asp s.cur.wg).aTag (a x) n = none) →
      Ends i f s { s with fresh := s.fresh + 2 + c.lanes.length }
        { b with
          accs := b.accs ++ numbered (s.fresh + 1) w (c.lanes.map fun x => access x .a (a x) (a x))
          pends := b.pends ++ [awaited s.fresh (c.lanes.flatMap fun x => c.dest b x.1) c.lanes.length false] } (nextPc op f w)) ∧
    (c.scope ≠ .blk → s.flag s.cur.wg (·.det) = false → ∀ tr : LaneAddr → Trans, let a := c.formed b 64 (op = 0x8B)
      let t (x : Nat × Nat) := tr (x.1, x.2, a x)
      (∀ x ∈ c.lanes, GOk s0 s.cur b (a x) n n true true (c.scope = .sys) (t x) ∧ s0.poisonAt (t x).pa n = none) →
      let as := c.lanes.map fun x => { access x .g (a x) (t x).pa with key := pteSlot (t x).pte }
      Ends i f s { s with fresh := s.fresh + 2 + as.length }
        { b with
          accs := b.accs ++ numbered (s.fresh + 1) w as
          pends := b.pends ++ [awaited s.fresh (c.lanes.flatMap fun x => c.dest b x.1) as.length true] } (nextPc op f w)) ∧
    (c.scope ≠ .blk → s.flag s.cur.wg (·.det) = true → c.lanes ≠ [] →
      Traps i op f s w (c.report (c.lanes.map fun x => { lane := x.1, cause := .detForbidden })))

/-- R212, R214, R215: WAITA and QWAIT begin the waits of their lanes at the home slices, in ascending order, and end once every lane has
finished; QWAKE issues one access per lane. -/
def Obligations.AddressWaits : Prop :=
  (∀ i op f s w (tr : LaneAddr → Trans), ((i, op) = (Instr.waita f, 0x74) ∨ (i, op) = (Instr.qwait f, 0x75)) → Ready op f s w →
    w.doneLanes = [] → let c := ctxOf op f s w; let b := w.begun; let s0 := s.started w
    let q : Bool := op = 0x75
    let n := if q then 32 else c.bytes
    let a (x : Nat × Nat) := if q then c.valA b x else c.formed b 64 false x
    let t (x : Nat × Nat) := tr (x.1, x.2, a x)
    c.lanes ≠ [] → (q = false → c.scope ≠ .blk) → (q = true → s.flag s.cur.wg (·.det) = false) →
    (∀ x ∈ c.lanes, GOk s0 s.cur b (a x) n n q false true (t x) ∧ s0.poisonAt (t x).pa n = none ∧
      b.held { plainAccess x.1 .g (a x) (t x).pa n .read with acq := true, scope := if q then .dev else c.scope } = false ∧
      s0.awaitVeiled s.cur (t x).pa n = false) →
    let ls : List LaneWait := c.lanes.map fun x =>
      { lane := x.1, addr := (t x).pa, va := a x
        kind := if q then .qwait else .waita n (c.valB b x % 2 ^ (8 * n)) f.m.toNat (c.valC b x % 2 ^ (8 * n))
        dest := c.dest b x.1, pred := none
        limit := if q ∨ f.ext.toNat / 2 ^ 48 = 0 then none else some (s.time + 1024 * (f.ext.toNat / 2 ^ 48))
        poll := none, key := pteSlot (t x).pte, finished := false }
    let s1 := ls.foldl (fun u l => u.startWait s.cur l) (s.setWarp s.cur { b with wait := some (.lanes ls), waitAt := s.time, slotLanes := c.lanes })
    ∀ w1 ks, s1.warp? s.cur = some w1 → w1.wait = some (.lanes ks) →
      ((∀ l ∈ ks, l.finished = true) → Ends i f s s1 w1 (nextPc op f w)) ∧ ((∃ l ∈ ks, l.finished = false) → exec i s = .next s1)) ∧
  (∀ i op f s w ls, ((i, op) = (Instr.waita f, 0x74) ∨ (i, op) = (Instr.qwait f, 0x75)) → Resumed op f s w → w.wait = some (.lanes ls) →
    (∀ l ∈ ls, l.finished = true) → (∀ x ∈ (ctxOf op f s w).lanes, ∃ l ∈ ls, l.lane = x.1) →
    Ends i f s s w.begun (nextPc op f w)) ∧
  (∀ i f s w (tr : LaneAddr → Trans), (i = Instr.qwakeBank f ∨ i = Instr.qwakeDrop f) → Ready 0x76 f s w →
    let c := ctxOf 0x76 f s w; let b := w.begun; let s0 := s.started w
    let t (x : Nat × Nat) := tr (x.1, x.2, c.valA b x)
    s.flag s.cur.wg (·.det) = false →
    (∀ x ∈ c.lanes, GOk s0 s.cur b (c.valA b x) 32 32 true true true (t x) ∧ s0.poisonAt (t x).pa 32 = none) →
    let as := c.lanes.map fun x =>
      { plainAccess x.1 .g (c.valA b x) (t x).pa 32 (.qwake (c.valB b x % 2 ^ 32) (decide (i = .qwakeBank f))) with
          rel := true, scope := .dev, key := pteSlot (t x).pte, dest := c.dest b x.1, pend := s.fresh }
    Ends i f s { s with fresh := s.fresh + 2 + as.length }
      { b with
        accs := b.accs ++ numbered (s.fresh + 1) w as
        pends := b.pends ++ [awaited s.fresh (c.lanes.flatMap fun x => c.dest b x.1) as.length true] } (nextPc 0x76 f w))

/-- R166, R167: a home slice or a bank performs an access of a warp that no earlier access holds up: a store puts its data at its own
address, an atomic replaces the value it returns, a load returns what stands there, and a contribution counts at its stage; one that an
earlier access precedes is not performed. -/
def Obligations.Perform : Prop :=
  ∀ s r w a before after, s.warp? r = some w → w.accs = before ++ a :: after → (∀ x ∈ before, x.id ≠ a.id) →
    ((∃ x ∈ before, mustPrecede x a = true) → exec (.gAccessPerform r a.id) s = .next s) ∧
    ((∀ x ∈ before, ordered x a = false) → a.space ≠ .w →
    (a.space = .g → s.veiled r.wg (s.wg r.wg).core (some r) a.pa a.bytes (a.kind ≠ .read) = false) → s.accPoison r a = none →
    let s0 := s.modWarp r fun v => { v with accs := v.accs.filter fun x => decide (x.id ≠ a.id) }
    let old := if a.space = .a then (s.asp r.wg).aRead a.pa a.bytes else ofBytes (s.view a.key a.pa a.bytes)
    let stored (v : Nat) : State :=
      if a.space = .a then s0.modA r.wg fun g => g.aPut a.pa (toBytes a.bytes v) else s0.gWrite a.key a.pa (toBytes a.bytes v)
    let returned (t : State) (v : Nat) : State := t.modWarp r fun x => x.deliver a.pend a.dest v
    (a.kind = .write → exec (.gAccessPerform r a.id) s = .next (stored a.data)) ∧
    (a.kind = .read → a.ldi = false → exec (.gAccessPerform r a.id) s = .next (returned s0 (extendLoad a.sx a.bytes old))) ∧
    (∀ v s1, a.kind = .read → a.ldi = true → s0.ldiValue a.key (s.markOf r.wg).1 (s.markOf r.wg).2 a.pa a.bytes = (v, s1) →
      exec (.gAccessPerform r a.id) s = .next (returned s1 (extendLoad a.sx a.bytes v))) ∧
    (∀ aop, a.kind = .atom aop → exec (.gAccessPerform r a.id) s = .next (returned (stored (atomNew aop (8 * a.bytes) old a.data)) old)) ∧
    (a.kind = .cas → exec (.gAccessPerform r a.id) s = .next (returned (if old = a.cmp then stored a.data else s0) old)) ∧
    (∀ k, a.kind = .fence k → exec (.gAccessPerform r a.id) s = .next s0) ∧
    (∀ n phase, a.kind = .arrive n phase → exec (.gAccessPerform r a.id) s = .next s0) ∧
    (a.kind = .starr → exec (.gAccessPerform r a.id) s = .next (s0.modA r.wg fun g => (g.contribute a.pa a.data).1)) ∧
    (∀ n bank, a.kind = .qwake n bank → exec (.gAccessPerform r a.id) s =
      .next (returned (s0.qwakeOp a.key a.pa n bank).2 (s0.qwakeOp a.key a.pa n bank).1)))

namespace Sys2Proof.Machine
/-- R166, R364: a write to G space: the bytes written read back under the key of the page, every other byte reads as before, and outside
the 32-byte granules written every byte reads as before under every key. -/
def globalBytesRule : Prop :=
  ∀ (s : State) slot pa bs, s.memoryOk = true → s.sealsOk = true → let t := s.gWrite slot pa bs; let k := s.keyOf slot
    (∀ i, (h : i < bs.length) → t.viewByte k (pa + i) = bs[i]) ∧
    (∀ p, p < pa ∨ pa + bs.length ≤ p → t.viewByte k p = s.viewByte k p) ∧
    (∀ k' p, p / 32 < pa / 32 ∨ (pa + bs.length - 1) / 32 < p / 32 → t.viewByte k' p = s.viewByte k' p) ∧
    t.memoryOk = true ∧ t.sealsOk = true ∧ t.keys = s.keys

/-- R166, R198: a write to A space: the bytes written read back, every other byte reads as before, and no tag changes. -/
def localBytesRule : Prop :=
  ∀ (g : Workgroup) addr bs, twf (0 : Byte) g.a = true → let t := g.aPut addr bs
    t.aBytes addr bs.length = bs ∧ (∀ p n, p + n ≤ addr ∨ addr + bs.length ≤ p → t.aBytes p n = g.aBytes p n) ∧
    (∀ p, t.full p = g.full p) ∧ twf (0 : Byte) t.a = true ∧ t.aSize = g.aSize
end Sys2Proof.Machine

/-- R166, R198, R364: what a write to G space and one to A space leave. -/
def Obligations.BytesWritten : Prop := globalBytesRule ∧ localBytesRule

namespace Sys2Proof.Machine
/-- R212: a write that a home slice performs is evaluated for every lane registered at its location: where the condition holds the lane
ends; and R214, R215: a QWAKE releases the lanes first linked, as many as it asks for. -/
def wakeOnWriteRule : Prop :=
  (∀ (s : State) slot pa bs e l bytes mask cmp expect, e ∈ s.waits → (s.warp? e.w).bind (·.laneWait? e.lane) = some l →
    l.kind = .waita bytes mask cmp expect → e.pa < pa + bs.length → pa < e.pa + bytes →
    let m := s.writeBytes slot pa bs
    waitaCond bytes mask cmp expect (ofBytes (m.view l.key e.pa bytes)) = true →
    ((s.gWrite slot pa bs).warp? e.w).bind (·.laneWait? e.lane) = none) ∧
  (∀ (s : State) key pa n bank, (s.qwakeOp key pa n bank).1 = min n (tgetD [] s.queues pa).length ∧
    (tsorted s.queues = true → tgetD [] (s.qwakeOp key pa n bank).2.queues pa = (tgetD [] s.queues pa).drop n))

/-- R212, R213, R215: a lane that starts to wait, or polls again, ends at once where its condition holds, and otherwise takes an entry of
its partition's share at the home slice, or polls every 1,000 ns while the share is full. -/
def waitEntryRule : Prop :=
  ∀ s r w ls l, s.warp? r = some w → w.wait = some (.lanes ls) → l ∈ ls → l.finished = false →
    let full := s.shareFull (s.wg r.wg).part l.addr
    let t := s.startWait r l
    (∀ limit, l.poll = some limit → limit ≤ s.time → w.laneWait? l.lane = some l → exec (.pollRead r l.lane) s = .next t) ∧
    (∀ bytes mask cmp expect, l.kind = .waita bytes mask cmp expect → let v := ofBytes (s.view l.key l.addr bytes)
      (waitaCond bytes mask cmp expect v = true → t = s.modWarp r fun w => w.finishLane l.lane (some v) true) ∧
      (waitaCond bytes mask cmp expect v = false → (∀ e ∈ s.waits, e.w ≠ r) →
        (full = false → t.waits = s.waits ++ [{ pa := l.addr, part := (s.wg r.wg).part, w := r, lane := l.lane, shared := false }]) ∧
        (full = true → t.waits = s.waits ∧ t = s.setWarp r { w with
          wait := some (.lanes (ls.map fun x => if x.lane = l.lane then { x with poll := some (s.time + 1000) } else x)) }))) ∧
    (l.kind = .qwait → let tokens := (s.word l.key l.addr).toNat
      (0 < tokens → t = (s.queueMirror l.key l.addr (tokens - 1) (tgetD [] s.queues l.addr).length).modWarp r
        fun w => w.finishLane l.lane (some 0) true) ∧
      (tokens = 0 → full = false → tgetD [] t.queues l.addr = tgetD [] s.queues l.addr ++ [(r, l.lane)]))
end Sys2Proof.Machine

/-- R212-R215: entering a wait, and the writes that end it. -/
def Obligations.WaitTables : Prop := wakeOnWriteRule ∧ waitEntryRule

/-- R49, R50: a complete result lands in its registers, whatever was on its way to them before, and they stop being pending. -/
def Obligations.ResultLands : Prop :=
  ∀ s r w p, s.warp? r = some w → w.pends.find? (fun q => q.id = p.id && q.left = 0) = some p → (p.vals.map (·.1)).Nodup → ∃ w',
    exec (.loadResultLand r p.id) s = .next (s.setWarp r w') ∧
    (∀ k v, (k, v) ∈ p.vals → (∃ n, k = .s n) ∨ (∃ n t, k = .v n t) → tsorted w.v = true → tsorted w.s = true →
      (∀ n t, .v n t ∈ p.vals.map (·.1) → t < 32) → w'.final k = v) ∧
    (∀ k, k ∉ p.vals.map (·.1) → tsorted w.v = true → tsorted w.s = true → tsorted w.p = true → (∀ n t, k = .p n t → t < 32) →
      (∀ n t, .p n t ∈ p.vals.map (·.1) → t < 32) → (∀ n t, .v n t ∈ k :: p.vals.map (·.1) → t < 32) → w'.final k = w.final k) ∧
    w'.status = w.status ||| p.flags ∧ w'.pends = w.pends.filter (fun q => decide (q.id ≠ p.id)) ∧
    w'.pc = w.pc ∧ w'.em = w.em ∧ w'.accs = w.accs ∧ w'.wait = w.wait


/-! Commands of the engines -/

namespace Sys2Proof.Machine
/-- The range locks of an issue (R183). -/
def locksOf (id : Nat) (rs : List Range) : List RangeLock := rs.map fun r => { space := r.1, lo := r.2.1, hi := r.2.2.1, dest := r.2.2.2, seq := id }
/-- A command can be issued with these ranges and entries (R184, R201, R217). -/
structure Room (s : State) (w : Warp) (ranges : List Range) (entries : Nat) : Prop where
  apart : (s.started w).laneInRanges s.cur.wg (aRanges ranges) = false
  locks : s.locksUsed (s.wg s.cur.wg).core + ranges.length ≤ 32
  table : s.entriesUsed (s.wg s.cur.wg).core + entries ≤ 256
/-- The commands `cs` are those of `s` with one more, but for completed ones that no handle holds any more (R217). -/
def Entered (s : State) (cs : Table Cmd) (cmd : Cmd) : Prop :=
  tfind cs s.fresh = some cmd ∧ (∀ j k, j ≠ s.fresh → tfind s.cmds j = some k → k.status = 0 → tfind cs j = some k) ∧
  ∀ x ∈ cs, x = (s.fresh, cmd) ∨ x ∈ s.cmds
/-- The accesses that an issue by the warp releases: those before it in program order, but for invariant loads, are performed before the
command acts (R164, R178). -/
def released (s : State) (w : Warp) : List (Nat × Nat) :=
  (w.accs.filter fun x => !pathsApart x.path w.path && !x.ldi).map fun x => (s.cur.wix, x.id)
/-- The command of an issue (R178, R183, R217). -/
def issued (s : State) (w : Warp) (kind : Nat) (body : CmdBody) (entry : Bool) (ranges : List Range) : Cmd :=
  { mkCmd s s.cur kind body entry (locksOf s.fresh ranges) with after := released s w }
/-- The instruction issues a command with a handle in `h`, a table entry and the locks of its ranges, and goes on (R178, R183, R217,
R223). -/
def Issues (i : Instr) (op : Nat) (f : Fields) (s : State) (w : Warp) (h kind : Nat) (body : CmdBody) (ranges : List Range) : Prop :=
  Room s w ranges 1 → ∃ cs, Entered s cs (issued s w kind body true ranges) ∧
    Ends i f s { s with fresh := s.fresh + 1, cmds := cs } { w.begun with h := tput w.h h s.fresh } (nextPc op f w)
/-- The checks of an issue in their order: the first that fails is the trap, with the address it concerns (R376); when none fails, `ok`. -/
def Checked (i : Instr) (op : Nat) (f : Fields) (s : State) (w : Warp) (checks : List (Bool × Cause × Nat)) (ok : Prop) : Prop :=
  (∀ pre c a post, checks = pre ++ (true, c, a) :: post → (∀ y ∈ pre, y.1 = false) → Traps i op f s w
    { cause := c, info0 := if c.hasAddress then BitVec.ofNat 32 a else 0, info1 := if c.hasAddress then BitVec.ofNat 32 (a / 2 ^ 32) else 0 }) ∧
  ((∀ y ∈ checks, y.1 = false) → ok)
/-- The checks of a G range and of an A range (R228). -/
def gRange (sp : Space) (a n : Nat) : Bool × Cause × Nat := (sp = .g && decide (2 ^ 57 ≤ a ∨ 2 ^ 57 < a + n), .gNoncanon, a)
def aRange (size : Nat) (sp : Space) (a n : Nat) : Bool × Cause × Nat := (sp = .a && decide (2 ^ 20 ≤ a ∨ size < a + n), .aRange, a)
def aAligned (sp : Space) (al a : Nat) : Bool × Cause × Nat := (sp = .a && decide (a % al ≠ 0), .localAlign, a)
/-- The spaces that SSP and DSP name (R225). -/
def namedSpace (n : Nat) : Space := [Space.g, .a, .w].getD n .stream
/-- The checks of the stage that an extension word names (R228). -/
def stageChecks (size : Nat) (e : DWord) : List (Bool × Cause × Nat) :=
  [(xSte e && decide (xStg e % 4 ≠ 0), .localAlign, xStg e), (xSte e && decide (size < xStg e + 4), .aRange, xStg e)]
def namedStage (e : DWord) : Option Nat := if xSte e = true then some (xStg e) else none
/-- Between `s` and `t` the data of the machine are the same: memory, A space, tags, C rows, mats and the registers of every warp; only
commands, tokens, pending results and the current warp have changed. -/
structure DataKept (s t : State) : Prop where
  rest  : t = { s with fresh := t.fresh, wgs := t.wgs, cores := t.cores, clus := t.clus, cmds := t.cmds }
  group : ∀ g, tfind t.wgs g = (tfind s.wgs g).map fun k => { k with warps := (t.wg g).warps }
  core  : ∀ c, t.core c = { s.core c with progress := (t.core c).progress }
  clu   : ∀ c, t.cluster c = { s.cluster c with power := (t.cluster c).power, asks := (t.cluster c).asks }
  other : ∀ q v, q ≠ s.cur → s.warp? q = some v → ∃ v', t.warp? q = some v' ∧ v' = { v with tok := v'.tok, pends := v'.pends }
/-- The current warp after an issue of the copy engine: its handles, tokens and pending results may have changed. -/
def CopyRetired (f : Fields) (w w' : Warp) (pc : GAddr) : Prop :=
  w' = { w with
    h := w'.h, tok := w'.tok, pends := w'.pends, nCopy := w'.nCopy, pc := pc, next := w'.next, busy := w'.busy, draw := w'.draw, wait := none
    doneLanes := [], kept := none, tr := [], atSafe := f.sp, live := if f.sp then f.live else w.live, stopped := w'.stopped }
/-- A range of the command reaches host memory: at its first byte or at the start of a later page of it (R233). -/
def ReachesHost (s : State) (k : Cmd) : Prop :=
  ∃ r ∈ k.gRanges, ∃ p, (p = r.1 ∨ p % 65536 = 0 ∧ r.1 < p ∧ p < r.1 + r.2) ∧ ∃ x, s.transNow k.core k.part p = some x ∧ paSpace x.pa = 1
/-- The promise of an accepted command (R233): L0 ticks and the bytes queued before it at R bytes a tick. -/
def Promised (s t : State) (k : Cmd) : Prop :=
  ∃ q, ∃ host : Bool, (host = true ↔ ReachesHost s k) ∧
    k.promise = some (BitVec.ofNat 64 (s.clock.clk + (if k.allInA then 24 else if host then 3000 else 400) +
      (q + (if k.allInA then 128 else 32) - 1) / (if k.allInA then 128 else 32))) ∧
    q = ((t.cmds.filter fun x => x.2.core = k.core && x.2.status = 0 && (x.2.isCopy || (x.2.body matches .wstore ..)) && !x.2.assembling).map
      fun x => x.2.bytesLeft).sum
/-- A command of the copy engine that is no collective is issued and accepted at once (R217, R223, R225, R233). -/
def CopyIssues (i : Instr) (op : Nat) (f : Fields) (s : State) (w : Warp) (kind : Nat) (body : CmdBody) (h : Option Nat)
    (ranges : List Range) (targets : List Nat) : Prop :=
  Room s w ranges (if h.isSome then 1 else 0) → ∃ t w' k,
    exec i s = .next t ∧ DataKept s t ∧ t.warp? s.cur = some w' ∧ CopyRetired f w.begun w' (nextPc op f w) ∧ w'.nCopy = w.nCopy ∧
    tfind t.cmds s.fresh = some k ∧ k = { issued s w kind body h.isSome ranges with tokens := k.tokens, promise := k.promise } ∧
    Promised s t k ∧ (∀ j l, j ≠ s.fresh → tfind s.cmds j = some l → l.status = 0 → tfind t.cmds j = some l) ∧
    (∀ r, h = some r → w'.h = tput w.h r s.fresh) ∧ (h = none → w'.h = w.h) ∧
    (xTke f.ext = true → ∀ n ∈ targets, ∀ v, t.warp? { s.cur with wix := n } = some v → s.fresh ∈ tgetD [] v.tok (xTok f.ext)) ∧
    (xPre f.ext = true → w'.isPending [.s (xPrs f.ext)] = true ∧ ∀ p, k.promise = some p →
      ∃ e ∈ w'.pends, e.left = 0 ∧ e.vals = [(.s (xPrs f.ext), p.truncate 32), (.s (xPrs f.ext + 1), (p >>> 32).truncate 32)])
end Sys2Proof.Machine

namespace Sys2Proof.Machine
/-- An open collective of the workgroup for its `n`th COPY (R227). -/
def Cmd.opens (k : Cmd) (g n : Nat) : Bool :=
  k.wg = g && k.status = 0 && (match k.body with | .copy _ _ m _ accepted _ _ => !accepted && m = n | _ => false)
/-- The slices of a collective so far. -/
def Cmd.slices (k : Cmd) : List Slice := match k.body with | .copy _ _ _ sl _ _ _ => sl | _ => []
end Sys2Proof.Machine

/-- R217, R223, R225-R228: COPY enters the slice of its warp into the collective of its workgroup, which is accepted once every warp has
issued its slice or retired; the checks in their order. -/
def Obligations.CollectiveCopy : Prop :=
  ∀ f s w x, ReadyUni 0xA0 f s w x → let c := ctxOf 0xA0 f s w; let e := f.ext; let g := s.wg s.cur.wg
    let src := c.valA w.begun x; let dst := c.valB w.begun x; let len := c.valC w.begun x % 2 ^ 32
    let ssp := namedSpace (xSsp e); let dsp := namedSpace (xDsp e)
    let slot := slotOfAddr src
    let ranges : List Range := if len = 0 then [] else
      [if ssp = .w then (.w, slot, slot + len / 136, false) else (ssp, src, src + len, false)] ++
      (if dsp = .stream then [] else [(dsp, dst, dst + len, true)])
    let row := src % 2 ^ 32 / 2 ^ 12 % 2 ^ 12; let col := src % 2 ^ 12
    Checked (.copy f) 0xA0 f s w
      ([(decide (xSsp e = 3 ∨ xDsp e = 2 ∨ xSte e = true ∧ xDsp e = 3), .copySpace, 0), gRange ssp src len, gRange dsp dst len,
        aRange g.aSize ssp src len, aRange g.aSize dsp dst len, aAligned ssp 4 src, aAligned dsp 4 dst] ++ stageChecks g.aSize e ++
       (if ssp = .w then [(decide (2 ^ 32 ≤ src), .copyLength, 0), (decide (159 < src % 2 ^ 32 / 2 ^ 24), .wRange, src % 2 ^ 32),
          (decide (col ∉ [0, 0x500, 0xA00] ∨ 0xEFF < row ∨ len % 136 ≠ 0 ∨ 11520 < 3 * row + col / 1280 + len / 136), .copyLength, 0)] else []) ++
       [(dsp = .stream && decide (15 < dst ∨ len % 32 ≠ 0 ∨ 32768 < len), .copyLength, 0)])
      (Room s w ranges 1 →
        let old := s.cmds.find? fun k => k.2.opens s.cur.wg w.nCopy
        let id := (old.map (·.1)).getD s.fresh
        let slice : Slice := { wix := s.cur.wix, seq := s.fresh, src := BitVec.ofNat 64 src, dst := BitVec.ofNat 64 dst, len }
        let slices := insertSlice slice ((old.map (·.2.slices)).getD [])
        let full : Bool := g.warps.zipIdx.all fun v => v.1.retired || slices.any fun y => y.wix = v.2
        ∃ t w' k p q bad st, exec (.copy f) s = .next t ∧ DataKept s t ∧ t.warp? s.cur = some w' ∧ CopyRetired f w.begun w' (nextPc 0xA0 f w) ∧
          w'.nCopy = w.nCopy + 1 ∧ w'.h = tput w.h (hIndex f.d) id ∧ tfind t.cmds id = some k ∧
          k.body = .copy p q w.nCopy slices full bad st ∧ k.status = 0 ∧ k.kind = ((old.map (·.2.kind)).getD 0) ∧ k.entry = ((old.map (·.2.entry)).getD true) ∧
          k.locks = ((old.map (·.2.locks)).getD []) ++ locksOf s.fresh ranges ∧ k.after = ((old.map (·.2.after)).getD []) ++ released s w ∧ k.holders = ((old.map (·.2.holders)).getD []) ++ [(s.cur.wix, hIndex f.d)] ∧
          (old = none → (p, q, bad, st) = (ssp, dsp, false, namedStage e)) ∧
          (∀ o p' q' n l a b st', old = some o → o.2.body = .copy p' q' n l a b st' →
            (p, q, st) = (p', q', st') ∧ bad = (b || decide (p' ≠ ssp ∨ q' ≠ dsp ∨ st' ≠ namedStage e))) ∧
          (full = true → Promised s t k ∧ k.failed = if bad then some 0x5A else (old.bind (·.2.failed))) ∧
          (∀ j l, j ≠ id → tfind s.cmds j = some l → l.status = 0 → tfind t.cmds j = some l) ∧
          (xTke e = true → id ∈ tgetD [] w'.tok (xTok e)))

/-- R217, R223, R225, R233, R238-R241: COPYV, GATHER and REDCOPY are issued and accepted at once; the checks in their order. -/
def Obligations.OtherCopies : Prop :=
  (∀ f s w x, ReadyUni 0xA1 f s w x → let c := ctxOf 0xA1 f s w; let e := f.ext; let g := s.wg s.cur.wg
    let src := c.valA w.begun x; let mask := c.valB w.begun x % 2 ^ 32; let len := c.valC w.begun x % 2 ^ 32
    let ssp := namedSpace (xSsp e)
    let targets := (List.range 16).filter fun i => mask.testBit i
    let total := len * targets.length
    let regs := (len + 127) / 128
    ((∀ r, opnd f.d ≠ .v r) → xSsp e ≤ 1 → xDsp e = 2 → xSte e = false → Traps (.copyv f) 0xA1 f s w { cause := .operandKind }) ∧
    ∀ r, opnd f.d = .v r →
    Checked (.copyv f) 0xA1 f s w
      [(decide (1 < xSsp e ∨ xDsp e ≠ 2 ∨ xSte e = true), .copySpace, 0), (decide (len % 4 ≠ 0 ∨ 16384 < len), .copyvSize, 0),
       (decide (w.vAllot < r + regs), .regBounds, 0),
       (decide (mask = 0 ∨ 2 ^ 16 ≤ mask) || targets.any fun i => match g.warps[i]? with | some t => t.retired | none => true, .copyvTarget, 0),
       gRange ssp src total, aRange g.aSize ssp src total, aAligned ssp 4 src]
      ((∀ i ∈ targets, ∀ v, g.warps[i]? = some v →
          (i ≠ s.cur.wix → xTke e = true → v.tokenBusy (xTok e) = false) ∧ v.isPending ((List.range (len / 4)).map fun k => .v (r + k / 32) (k % 32)) = false) →
        CopyIssues (.copyv f) 0xA1 f s w 1 (.copyv ssp (BitVec.ofNat 64 src) r len targets) (if xHe e then some (xHix e) else none)
          (if total = 0 then [] else [(ssp, src, src + total, false)])
          (if s.cur.wix ∈ targets then targets else s.cur.wix :: targets))) ∧
  (∀ f s w x, ReadyUni 0xA2 f s w x → let c := ctxOf 0xA2 f s w; let e := f.ext; let g := s.wg s.cur.wg
    let base := c.valA w.begun x; let list := c.valB w.begun x % 2 ^ 32; let dst := c.valB w.begun x / 2 ^ 32; let n := c.valC w.begun x % 2 ^ 32
    let ssp := namedSpace (xSsp e); let size := 4 * 2 ^ xEsz e
    Checked (.gather f) 0xA2 f s w
      ([(decide (1 < xSsp e ∨ xDsp e ≠ 1), .copySpace, 0), (decide (n = 0 ∨ 65536 < n), .copyLength, 0), gRange ssp base 0, aRange g.aSize ssp base 0,
        aRange g.aSize .a list (4 * n), aRange g.aSize .a dst (n * size), aAligned ssp 4 base, aAligned .a 4 list, aAligned .a 4 dst] ++
       stageChecks g.aSize e)
      (CopyIssues (.gather f) 0xA2 f s w 2 (.gather ssp (BitVec.ofNat 64 base) list dst size n (namedStage e)) (some (hIndex f.d))
        [(.a, list, list + 4 * n, false), (.a, dst, dst + n * size, true)] [s.cur.wix])) ∧
  (∀ f s w x, ReadyUni 0xA3 f s w x → let c := ctxOf 0xA3 f s w; let e := f.ext; let g := s.wg s.cur.wg
    let src := c.valA w.begun x; let dst := c.valB w.begun x; let n := c.valC w.begun x % 2 ^ 32
    let ssp := namedSpace (xSsp e); let dsp := namedSpace (xDsp e); let len := n * ropBytes (xRop e)
    Checked (.redcopy f) 0xA3 f s w
      ([(decide (1 < xSsp e ∨ 1 < xDsp e), .copySpace, 0), (xDsp e = 0 && s.flag s.cur.wg (·.det), .detForbidden, 0), gRange ssp src len,
        gRange dsp dst len, aRange g.aSize ssp src len, aRange g.aSize dsp dst len, aAligned ssp 4 src, aAligned dsp 4 dst] ++ stageChecks g.aSize e)
      (CopyIssues (.redcopy f) 0xA3 f s w 3 (.redcopy ssp dsp (BitVec.ofNat 64 src) (BitVec.ofNat 64 dst) n (xRop e) (namedStage e)) (some (hIndex f.d))
        (if len = 0 then [] else [(ssp, src, src + len, false), (dsp, dst, dst + len, true)]) [s.cur.wix]))


namespace Sys2Proof.Machine
/-- The command `id` completes with the status `word` and nothing else happens: its locks go, its tokens settle, its leave is given up, and
its entry is freed where no handle holds it; `ds` are the traps that are deferred (R185, R217, R218, R223, R224). -/
structure Completed (s t : State) (id : Nat) (word : DWord) (ds : List (WarpRef × Deferred)) : Prop where
  rest   : t = { s with wgs := t.wgs, clus := t.clus, walks := t.walks, cmds := t.cmds }
  group  : ∀ g, tfind t.wgs g = (tfind s.wgs g).map fun k => { k with warps := (t.wg g).warps }
  warps  : ∀ q v, s.warp? q = some v → ∃ v', t.warp? q = some v' ∧ v' = { v with
    tok := v'.tok, pends := v'.pends, defers := if v.retired then v.defers else v.defers ++ (ds.filter fun x => x.1 = q).map (·.2) }
  walks  : t.walks = s.walks.map fun x => (x.1, { x.2 with joined := x.2.joined.filter fun j => decide (j ≠ .cmd id) })
  clus   : ∀ q, t.cluster q = { s.cluster q with asks := (t.cluster q).asks, grants := (t.cluster q).grants }
  leave  : ∀ c, tfind s.cmds id = some c → ∀ x, x ∈ (t.cluster (cluOf c.core)).asks ∨ x ∈ (t.cluster (cluOf c.core)).grants → x.1 ≠ id
  entry  : ∀ c, tfind s.cmds id = some c → c.entry = true → (∃ v ∈ (s.wg c.wg).warps, ∃ h, (h, id) ∈ v.h) →
    tfind t.cmds id = some { c with status := word, locks := [], granted := false, walk := none }
  freed  : ∀ c, tfind s.cmds id = some c → tsorted s.cmds = true → (c.entry = false ∨ ∀ v ∈ (s.wg c.wg).warps, ∀ h, (h, id) ∉ v.h) →
    tfind t.cmds id = none
  tokens : ∀ c, tfind s.cmds id = some c → ∀ x ∈ c.tokens, ∀ v, t.warp? { wg := c.wg, wix := x.1 } = some v → id ∉ tgetD [] v.tok x.2
  others : ∀ j l, j ≠ id → tfind s.cmds j = some l → l.status = 0 → tfind t.cmds j = some l
/-- A status word of its fields (R218). -/
def statusOf (stat cause prov kind count : Nat) : DWord :=
  BitVec.ofNat 32 count ++ BitVec.ofNat 4 kind ++ BitVec.ofNat 12 prov ++ BitVec.ofNat 8 cause ++ BitVec.ofNat 8 stat
/-- The step completes the command: as `Completed`, from `s1` on. -/
def Completes (i : Instr) (s s1 : State) (id : Nat) (word : DWord) : Prop := ∃ t, exec i s = .next t ∧ Completed s1 t id word []
/-- The warp with a result whose value is known and which still has to land in `keys` (R49). -/
def Warp.returns (w : Warp) (id : Nat) (keys : List RegKey) (v : Nat) : Warp :=
  if keys = [] then w else ({ w with pends := w.pends ++ [awaited id keys 1 false] }).deliver id keys v
/-- The command that A names (R222). -/
def namedCmd (f : Fields) (s : State) (w : Warp) (v : Nat) : Option (Nat × Cmd) :=
  match opnd f.a with
  | .h r => (tfind w.h r).bind fun id => (tfind s.cmds id).map fun k => (id, k)
  | _ => s.cmds.find? fun k => nameOf k.1 = BitVec.ofNat 32 v && k.2.wg = s.cur.wg && k.2.entry
end Sys2Proof.Machine

/-- R222, R224, R235-R237: WAITF returns the status word of a complete command, waits for an incomplete one, and under .PROM traps once the promise
has passed; TESTF reads status or name; CANCF marks a copy-engine command whose end has not begun. -/
def Obligations.Handles : Prop :=
  (∀ f s w x, ReadyUni 0xA6 f s w x → let c := ctxOf 0xA6 f s w; let keys := c.dest w.begun x.1
    let nm := namedCmd f s w (c.valA w.begun x)
    let n := if keys = [] then s.fresh else s.fresh + 1
    (∀ word : DWord, (nm = none ∧ word = 9) ∨ (∃ id k, nm = some (id, k) ∧ k.status ≠ 0 ∧ word = k.status) →
      (f.m.toNat < 2 → Ends (.waitf f) f s { s with fresh := n } (w.begun.returns s.fresh keys word.toNat) (nextPc 0xA6 f w)) ∧
      (2 ≤ f.m.toNat → ∃ cs, (∀ e ∈ cs, e ∈ s.cmds) ∧ (∀ j l, tfind s.cmds j = some l → l.status = 0 → tfind cs j = some l) ∧
        Ends (.waitf f) f s { s with fresh := n, cmds := cs }
          (({ w.begun with h := terase w.h (hIndex f.a) }).returns s.fresh keys word.toNat) (nextPc 0xA6 f w))) ∧
    (∀ id k, nm = some (id, k) → k.status = 0 → let prom : Bool := f.m = 1 || f.m = 3
      (prom = true → (∃ p, k.promise = some p ∧ p.toNat ≤ s.clock.clk) →
        Traps (.waitf f) 0xA6 f s w { cause := .promiseMissed, hname := nameOf id }) ∧
      (¬(prom = true ∧ ∃ p, k.promise = some p ∧ p.toNat ≤ s.clock.clk) → Waits (.waitf f) 0xA6 f s w (.handle id prom)))) ∧
  (∀ f s w x, ReadyUni 0xA7 f s w x → let c := ctxOf 0xA7 f s w; let keys := c.dest w.begun x.1
    let nm := namedCmd f s w (c.valA w.begun x)
    let n := if keys = [] then s.fresh else s.fresh + 1
    Ends (.testfStat f) f s { s with fresh := n } (w.begun.returns s.fresh keys ((nm.map fun k : Nat × Cmd => k.2.status).getD 9).toNat) (nextPc 0xA7 f w) ∧
    Ends (.testfName f) f s { s with fresh := n } (w.begun.returns s.fresh keys ((nm.map fun k : Nat × Cmd => nameOf k.1).getD 0).toNat) (nextPc 0xA7 f w)) ∧
  (∀ f s w x, ReadyUni 0xA8 f s w x → let nm := namedCmd f s w ((ctxOf 0xA8 f s w).valA w.begun x)
    (nm = none → Ends (.cancf f) f s s w.begun (nextPc 0xA8 f w)) ∧
    (∀ id k, nm = some (id, k) →
      (4 < k.kind → Traps (.cancf f) 0xA8 f s w { cause := .handleKind }) ∧
      (k.kind ≤ 4 → k.status ≠ 0 ∨ (k.landed ≠ none ∧ k.kind ≠ 4) → Ends (.cancf f) f s s w.begun (nextPc 0xA8 f w)) ∧
      (k.kind ≤ 4 → k.status = 0 → k.landed = none ∨ k.kind = 4 → Ends (.cancf f) f s (s.modCmd id fun k => { k with cancel := true }) w.begun (nextPc 0xA8 f w)))) ∧
  (∀ s r w id k p, s.warp? r = some w → w.wait = some (.handle id true) → tfind s.cmds id = some k → k.status = 0 → k.promise = some p →
    p.toNat ≤ s.clock.clk → exec (.promiseMissed r) s = .next (s.takeTrap r w.startAt
      { cause := .promiseMissed, hname := nameOf id, ilen := s.lengthAt (s.wg r.wg).core (s.wg r.wg).part w.pc / 8 }))

/-- R126, R178, R220, R232, R242-R245: SUBSCRIBE opens and closes a ring of slots, PUBLISH issues a record, the roundabout takes it in while the stream holds
fewer than four, and delivers it to a subscriber whose next slot is free. -/
def Obligations.Streams : Prop :=
  (∀ f s w x, ReadyUni 0xA4 f s w x → let c := ctxOf 0xA4 f s w; let g := s.wg s.cur.wg
    let stream := c.valA w.begun x % 2 ^ 32; let base := c.valB w.begun x % 2 ^ 32; let ctl := c.valC w.begun x % 2 ^ 32
    let slots := ctl % 32; let size := ctl / 2 ^ 8 % 2 ^ 11
    let mine := g.subs.any fun y => y.stream = stream
    (Checked (.subscribeOn f) 0xA4 f s w
      [(decide (15 < stream ∨ slots = 0 ∨ 16 < slots ∨ ctl / 2 ^ 5 % 8 ≠ 0 ∨ size = 0 ∨ 1024 < size ∨ ctl / 2 ^ 19 % 32 ≠ 0 ∨ ctl / 2 ^ 25 ≠ 0) || mine ||
          decide (64 ≤ ((s.wgs.filter fun y => cluOf y.2.core = cluOf g.core).map fun y => y.2.subs.length).sum), .streamState, 0),
       (decide (base % 32 ≠ 0), .localAlign, base), (decide (g.aSize < base + 32 * size * slots), .aRange, base)]
      ((w.released = false → Waits (.subscribeOn f) 0xA4 f s w .drain) ∧
       (w.released = true → Ends (.subscribeOn f) f s
        ((s.modA s.cur.wg fun k => (List.range slots).foldl (fun k n => k.setTag (base + 32 * size * n) false) k).modWg s.cur.wg fun k =>
          { k with subs := k.subs ++ [{ stream, base, slots, slotSz := size, byThreads := decide (ctl / 2 ^ 24 % 2 = 1), nextIn := 0, nextUse := 0
                                        seqNo := 0, inUse := [] }] }) w.begun (nextPc 0xA4 f w)))) ∧
    ((15 < stream ∨ mine = false) → Traps (.subscribeOff f) 0xA4 f s w { cause := .streamState }) ∧
    (stream ≤ 15 → mine = true → (w.released = false → Waits (.subscribeOff f) 0xA4 f s w .drain) ∧
      (w.released = true → Ends (.subscribeOff f) f s
        ((s.modWg s.cur.wg fun k => { k with subs := k.subs.filter fun y => decide (y.stream ≠ stream) }).modClu (cluOf g.core) fun k =>
          { k with streams := tmodify k.streams stream fun rs =>
              (rs.map fun r => { r with todo := r.todo.filter (· ≠ s.cur.wg) }).filter fun r => !r.todo.isEmpty }) w.begun (nextPc 0xA4 f w)))) ∧
  (∀ f s w x, ReadyUni 0xA5 f s w x → let c := ctxOf 0xA5 f s w; let g := s.wg s.cur.wg
    let stream := c.valA w.begun x % 2 ^ 32; let addr := c.valB w.begun x % 2 ^ 32; let len := c.valC w.begun x % 2 ^ 32
    Checked (.publish f) 0xA5 f s w
      [(decide (addr % 32 ≠ 0), .localAlign, addr), (decide (g.aSize < addr + len), .aRange, addr),
       (decide (len = 0 ∨ len % 32 ≠ 0 ∨ 32768 < len ∨ 15 < stream), .copyLength, 0)]
      (Issues (.publish f) 0xA5 f s w (hIndex f.d) 4 (.publish stream addr len) [(.a, addr, addr + len, false)])) ∧
  (∀ s id c stream addr len, tfind s.cmds id = some c → c.status = 0 → c.body = .publish stream addr len →
    (s.startable c = false → exec (.roundaboutIntake id) s = .next s) ∧ (s.startable c = true → let clu := cluOf c.core
    let held := tgetD [] (s.cluster clu).streams stream
    let subs := (s.wgs.filter fun y => cluOf y.2.core = clu && y.2.subs.any fun z => z.stream = stream).map (·.1)
    let fits := ∀ g ∈ subs, ∀ y, ((s.wg g).subs.find? fun z => z.stream = stream) = some y → len ≤ 32 * y.slotSz - (if y.byThreads then 32 else 0)
    let tag := (s.asp c.wg).aTag addr len
    let marks := (List.range (len / 32)).filterMap fun j => ((s.asp c.wg).aTag (addr + 32 * j) 32).map fun t => (32 * j, 32, t)
    (c.cancel = true → Completes (.roundaboutIntake id) s s id (statusOf 2 0 0 c.kind 0)) ∧
    (c.cancel = false → s.rangeHeld id id c (byteRange .a addr len false) = false → held.length < 4 →
      (¬fits → Completes (.roundaboutIntake id) s s id
        (match tag with | none => statusOf 4 0x55 0 c.kind 0 | some t => statusOf 3 0 t c.kind 0)) ∧
      (fits → Completes (.roundaboutIntake id) s
        (if subs.isEmpty then s else s.modClu clu fun k => { k with
          streams := tput k.streams stream (held ++ [{ bytes := (s.asp c.wg).aBytes addr len, marks, todo := subs }]) }) id
        (statusOf (if tag = none then 1 else 3) 0 (tag.getD 0) c.kind subs.length))))) ∧
  (∀ s clu stream g wg r x before after, tfind s.wgs g = some wg → wg.place = .resident → cluOf wg.core = clu →
    tgetD [] (s.cluster clu).streams stream = before ++ r :: after → (∀ y ∈ before, g ∉ y.todo) → g ∈ r.todo →
    (wg.subs.find? fun z => z.stream = stream) = some x → let slot := x.base + 32 * x.slotSz * x.nextIn
    (s.asp g).full slot = false → (x.byThreads = false → x.nextIn ∉ x.inUse) →
    (tfind s.wgs (s.home g)).isSome → twf (0 : Byte) (s.asp g).a = true → tsorted (s.asp g).tags = true → ∃ t,
    exec (.roundaboutDelivery clu stream g) s = .next t ∧ (t.asp g).full slot = true ∧
    (x.byThreads = false → (t.asp g).aBytes slot r.bytes.length = r.bytes) ∧
    (x.byThreads = true → (t.asp g).aRead slot 4 = x.seqNo % 2 ^ 32 ∧ (t.asp g).aBytes (slot + 32) r.bytes.length = r.bytes) ∧
    (∀ m ∈ r.marks, 0 < m.2.1 → ((t.asp g).aTag (slot + (if x.byThreads then 32 else 0) + m.1) m.2.1).isSome) ∧
    (∀ y ∈ (t.wg g).subs, y.stream = stream → ∃ z ∈ wg.subs, z.stream = stream ∧
      y = { z with nextIn := (z.nextIn + 1) % z.slots, seqNo := z.seqNo + 1, inUse := if z.byThreads then z.inUse else z.inUse ++ [z.nextIn] }) ∧
    tgetD [] (t.cluster clu).streams stream =
      (before ++ { r with todo := r.todo.filter (· ≠ g) } :: after).filter (fun q => !q.todo.isEmpty) ∧
    (∀ q, t.warp? q = s.warp? q) ∧ t.mem = s.mem ∧ t.cmds = s.cmds)

/-- R166, R178, R220, R224, R227, R420: a command does nothing before what its issue released has been performed, and writes its words one
by one; the steps by which a command of the copy engine ends; the leave governor grants its requests in their order. -/
def Obligations.CopyEnds : Prop :=
  (∀ s id c, tfind s.cmds id = some c → c.isCopy = true → c.status = 0 →
    (c.assembling = true → s.assembled c = true → ∃ t k, exec (.copyComplete id) s = .next t ∧ tfind t.cmds id = some k ∧ k.assembling = false ∧
      k.status = 0 ∧ k.since = s.clock.clk ∧ k.promise ≠ none) ∧
    (c.assembling = false → c.landed = none → c.out ≠ [] ∨ s.startable c = false → exec (.copyComplete id) s = .next s) ∧
    (c.assembling = false → c.landed = none → c.out = [] → s.startable c = true → (c.cancel = true ∨ c.failed ≠ none ∨ c.body.unitCount ≤ c.units.length) →
      c.deposited ≠ 0 → let r (g : Workgroup) (st : Nat) := g.contribute st c.deposited
      ((c.cancel = true ∨ c.failed ≠ none ∨ c.body.stage = none) →
        exec (.copyComplete id) s = .next (s.modCmd id fun k => { k with locks := [], landed := some s.clock.clk, overrun := false })) ∧
      (∀ st, c.cancel = false → c.failed = none → c.body.stage = some st →
        exec (.copyComplete id) s = .next ((s.modA c.wg fun g => (r g st).1).modCmd id fun k =>
          { k with locks := [], landed := some s.clock.clk, overrun := (r (s.asp c.wg) st).2 }))) ∧
    (∀ n, c.assembling = false → c.landed = some n → n < s.clock.clk →
      let stat := if c.cancel then 2 else if c.prov ≠ none then 3 else if c.failed ≠ none then 4 else if c.overrun then 5 else 1
      let word (kind n : Nat) := statusOf stat (if stat = 4 then c.failed.getD 0 else 0) (if stat = 3 then c.prov.getD 0 else 0) kind n
      let count := match c.body with | .gather .. | .redcopy .. => c.units.length | _ => c.deposited
      ((∀ x y r l ws, c.body ≠ .copyv x y r l ws) → Completes (.copyComplete id) s s id (word c.kind count)) ∧
      (∀ x y r l ws, c.body = .copyv x y r l ws → ∃ t, exec (.copyComplete id) s = .next t ∧
        Completed s t id (word c.kind count) (if c.entry = false ∧ (stat = 3 ∨ stat = 4) then
          [({ wg := c.wg, wix := c.wix }, { cause := .copyvFailed, cmd := id, status := word 1 count, token := (c.tokens.map Prod.snd).head? })] else [])))) ∧
  (∀ (s : State) id c k, tfind s.cmds id = some c → c.status = 0 →
    (c.out = [] → s.startable c = false → runAct (.deposit id k) s = .next s) ∧
    (∀ d, c.out[k]? = some d → (∀ e ∈ c.out.take k, e.pa / 4 ≠ d.pa / 4) → d.tag = none → (∀ n op out st k, c.body ≠ .tree n op out st k) →
      runAct (.deposit id k) s = .next ((s.gWrite d.key d.pa d.data).modCmd id fun c => { c with out := c.out.eraseIdx k }))) ∧
  (∀ (s : State) id x y q after, (id, q) ∈ after → s.warp? { wg := x, wix := id } = some y → (∃ a ∈ y.accs, a.id = q) → ∀ c : Cmd, c.wg = x → c.after = after →
    s.startable c = false) ∧
  (∀ s clu, (s.cluster clu).asks = [] → exec (.leaveGrant clu) s = .next s) ∧
  (∀ s clu id charge chain rest, (s.cluster clu).asks = (id, charge, chain) :: rest → let k := s.cluster clu
    let fits := (k.grants.map (·.2.1)).sum + charge ≤ s.budget clu ∧ k.flux + Config.fluxOf clu charge ≤ 200 ∧
      (chain = false → ∀ c m0 n h r0 rn c0 cn wc d st, tfind s.cmds id = some c → c.body = .grun m0 n h r0 rn c0 cn wc d st → s.grantedMats c.core + n ≤ 64)
    let s1 := s.modClu clu fun k => { k with asks := rest, grants := k.grants ++ [(id, charge, chain)] }
    (¬fits → exec (.leaveGrant clu) s = .next s) ∧
    (fits → chain = false → exec (.leaveGrant clu) s = .next (s1.modCmd id fun c => { c with granted := true })) ∧
    (fits → chain = true → ∃ t, exec (.leaveGrant clu) s = .next t ∧ t = { s1 with cores := t.cores } ∧
      ∀ q, t.core q = { s.core q with chains := (s.core q).chains.map fun y => if y.id = id then { y with granted := true } else y })) ∧
  (∀ (s : State) id c u src dst n, tfind s.cmds id = some c → (tfind s.wgs (s.home c.wg)).isSome → twf (0 : Byte) (s.asp c.wg).a = true →
    let t := s.moveUnit id c u .a .a src dst n []
    (t.asp c.wg).aBytes dst n = (s.asp c.wg).aBytes src n ∧ (∀ p m, p + m ≤ dst ∨ dst + n ≤ p → (t.asp c.wg).aBytes p m = (s.asp c.wg).aBytes p m) ∧
    ∃ k, tfind t.cmds id = some k ∧ k.units = u :: c.units ∧ k.prov = lowerTag c.prov ((s.asp c.wg).aTag src n))

/-! The matrix engine -/

namespace Sys2Proof.Machine
/-- R110: the fields of a format block; `tb` is the register that WTB names. -/
def blockFields (fb : Nat) (tb : Word) : Format :=
  { afmt := fb % 16, ablk := fb / 2 ^ 4 % 4, rows := fb / 2 ^ 8 % 2 ^ 8, asoff := fb / 2 ^ 16 % 2 ^ 20, wfmt := fb / 2 ^ 36 % 16
    tbase := signed 8 (tb.toNat % 256), bexp := signed 8 (fb / 2 ^ 48 % 2 ^ 8) }
/-- R109: the depth K of a format, and the length of its records. -/
def depthOf (f : Format) : Nat := if f.wfmt = 0 then 64 else 32
def recordOf (f : Format) : Nat :=
  let data := f.rows * depthOf f * (if f.afmt = 2 then 2 else 1)
  if f.ablk = 0 then data else max data (f.asoff + f.rows * (depthOf f / (if f.ablk = 1 then 16 else 32)))
/-- R111: the format block is refused. -/
def blockRefused (fb : Nat) (sAllot : Nat) (before : Option Int) : Prop :=
  let f := blockFields fb 0
  2 < f.afmt ∨ 2 < f.ablk ∨ 1 < f.wfmt ∨ (f.wfmt = 1 ∧ f.afmt = 2) ∨ fb / 2 ^ 6 % 4 ≠ 0 ∨ fb / 2 ^ 46 % 4 ≠ 0 ∨ fb / 2 ^ 56 ≠ 0 ∨ f.rows = 0 ∨ 64 < f.rows ∨
    (f.ablk ≠ 0 ∧ f.asoff < f.rows * depthOf f * (if f.afmt = 2 then 2 else 1)) ∨ sAllot ≤ fb / 2 ^ 40 % 64 ∨ ∃ b, before = some b ∧ b ≠ f.bexp
end Sys2Proof.Machine

/-- R110-R114, R118, R119: MBEGIN locks the rows of the window and asks for leave, MMA enters a step with the operands it reads at issue, MEND
closes the chain; the checks in their order. -/
def Obligations.Chains : Prop :=
  (∀ f (s : State) w x, ReadyUni 0xB0 f s w x → let core := (s.wg s.cur.wg).core
    Checked (.mbegin f) 0xB0 f s w
      [(decide ((s.wg s.cur.wg).baton.holder ≠ some s.cur.wix), .batonNotHeld, 0), ((s.openChain core s.cur).isSome, .chainState, 0),
       (decide (w.cwl ≤ w.cwb), .mmaRows, 0)]
      ((s.locksUsed core + 1 ≤ 32 → ((s.core core).chains.filter fun k => k.mend.isSome).length ≤ 8 →
        Ends (.mbegin f) f s
          ((({ s with fresh := s.fresh + 1 } : State).modCore core fun k => { k with chains := k.chains ++
              [{ id := s.fresh, wg := s.cur.wg, wix := s.cur.wix, lo := w.cwb, hi := w.cwl, bexp := none, steps := 0, left := 0, sums := []
                 clamped := [], nonfin := false, prov := none, cancel := false, mend := none, dead := false, granted := false }] }).modClu (cluOf core)
            fun k => { k with asks := k.asks ++ [(s.fresh, 2300, true)] }) w.begun (nextPc 0xB0 f w)) ∧
       (s.locksUsed core + 1 ≤ 32 → 8 < ((s.core core).chains.filter fun k => k.mend.isSome).length →
        Waits (.mbegin f) 0xB0 f s w (.room 3 0)))) ∧
  (∀ f s w x, ReadyUni 0xB2 f s w x → let core := (s.wg s.cur.wg).core
    Checked (.mend f) 0xB2 f s w
      [(decide ((s.wg s.cur.wg).baton.holder ≠ some s.cur.wix), .batonNotHeld, 0), ((s.openChain core s.cur).isNone, .chainState, 0)]
      (Room s w [] 1 → ∀ k, s.openChain core s.cur = some k → ∃ cs, Entered s cs (issued s w 6 (.mend k.id) true []) ∧
        Ends (.mend f) f s (({ s with fresh := s.fresh + 1, cmds := cs } : State).modCore core fun y =>
            { y with chains := y.chains.map fun z => if z.id = k.id then { z with mend := some s.fresh } else z })
          { w.begun with h := tput w.h (hIndex f.d) s.fresh } (nextPc 0xB2 f w))) ∧
  (∀ f s w x, ReadyUni 0xB1 f s w x → let c := ctxOf 0xB1 f s w; let g := s.wg s.cur.wg
    let a := c.valA w.begun x % 2 ^ 32; let b := c.valB w.begun x % 2 ^ 32; let p := c.valC w.begun x % 2 ^ 32
    let stream : Bool := f.m = 1
    let col := b % 2 ^ 12; let row := b / 2 ^ 12 % 2 ^ 12; let g0 := 3 * row + col / 1280
    let fa := p % 2 ^ 20
    let fb := (s.asp s.cur.wg).aRead fa 32
    let wtb : RegKey := .s (fb / 2 ^ 40 % 64)
    let fmt := blockFields fb (w.begun.readAt wtb c.start).1
    let own := g.baton.holder = some s.cur.wix
    (¬own → Traps (.mma f) 0xB1 f s w { cause := .batonNotHeld }) ∧
    (own → w.releasedA = false → Waits (.mma f) 0xB1 f s w .drain) ∧
    (own → w.releasedA = true → s.openChain g.core s.cur = none → Traps (.mma f) 0xB1 f s w { cause := .chainState }) ∧
    (∀ k, own → w.releasedA = true → s.openChain g.core s.cur = some k → ∀ refused : Bool, (refused = true ↔ blockRefused fb w.sAllot k.bexp) →
      Checked (.mma f) 0xB1 f s w
        [(decide (65536 ≤ k.steps), .chainState, 0),
         (decide ((if stream = true then 16 ≤ a else 2 ^ 20 ≤ a ∨ a % 32 ≠ 0) ∨ fa % 32 ≠ 0 ∨ p / 2 ^ 22 % 4 ≠ 0 ∨ col ∉ [0, 0x500, 0xA00]), .matrixOperand, 0),
         (decide (0xEFF < row ∨ 11519 < g0 + 7), .matrixOperand, 0), (decide (159 < b / 2 ^ 24), .wRange, b),
         (decide (g.aSize < fa + 32), .aRange, fa), (!stream && decide (g.aSize < a + recordOf fmt), .aRange, a),
         (decide (w.cwl < w.cwb + p / 2 ^ 24 % 2 ^ 8 + fmt.rows), .mmaRows, 0),
         (stream && (g.subs.find? fun y => y.stream = a).isNone, .streamUnsubscribed, 0), (refused, .formatBlock, 0)]
        ((w.begun.isPending [wtb] = true → Waits (.mma f) 0xB1 f s w (.pending [wtb])) ∧
         (w.begun.isPending [wtb] = false →
          let ranges : List Range := if stream || recordOf fmt = 0 then [] else [(.a, a, a + recordOf fmt, false)]
          ((w.begun.readAt wtb c.start).2 = true → c.sb = true → Traps (.mma f) 0xB1 f s w { cause := .stallShort }) ∧
          (((w.begun.readAt wtb c.start).2 && c.sb) = false →
            Room s w ranges 1 → ∃ cs,
              Entered s cs (issued s w 6 (.mma k.id (b / 2 ^ 24) g0 (p / 2 ^ 20 % 4) (w.cwb + p / 2 ^ 24 % 2 ^ 8) fmt
                (if stream = true then none else some a) (if stream = true then some a else none)) true ranges) ∧
              Ends (.mma f) f s (({ s with fresh := s.fresh + 1, cmds := cs } : State).modCore g.core fun y => { y with chains := y.chains.map fun z =>
                  if z.id = k.id then { z with bexp := some fmt.bexp, steps := z.steps + 1, left := z.left + 1 } else z })
                { w.begun with h := tput w.h (hIndex f.d) s.fresh } (nextPc 0xB1 f w))))))

namespace Sys2Proof.Machine
/-- The exponent of a product of R115, floor(log2|x|). -/
def topOf (x : Bool × Nat × Int) : Int := (x.2.1.log2 : Int) + x.2.2
/-- The slot is clean: no bit of it differs from what was written, and it carries no poison. -/
def slotClean (k : Core) (i : Nat) : Prop := tgetD 0 k.flips i = 0 ∧ tfind k.slotTag i = none
end Sys2Proof.Machine

/-- R103, R109, R114-R118, R120, R178: a step whose tile and record carry no poison adds the group sums of its products to the sums of its chain,
and retires after the earlier chains; the exactness of a group sum; what a commit leaves in C, STATUS and the handle. -/
def Obligations.ChainSteps : Prop :=
  (∀ (s : State) id c ch mat g0 q row0 fmt src st, tfind s.cmds id = some c → c.status = 0 → c.body = .mma ch mat g0 q row0 fmt src st →
    let core := s.core c.core
    let stat := if c.cancel then 2 else if c.prov ≠ none then 3 else if c.overrun then 7 else 1
    ((c.landed ≠ none ∨ c.cancel = true) → (c.landed ≠ none → s.chainFirst c.core ch = true) → (st = none ∨ c.units = []) →
      Completes (.mmaStepRetire id) s
        (s.modCore c.core fun y => { y with chains := y.chains.map fun z => if z.id = ch then { z with left := z.left - 1 } else z }) id
        (statusOf stat 0 (if stat = 3 then c.prov.getD 0 else 0) c.kind fmt.rows)) ∧
    (∀ n slot x rest, c.landed ≠ none → s.chainFirst c.core ch = true → st = some n → c.units = slot :: rest →
      ((s.wg c.wg).subs.find? fun y => y.stream = n) = some x → ∃ s1,
      Completes (.mmaStepRetire id) s s1 id (statusOf stat 0 (if stat = 3 then c.prov.getD 0 else 0) c.kind fmt.rows) ∧
      (∀ y ∈ (s1.wg c.wg).subs, y.stream = n → slot ∉ y.inUse) ∧
      ((tfind s.wgs (s.home c.wg)).isSome → tsorted (s.asp c.wg).tags = true → (s1.asp c.wg).full (x.base + 32 * x.slotSz * slot) = false)) ∧
    (∀ addr slot, c.landed = none → c.cancel = false → s.startable c = true → (∃ k ∈ core.chains, k.id = ch ∧ k.granted = true) →
      s.slotHeld id c.core mat g0 (g0 + 8) false = false → s.stepRecord id c = some (addr, slot) →
      (∀ a, src = some a → s.rangeHeld id id c (byteRange .a a fmt.record false) = false) → s.runOn c.core mat = false →
      (∀ j < 8, slotClean core (mat * 11520 + g0 + j)) → (s.asp c.wg).aPoison = [] →
      let tile : List (BitVec 1280) := (List.range 8).map fun j => tgetD 0 core.band (mat * 11520 + g0 + j)
      let ws := tileWeights fmt tile
      let as := recordActs fmt ((s.asp c.wg).aBytes addr fmt.record)
      let odd := (ws ++ as).any fun l => l.any fun v => !v.finite
      ∃ t k, exec (.mmaStepRetire id) s = .next t ∧ tfind t.cmds id = some k ∧ k.landed = some s.clock.clk ∧ k.locks = [] ∧ k.prov = none ∧
        k.status = 0 ∧ k.overrun = odd ∧ t = { s with wgs := t.wgs, cores := t.cores, cmds := t.cmds } ∧
        t.core c.core = { core with chains := (t.core c.core).chains } ∧ (∀ r, t.warp? r = s.warp? r) ∧ (∀ a n, (t.asp c.wg).aBytes a n = (s.asp c.wg).aBytes a n) ∧
        ∀ z ∈ (t.core c.core).chains, z.id = ch → ∃ y ∈ core.chains, y.id = ch ∧ z = { y with sums := z.sums, clamped := z.clamped, nonfin := y.nonfin || odd } ∧
          ∀ m n, m < fmt.rows → n < 32 →
            let parts := (List.range (fmt.depth / 32)).map fun i =>
              groupSum (products (((ws.getD n []).drop (32 * i)).take 32) (((as.getD m []).drop (32 * i)).take 32)) fmt.bexp
            let e := (row0 + m) * 128 + 32 * q + n
            tgetD 0 z.sums e = tgetD 0 y.sums e + (parts.map Prod.fst).sum ∧ (e ∈ z.clamped ↔ e ∈ y.clamped ∨ ∃ p ∈ parts, p.2 = true))) ∧
  (∀ (ps : List (Bool × Nat × Int)) (b : Int), (∀ x ∈ ps, 0 < x.2.1 ∧ b - 44 ≤ x.2.2 ∧ ∀ y ∈ ps, topOf y ≤ x.2.2 + 38) →
    groupSum ps b = clampInt (-2 ^ 63) (2 ^ 63 - 1) (ps.map fun x => (if x.1 = true then -1 else 1) * (x.2.1 : Int) * 2 ^ (x.2.2 - b + 44).toNat).sum) ∧
  (∀ (s : State) core k pre post mend c, (∀ y ∈ (s.core core).chains, s.abandoned y = false ∨ y.left ≠ 0) → (s.core core).chains = pre ++ k :: post →
    (∀ y ∈ pre, s.abandoned y = true) → s.abandoned k = false → k.mend = some mend → k.left = 0 → tfind s.cmds mend = some c →
    let r : WarpRef := { wg := k.wg, wix := k.wix }
    let cancelled : Bool := k.cancel || c.cancel
    let q (e : Nat) : DWord := tgetD 0 (s.core core).c e
    let total (e : Nat) : Int := (q e).toInt + tgetD 0 k.sums e
    let bad (e : Nat) : Bool := decide (e ∈ k.clamped ∨ total e > 2 ^ 63 - 1 ∨ total e < -2 ^ 63)
    let sat : Bool := k.sums.any fun e => bad e.1
    let keep := s.flag k.wg (·.trapsat)
    let prov := lowerTag k.prov ((k.sums.map fun e => (s.core core).tagC e.1).foldl lowerTag none)
    let done : Bool := !cancelled && prov.isNone
    let stat := if cancelled then 2 else if prov ≠ none then 3 else if sat then 6 else if k.nonfin then 7 else 1
    tsorted (s.core core).c = true → tsorted k.sums = true →
    ∃ t, exec (.chainCommit core) s = .next t ∧ t.mem = s.mem ∧ (∀ y ∈ (t.core core).chains, y.id ≠ k.id) ∧
      (∀ y ∈ (s.core core).chains, y.id ≠ k.id → y ∈ (t.core core).chains) ∧
      (∀ h, (∃ v ∈ (s.wg c.wg).warps, (h, mend) ∈ v.h) → c.entry = true → ∃ d, tfind t.cmds mend = some d ∧
        d.status = statusOf stat 0 (if stat = 3 then prov.getD 0 else 0) c.kind k.steps) ∧
      (∀ e, tgetD 0 (t.core core).c e =
        if done && (tfind k.sums e).isSome then
          (if bad e = false then BitVec.ofInt 64 (total e) else if keep = true then q e else if 0 ≤ total e then 0x7FFFFFFFFFFFFFFF else 0x8000000000000000)
        else q e) ∧
      (∀ v, s.warp? r = some v → ∃ v', t.warp? r = some v' ∧
        v'.status = (if done then v.status ||| (if sat && !keep then flagOVF else 0) ||| (if k.nonfin then flagINV else 0) else v.status) ∧
        v'.defers = if done ∧ sat ∧ keep ∧ v.retired = false then v.defers ++ [{ cause := .aq64Sat, cmd := mend, status := statusOf 6 0 0 6 k.steps, token := none }]
          else v.defers)) ∧
  (∀ (s : State) core k, ((s.core core).chains.find? fun y => s.abandoned y && decide (y.left = 0)) = some k → ∃ t, exec (.chainCommit core) s = .next t ∧
    t = { s with cores := t.cores, clus := t.clus } ∧ (t.core core).c = (s.core core).c ∧
    (t.core core).chains = (s.core core).chains.filter fun y => decide (y.id ≠ k.id))

namespace Sys2Proof.Machine
/-- A warp that waits for the baton and may receive it (R124). -/
def Workgroup.awaits (g : Workgroup) (i : Nat) (v : Warp) : Prop :=
  g.warps[i]? = some v ∧ v.wait = some .baton ∧ v.stopped = false ∧ (g.baton.reserved = none ∨ g.baton.reserved = some i)
/-- CREAD and CCLR (R122, R123). -/
def readOutRules : Prop :=
  (∀ f s w, Ready 0xB4 f s w → let c := ctxOf 0xB4 f s w; let b := w.begun; let core := (s.wg s.cur.wg).core
    let row (x : Nat × Nat) := c.valA b x % 2 ^ 32
    let col (x : Nat × Nat) := c.valB b x % 2 ^ 32
    let v (x : Nat × Nat) := roundVal ([fmtF32, fmtF16].getD f.m.toNat fmtBF16) (c.valC b x / 2 ^ 8 % 4)
      (ofDyadic (tgetD 0 (s.core core).c (row x * 128 + col x)).toInt (signed 8 (c.valC b x % 2 ^ 8) - 44) false)
    (∀ x ∈ c.lanes, b.cwb ≤ row x ∧ row x < b.cwl ∧ col x ≤ 127 ∧ s.lockedC core (row x) = false ∧
      (s.core core).tagC (row x * 128 + col x) = none ∧ (∀ y ∈ b.tr, y.1 ≠ 2 ^ 67 + (row x * 128 + col x)) ∧
      b.held (plainAccess x.1 .c 0 (4 * (row x * 128 + col x)) 4 .read) = false) →
    let w1 : Warp := c.lanes.foldl (fun (u : Warp) x => u.deliver s.fresh (c.dest b x.1) (v x).1)
      { b with pends := b.pends ++ [awaited s.fresh (c.lanes.flatMap fun x => c.dest b x.1) c.lanes.length false] }
    Ends (.cread f) f s { s with fresh := s.fresh + 1 }
      { w1 with pends := w1.pends.map fun p => if p.id = s.fresh then { p with flags := c.lanes.foldl (fun fl x => fl ||| (v x).2) 0 } else p }
      (nextPc 0xB4 f w)) ∧
  (∀ f s w x, Ready 0xB4 f s w → let c := ctxOf 0xB4 f s w; let b := w.begun
    let row := c.valA b x % 2 ^ 32; let col := c.valB b x % 2 ^ 32
    let out : Bool := decide (row < b.cwb ∨ b.cwl ≤ row ∨ 127 < col)
    c.lanes = [x] → (out = true ∨ s.lockedC (s.wg s.cur.wg).core row = true) →
    Traps (.cread f) 0xB4 f s w (c.report [{ lane := x.1, cause := if out then .cWindow else .rangeLocked, info0 := BitVec.ofNat 32 (row * 256 + col)
                                             info1 := BitVec.ofNat 32 ((row * 256 + col) / 2 ^ 32) }])) ∧
  (∀ f s w x, ReadyUni 0xB5 f s w x → let c := ctxOf 0xB5 f s w; let core := (s.wg s.cur.wg).core
    let row := c.valA w.begun x % 2 ^ 32; let n := c.valB w.begun x % 2 ^ 32
    (n = 0 → Ends (.cclr f) f s s w.begun (nextPc 0xB5 f w)) ∧
    (n ≠ 0 → Checked (.cclr f) 0xB5 f s w
      [(decide (row < w.cwb ∨ w.cwl < row + n), .cWindow, row * 256), ((List.range n).any fun i => s.lockedC core (row + i), .rangeLocked, row * 256)]
      (Waits (.cclr f) 0xB5 f s w (.cclr row n false)))) ∧
  (∀ f s w x row n, Resumed 0xB5 f s w → (ctxOf 0xB5 f s w).lanes = [x] → w.wait = some (.cclr row n true) →
    Ends (.cclr f) f s s w.begun (nextPc 0xB5 f w)) ∧
  (∀ (s : State) r w row n, s.warp? r = some w → w.wait = some (.cclr row n false) → let core := (s.wg r.wg).core
    tsorted (s.core core).c = true → ∃ t, exec (.cclrComplete r) s = .next t ∧ t = { s with wgs := t.wgs, cores := t.cores } ∧
      t.warp? r = some { w with wait := some (.cclr row n true) } ∧ (∀ q, q ≠ r → t.warp? q = s.warp? q) ∧
      ∀ e, tgetD 0 (t.core core).c e = if row * 128 ≤ e ∧ e < (row + n) * 128 then 0 else tgetD 0 (s.core core).c e)
/-- MWIN and the baton (R121, R124). -/
def windowBatonRules : Prop :=
  (∀ f s w x, ReadyUni 0xB3 f s w x → let c := ctxOf 0xB3 f s w; let g := s.wg s.cur.wg
    let t := c.valA w.begun x % 2 ^ 32; let b := c.valB w.begun x % 2 ^ 32; let l := c.valC w.begun x % 2 ^ 32
    let legal := s.cur.wix = 0 ∧ (∃ v, g.warps[t]? = some v ∧ v.retired = false) ∧ b ≤ l ∧ l ≤ g.crows ∧
      (∀ i v, g.warps[i]? = some v → i ≠ t → ∀ row, g.cbase + b ≤ row → row < g.cbase + l → row < v.cwb ∨ v.cwl ≤ row) ∧
      (∀ k ∈ (s.core g.core).chains, k.wg = s.cur.wg → k.wix = t → s.abandoned k = true)
    (¬legal → Traps (.mwin f) 0xB3 f s w { cause := .windowIllegal }) ∧
    (legal → Ends (.mwin f) f s (s.modWarp { s.cur with wix := t } fun k => { k with cwb := g.cbase + b, cwl := g.cbase + l })
      (if t = s.cur.wix then { w.begun with cwb := g.cbase + b, cwl := g.cbase + l } else w.begun) (nextPc 0xB3 f w))) ∧
  (∀ f s w x, ReadyUni 0xB6 f s w x → let g := s.wg s.cur.wg; let cycle := (s.core g.core).sched.cycle
    (g.baton.holder = some s.cur.wix → Ends (.batonTake f) f s s w.begun (nextPc 0xB6 f w)) ∧
    (∀ k, g.baton.holder = some k → k ≠ s.cur.wix → exec (.batonTake f) s = .next ((s.started w).modWarp s.cur fun v =>
      { v with wait := some .baton, waitAt := s.time, batonSeq := cycle, slotLanes := [x] })) ∧
    (g.baton.holder = none → (g.baton.reserved = none ∨ g.baton.reserved = some s.cur.wix) → w.stopped = false → (∀ i v, ¬g.awaits i v) →
      Ends (.batonTake f) f s (s.modWg s.cur.wg fun k => { k with baton := { holder := some s.cur.wix, reserved := none } })
        { w.begun with waitAt := s.time, batonSeq := cycle, slotLanes := [x] } (nextPc 0xB6 f w))) ∧
  (∀ f s w x, Resumed 0xB6 f s w → (ctxOf 0xB6 f s w).lanes = [x] → w.wait = some .baton → (s.wg s.cur.wg).baton.holder = some s.cur.wix →
    Ends (.batonTake f) f s s w.begun (nextPc 0xB6 f w)) ∧
  (∀ f s w x, ReadyUni 0xB6 f s w x → let g := s.wg s.cur.wg
    let t := (BitVec.ofNat 32 ((ctxOf 0xB6 f s w).valA w.begun x)).toInt
    let there := t = -1 ∨ 0 ≤ t ∧ ∃ v, g.warps[t.toNat]? = some v ∧ v.retired = false
    ((g.baton.holder ≠ some s.cur.wix ∨ ¬there) → Traps (.batonPass f) 0xB6 f s w { cause := .batonNotHeld }) ∧
    (g.baton.holder = some s.cur.wix → there →
      ((s.openChain g.core s.cur).isSome → Traps (.batonPass f) 0xB6 f s w { cause := .chainState }) ∧
      (s.openChain g.core s.cur = none → Ends (.batonPass f) f s
        (s.modWg s.cur.wg fun k => { k with baton := { holder := none, reserved := if t = -1 then none else some t.toNat } }.grantBaton)
        w.begun (nextPc 0xB6 f w)))) ∧
  (∀ g : Workgroup, g.baton.holder = none → ((∀ i v, ¬g.awaits i v) → g.grantBaton = g) ∧
    (∀ i v, g.awaits i v → (∀ j u, g.awaits j u → v.batonSeq < u.batonSeq ∨ v.batonSeq = u.batonSeq ∧ i ≤ j) →
      g.grantBaton = { g with baton := { holder := some i, reserved := none } }))
end Sys2Proof.Machine

/-- R121-R124: MWIN sets the window of a warp, CREAD converts elements out, CCLR waits until its rows are cleared, and the baton goes to
the waiting warp whose TAKE issued first. -/
def Obligations.Windows : Prop := readOutRules ∧ windowBatonRules

namespace Sys2Proof.Machine
/-- The attic cell at a logical line and a place along it (R133, R147). -/
def atticCell (k : Core) (mat axis l x : Nat) : ACell :=
  k.cell (((mat * 2 + axis) * 256 + tgetD l (tgetD Attic.delivered k.gates (mat * 2 + axis)).map l) * 4096 + x)
/-- The cell at a row and column of a mat as it was last written (R102, R133). -/
def cellOf (k : Core) (mat row col : Nat) : Bool :=
  if row < 0xF00 ∧ col < 0xF00 then (tgetD 0 k.band (mat * 11520 + 3 * row + col / 1280)).getLsbD (col % 1280)
  else if row < 0xF00 then (atticCell k mat 0 (col - 0xF00) row).bit
  else (atticCell k mat 1 (row - 0xF00) col).bit
/-- The cell stands in a clean slot, or in an attic line without poison and within its retention (R104, R153). -/
def cellSound (k : Core) (clk mat row col : Nat) : Prop :=
  let at_ (axis : Nat) := tgetD Attic.delivered k.gates (mat * 2 + axis)
  let holds (x : ACell) : Prop := x.lost = false ∧ (clk : Int) < x.time + 3000000000
  if row < 0xF00 ∧ col < 0xF00 then slotClean k (mat * 11520 + 3 * row + col / 1280)
  else if row < 0xF00 then tfind (at_ 0).poison (col - 0xF00) = none ∧ holds (atticCell k mat 0 (col - 0xF00) row)
  else tfind (at_ 1).poison (row - 0xF00) = none ∧ holds (atticCell k mat 1 (row - 0xF00) col)
/-- A W address of 32 cells that LDW may read: aligned, in a mat, no hole, no lock (R196). -/
def wReadable (s : State) (core : Nat) (w : Warp) (a : Nat) : Prop :=
  let row := a / 2 ^ 12 % 2 ^ 12; let col := a % 2 ^ 12; let i := a / 2 ^ 24 * 11520 + 3 * row + col / 1280
  col % 32 = 0 ∧ a / 2 ^ 24 ≤ 159 ∧ row < 0xFC0 ∧ col < 0xFC0 ∧ (row < 0xF00 ∨ col < 0xF00) ∧
  (row < 0xF00 → col < 0xF00 → ∀ k ∈ s.cmds, k.2.core = core → lockHits .w i (i + 1) false k.2.locks = false) ∧
  (∀ y ∈ w.tr, y.1 ≠ 2 ^ 66 + a / 32)
/-- The checks on the slots that WSTORE and WSCRUB name (R105). -/
def slotRefused (a n : Nat) : List (Bool × Cause × Nat) :=
  let row := a / 2 ^ 12 % 2 ^ 12; let col := a % 2 ^ 12
  [(decide (159 < a / 2 ^ 24), .wRange, a), (decide (col ∉ [0, 0x500, 0xA00] ∨ 0xEFF < row ∨ 11520 < 3 * row + col / 1280 + n), .wSlotRange, 0)]
/-- WSTORE, WSCRUB and LDW at issue (R105, R151, R170, R196). -/
def slotIssueRules : Prop :=
  (∀ f s w x, ReadyUni 0xB7 f s w x → let c := ctxOf 0xB7 f s w
    let src := c.valA w.begun x; let a := c.valB w.begun x % 2 ^ 32; let n := c.valC w.begun x % 2 ^ 32
    let mat := a / 2 ^ 24; let g0 := 3 * (a / 2 ^ 12 % 2 ^ 12) + a % 2 ^ 12 / 1280
    Checked (.wstore f) 0xB7 f s w (slotRefused a n ++ [gRange .g src (136 * n)])
      (Issues (.wstore f) 0xB7 f s w (hIndex f.d) 5 (.wstore (BitVec.ofNat 64 src) mat g0 n)
        (if n = 0 then [] else [(.g, src, src + 136 * n, false), (.w, mat * 11520 + g0, mat * 11520 + g0 + n, true)]))) ∧
  (∀ i fix f s w x, ((i, fix) = (Instr.wscrubCheck f, false) ∨ (i, fix) = (Instr.wscrubFix f, true)) → ReadyUni 0xB8 f s w x →
    let c := ctxOf 0xB8 f s w
    let a := c.valA w.begun x % 2 ^ 32; let n := c.valB w.begun x % 2 ^ 32; let rep := c.valC w.begun x % 2 ^ 32
    let mat := a / 2 ^ 24; let g0 := 3 * (a / 2 ^ 12 % 2 ^ 12) + a % 2 ^ 12 / 1280
    Checked i 0xB8 f s w (slotRefused a n ++ [aRange (s.wg s.cur.wg).aSize .a rep 32, aAligned .a 32 rep])
      (Issues i 0xB8 f s w (hIndex f.d) 5 (.wscrub fix mat g0 n rep 0 0 0 0 0xFFFFFFFF 0)
        (if n = 0 then [] else [(.w, mat * 11520 + g0, mat * 11520 + g0 + n, fix), (.a, rep, rep + 32, true)]))) ∧
  (∀ f s w, Ready 0x85 f s w → let c := ctxOf 0x85 f s w; let b := w.begun; let core := (s.wg s.cur.wg).core
    let a := c.formed b 32 true
    let b1 := { b with pends := b.pends ++ [awaited s.fresh (c.lanes.flatMap fun x => c.dest b x.1) c.lanes.length false] }
    let cells (x : Nat × Nat) := (List.range 32).map fun j => cellOf (s.core core) (a x / 2 ^ 24) (a x / 2 ^ 12 % 2 ^ 12) (a x % 2 ^ 12 + j)
    let acc (x : Nat × Nat) := plainAccess x.1 .w (a x) (a x / 8) 4 .read
    (∀ x ∈ c.lanes, wReadable s core b (a x) ∧ b.held (acc x) = false) →
    ((∀ x ∈ c.lanes, s.runOn core (a x / 2 ^ 24) = false ∧
        ∀ j < 32, cellSound (s.core core) s.clock.clk (a x / 2 ^ 24) (a x / 2 ^ 12 % 2 ^ 12) (a x % 2 ^ 12 + j)) →
      Ends (.ldw f) f s { s with fresh := s.fresh + 2 }
      (c.lanes.foldl (fun v x => v.deliver s.fresh (c.dest b x.1) (ofBits (cells x))) b1) (nextPc 0x85 f w)) ∧
    ((∀ x ∈ c.lanes, s.runOn core (a x / 2 ^ 24) = true) → Ends (.ldw f) f s
      (({ s with fresh := s.fresh + 2 + c.lanes.length } : State).modCore core fun k => { k with reads := k.reads ++ c.lanes.map fun x =>
        { mat := a x / 2 ^ 24, w := some (s.cur, s.fresh), cmd := 0, lane := x.1, addr := a x, dest := c.dest b x.1 } })
      { b1 with accs := b.accs ++ numbered (s.fresh + 1) w (c.lanes.map fun x => { acc x with dest := c.dest b x.1, pend := s.fresh }) }
      (nextPc 0x85 f w))) ∧
  (∀ f s w x, Ready 0x85 f s w → let c := ctxOf 0x85 f s w
    let a := c.formed w.begun 32 true x; let row := a / 2 ^ 12 % 2 ^ 12; let col := a % 2 ^ 12
    let trap (k : Cause) := Traps (.ldw f) 0x85 f s w (c.report [{ lane := x.1, cause := k, info0 := BitVec.ofNat 32 a, info1 := 0 }])
    c.lanes = [x] → (col % 32 ≠ 0 → trap .localAlign) ∧ (col % 32 = 0 → 159 < a / 2 ^ 24 → trap .wRange) ∧
      (col % 32 = 0 → a / 2 ^ 24 ≤ 159 → (0xFC0 ≤ row ∨ 0xFC0 ≤ col ∨ 0xF00 ≤ row ∧ 0xF00 ≤ col) → trap .atticIndex) ∧
      (let i := a / 2 ^ 24 * 11520 + 3 * row + col / 1280
       col % 32 = 0 → a / 2 ^ 24 ≤ 159 → row < 0xF00 → col < 0xF00 →
        (∃ k ∈ s.cmds, k.2.core = (s.wg s.cur.wg).core ∧ lockHits .w i (i + 1) false k.2.locks = true) → trap .rangeLocked))
/-- The writing and the checking of slots (R104, R106-R108, R220). -/
def slotStepRules : Prop :=
  (∀ (s : State) id c src mat g0 n fails, tfind s.cmds id = some c → c.status = 0 → c.body = .wstore src mat g0 n →
    (n = 0 → c.since < s.clock.clk → Completes (.wstoreSlotWrite id fails) s s id (statusOf (if c.cancel then 2 else 1) 0 0 c.kind 0)) ∧
    (n ≠ 0 → c.cancel = true → Completes (.wstoreSlotWrite id fails) s s id (statusOf 2 0 0 c.kind c.units.length)) ∧
    (let i := c.units.length; let e := mat * 11520 + (g0 + i)
     n ≠ 0 → c.cancel = false → c.walk = none → s.startable c = true → s.slotHeld id c.core mat (g0 + i) (g0 + i + 1) true = false →
      s.earlierOnMats c.core id [mat] = false →
      s.rangeHeld id id c [(.g, src.toNat + 136 * i, src.toNat + 136 * (i + 1), false), (.w, e, e + 1, true)] = false →
     (s.cmdRead id c .g (src.toNat + 136 * i) 136 = .fail s → Completes (.wstoreSlotWrite id fails) s s id
      (match c.prov with | some t => statusOf 3 0 t c.kind i | none => statusOf 4 0x57 0 c.kind i)) ∧
     ∀ bs tag, s.cmdRead id c .g (src.toNat + 136 * i) 136 = .got bs tag s →
      let v := BitVec.ofNat 1088 (ofBytes bs)
      let tag' := if 2 ≤ fails then lowerTag tag (some (s.newTag (s.partOfClu (cluOf c.core)) 6)) else tag
      tsorted (s.core c.core).band = true → tsorted (s.core c.core).flips = true → tsorted (s.core c.core).slotTag = true → ∃ s1,
        (fails < 2 → s1 = { s with cores := s1.cores, cmds := s1.cmds } ∧ tgetD 0 (s1.core c.core).band e = Config.ecc v ++ v ∧
          tgetD 0 (s1.core c.core).flips e = 0) ∧
        tfind (s1.core c.core).slotTag e = tag'.map (· + 1) ∧
        (∀ j, j ≠ e → tgetD 0 (s1.core c.core).band j = tgetD 0 (s.core c.core).band j ∧ tgetD 0 (s1.core c.core).flips j = tgetD 0 (s.core c.core).flips j ∧
          tfind (s1.core c.core).slotTag j = tfind (s.core c.core).slotTag j) ∧
        tfind s1.cmds id = some { c with units := i :: c.units, prov := lowerTag c.prov tag' } ∧
        (i + 1 < n → exec (.wstoreSlotWrite id fails) s = .next s1) ∧
        (n ≤ i + 1 → Completes (.wstoreSlotWrite id fails) s s1 id
          (statusOf (if lowerTag c.prov tag' = none then 1 else 3) 0 ((lowerTag c.prov tag').getD 0) c.kind n)))) ∧
  (∀ (s : State) id c fix mat g0 n rep nread ncorr nrewr nunc first most, tfind s.cmds id = some c → c.status = 0 →
    c.body = .wscrub fix mat g0 n rep nread ncorr nrewr nunc first most →
    (n = 0 → c.since < s.clock.clk → Completes (.wscrubSlotRead id) s s id (statusOf (if c.cancel then 2 else 1) 0 0 c.kind 0)) ∧
    (n ≠ 0 → c.cancel = true → Completes (.wscrubSlotRead id) s s id (statusOf 2 0 0 c.kind nread)) ∧
    (let e := mat * 11520 + (g0 + nread); let k := s.core c.core
     let wrong := bitCount (tgetD 0 k.flips e)
     let unc := tfind k.slotTag e ≠ none ∨ 4 < wrong
     ∀ u : Bool, (u = true ↔ unc) → c.cancel = false → s.startable c = true → nread < n → s.slotHeld id c.core mat (g0 + nread) (g0 + nread + 1) fix = false →
      s.earlierOnMats c.core id [mat] = false → s.rangeHeld id id c [(.w, e, e + 1, fix)] = false →
      let b := if u then 0 else wrong
      ∃ t d, exec (.wscrubSlotRead id) s = .next t ∧ tfind t.cmds id = some d ∧ d.status = 0 ∧
        d.body = .wscrub fix mat g0 n rep (nread + 1) (ncorr + if 0 < b then 1 else 0) (nrewr + if fix = true ∧ 0 < b then 1 else 0)
          (nunc + if u then 1 else 0) (if u = true ∧ nunc = 0 then mat * 2 ^ 24 + (g0 + nread) / 3 * 2 ^ 12 + (g0 + nread) % 3 * 1280 else first) (max most b) ∧
        ((fix = false ∨ b = 0) → ∀ j, tgetD 0 (t.core c.core).band j = tgetD 0 k.band j) ∧
        (fix = true → 0 < b → tsorted k.flips = true → tgetD 0 (t.core c.core).flips e = 0) ∧
        (u = true → tfind (t.core c.core).slotTag e ≠ none ∧ d.prov ≠ none)) ∧
    (n ≠ 0 → n ≤ nread → c.cancel = false → s.startable c = true → s.rangeHeld id id c [(.a, rep, rep + 32, true)] = false →
      Completes (.wscrubSlotRead id) s
        (s.modA c.wg fun g => g.aPut rep (toBytes 4 nread ++ toBytes 4 ncorr ++ toBytes 4 nrewr ++ toBytes 4 nunc ++ toBytes 4 first ++ toBytes 12 most)) id
        (statusOf (if c.prov = none then 1 else 3) 0 (c.prov.getD 0) c.kind nread)))
end Sys2Proof.Machine

/-- R102, R104-R108, R151, R196: WSTORE writes slots from its records, WSCRUB checks them and reports, LDW reads 32 cells of a mat. -/
def Obligations.Slots : Prop := slotIssueRules ∧ slotStepRules

/-! The gate arrays -/

namespace Sys2Proof.Machine
/-- The checks on the mats of a gate command (R142): inside the core, and inside the workgroup's set. -/
def matsRefused (g : Workgroup) (m0 k : Nat) : List (Bool × Cause × Nat) :=
  [(decide (160 < m0 + k), .wRange, 0), (decide (k = 0 ∨ 8 < k ∨ m0 < g.gmat0 ∨ g.gmat0 + g.gmatN < m0 + k), .gateMat, 0)]
/-- A gate command waits for a place in the sequencer's queue of 16, and is then issued (R143). -/
def GateIssues (i : Instr) (op : Nat) (f : Fields) (s : State) (w : Warp) (h : Nat) (body : CmdBody) (ranges : List Range) : Prop :=
  (s.gateFull (s.wg s.cur.wg).core = true → Waits i op f s w (.room 2 0)) ∧
  (s.gateFull (s.wg s.cur.wg).core = false → Issues i op f s w h 7 body ranges)
/-- Bytes of `n` packed bits (R159). -/
def packed (n : Nat) : Nat := 4 * ((n + 31) / 32)
/-- Bytes of the part of A space a packed segment takes; an empty one registers nothing. -/
def segRange (a n : Nat) (dest : Bool) : List Range := if packed n = 0 then [] else [(.a, a, a + packed n, dest)]
/-- GRUN and GSTOP (R136, R142, R143, R157, R420). -/
def runIssueRules : Prop :=
  (∀ f s w x, ReadyUni 0xC0 f s w x → let c := ctxOf 0xC0 f s w; let g := s.wg s.cur.wg
    let m0 := c.valA w.begun x % 2 ^ 32; let k := c.valB w.begun x % 2 ^ 32; let a := c.valC w.begun x % 2 ^ 32
    let h := (s.asp s.cur.wg).aRead a 8
    let row0 := h % 2 ^ 12; let rowN := h / 2 ^ 12 % 2 ^ 12; let col0 := h / 2 ^ 24 % 2 ^ 12; let colN := h / 2 ^ 36 % 2 ^ 12; let n := h / 2 ^ 48 % 2 ^ 16
    let ranges : List Range := [(.a, a, a + (8 + 8 * n), false)]
    (w.releasedA = false → Waits (.grun f) 0xC0 f s w .drain) ∧
    (w.releasedA = true → Checked (.grun f) 0xC0 f s w (matsRefused g m0 k ++
      [aAligned .a 8 a, aRange g.aSize .a a 8, aRange g.aSize .a a (8 + 8 * n),
       (decide (rowN = 0 ∨ 3840 < rowN ∨ colN = 0 ∨ 3840 < colN ∨ 0xF00 < row0 + rowN ∨ 0xF00 < col0 + colN ∨ n = 0), .gateHeader, 0)])
      ((∀ d, lowestDefer (w.defers.filter fun y => deferOp y.cause = 0xC0) = some d →
        TrapsIn ((s.started w).modWarp s.cur fun v => { v with defers := v.defers.erase d }) (.grun f) 0xC0 f s w (deferInfo d)) ∧
       ((∀ y ∈ w.defers, deferOp y.cause ≠ 0xC0) → s.gateFull g.core = true → Waits (.grun f) 0xC0 f s w (.room 2 0)) ∧
       ((∀ y ∈ w.defers, deferOp y.cause ≠ 0xC0) → s.gateFull g.core = false → Room s w ranges 1 → ∃ cs,
        Entered s cs (issued s w 7 (.grun m0 k a row0 rowN col0 colN n 0 0) true ranges) ∧
        Ends (.grun f) f s (({ s with fresh := s.fresh + 1, cmds := cs } : State).modClu (cluOf g.core) fun q =>
            { q with asks := q.asks ++ [(s.fresh, ((List.range k).map fun i => if (m0 + i) / 20 ≤ 4 then 40 else 50).sum, false)] })
          { w.begun with h := tput w.h (hIndex f.d) s.fresh } (nextPc 0xC0 f w))))) ∧
  (∀ f s w x, ReadyUni 0xC1 f s w x → let nm := namedCmd f s w ((ctxOf 0xC1 f s w).valA w.begun x)
    (nm = none → Ends (.gstop f) f s s w.begun (nextPc 0xC1 f w)) ∧
    (∀ id k, nm = some (id, k) → ((∀ m0 n h r0 rn c0 cn wc d st, k.body ≠ .grun m0 n h r0 rn c0 cn wc d st) →
      Traps (.gstop f) 0xC1 f s w { cause := .gateHandle })) ∧
    (∀ id k m0 n h r0 rn c0 cn wc d st, nm = some (id, k) → tfind s.cmds id = some k → k.body = .grun m0 n h r0 rn c0 cn wc d st →
      (k.status ≠ 0 → Ends (.gstop f) f s s w.begun (nextPc 0xC1 f w)) ∧
      (k.status = 0 → ∃ now, (now = 1 ∨ now = 2 ∧ k.granted = true) ∧
        Ends (.gstop f) f s (({ s with fresh := s.fresh + 1 } : State).modCmd id fun y =>
          { y with body := .grun m0 n h r0 rn c0 cn wc d (if st = 0 then now else st) }) w.begun (nextPc 0xC1 f w))))
/-- The other gate instructions (R156, R158-R162). -/
def lineIssueRules : Prop :=
  (∀ f s w x, ReadyUni 0xC2 f s w x → let c := ctxOf 0xC2 f s w; let g := s.wg s.cur.wg
    let m0 := c.valA w.begun x % 2 ^ 32; let k := c.valB w.begun x % 2 ^ 32
    Checked (.gration f) 0xC2 f s w (matsRefused g m0 k)
      ((s.gateFull g.core = true → Waits (.gration f) 0xC2 f s w (.room 2 0)) ∧
       (s.gateFull g.core = false → Room s w [] 0 → Ends (.gration f) f s
        { s with
          fresh := s.fresh + 1
          cmds := tput s.cmds s.fresh (issued s w 7 (.gration ([1, 2].getD f.m.toNat 3) m0 k (BitVec.ofNat 32 (c.valC w.begun x))) false []) }
        w.begun (nextPc 0xC2 f w)))) ∧
  (∀ f s w x, ReadyUni 0xC3 f s w x → let c := ctxOf 0xC3 f s w
    let a := c.valA w.begun x % 2 ^ 32; let dst := c.valB w.begun x % 2 ^ 32; let n := c.valC w.begun x % 2 ^ 32
    let row := a / 2 ^ 12 % 2 ^ 12; let col := a % 2 ^ 12
    let fix := if f.m = 0 then row else col; let lo := if f.m = 0 then col else row
    Checked (.gread f) 0xC3 f s w
      [(decide (159 < a / 2 ^ 24), .wRange, a), (decide (4096 < n ∨ 0 < n ∧ (if fix < 0xF00 then 0xFC0 else 0xF00) < lo + n), .gateLine, a),
       (decide (0xFC0 ≤ row ∨ 0xFC0 ≤ col ∨ 0xF00 ≤ row ∧ 0xF00 ≤ col), .atticIndex, a),
       aRange (s.wg s.cur.wg).aSize .a dst (packed n), aAligned .a 4 dst]
      (Room s w (segRange dst n true) 1 → ∃ cs, Entered s cs (issued s w 7 (.gread f.m.toNat (a / 2 ^ 24) row col dst n) true (segRange dst n true)) ∧
        let s1 : State := { s with fresh := s.fresh + 1, cmds := cs }
        Ends (.gread f) f s (if n = 0 then s1 else s1.modCore (s.wg s.cur.wg).core fun k => { k with
            reads := k.reads ++ [{ mat := a / 2 ^ 24, w := none, cmd := s.fresh, lane := 0, addr := 0, dest := [] }] })
          { w.begun with h := tput w.h (hIndex f.d) s.fresh } (nextPc 0xC3 f w))) ∧
  (∀ f s w x, ReadyUni 0xC4 f s w x → let c := ctxOf 0xC4 f s w; let g := s.wg s.cur.wg
    let a := c.valA w.begun x % 2 ^ 32; let src := c.valB w.begun x % 2 ^ 32; let n := c.valC w.begun x % 2 ^ 32
    let row := a / 2 ^ 12 % 2 ^ 12; let col := a % 2 ^ 12
    let line := if f.m = 0 then row else col; let lo := if f.m = 0 then col else row
    Checked (.gwrite f) 0xC4 f s w (matsRefused g (a / 2 ^ 24) 1 ++
      [(decide (line < 0xF00 ∨ 0xFBF < line ∨ 3840 < n ∨ 0 < n ∧ 0xF00 < lo + n), .gateLine, a), aRange g.aSize .a src (packed n), aAligned .a 4 src])
      (GateIssues (.gwrite f) 0xC4 f s w (hIndex f.d) (.gwrite (if f.m = 0 then 1 else 0) (a / 2 ^ 24) (line - 0xF00) lo src n) (segRange src n false))) ∧
  (∀ i op wear f s w x, ((i, op, wear) = (Instr.gmap f, 0xC5, false) ∨ (i, op, wear) = (Instr.gwear f, 0xC6, true)) → ReadyUni op f s w x →
    let c := ctxOf op f s w
    let mat := c.valA w.begun x % 2 ^ 32; let dst := c.valB w.begun x % 2 ^ 32; let n := if wear then 4096 else 288
    Checked i op f s w [(decide (159 < mat), .wRange, 0), aAligned .a 32 dst, aRange (s.wg s.cur.wg).aSize .a dst n]
      (GateIssues i op f s w (hIndex f.d) (.gsnap wear f.m.toNat mat dst) [(.a, dst, dst + n, true)]))
end Sys2Proof.Machine

/-- R134, R136, R142, R143, R145, R146, R151, R156-R162: the gate instructions check their operands in order, wait for a place in the sequencer and for room, and
are issued; GSTOP stops a run before its next step, or after the step under way. -/
def Obligations.Gates : Prop := runIssueRules ∧ lineIssueRules

namespace Sys2Proof.Machine
/-- A logical cell of a mat as it stands: no correction in the weight band (R135), the attic through its map (R133). -/
def cellNow (k : Core) (mat row col : Nat) : Bool :=
  cellOf k mat row col ^^ (decide (row < 0xF00 ∧ col < 0xF00) && (tgetD 0 k.flips (mat * 11520 + 3 * row + col / 1280)).getLsbD (col % 1280))
/-- The map leads from distinct logical lines to distinct physical lines, none of them free (R147). -/
def atticSound (a : Attic) : Prop :=
  (∀ l < 192, a.line l < 256 ∧ (∀ m < 192, a.line l = a.line m → l = m) ∧ a.line l ∉ a.free) ∧ a.free.Nodup ∧ ∀ q ∈ a.free, q < 256
/-- Every attic cell of a core is within its retention of 1 s (R153). -/
def AtticKept (s : State) (core : Nat) : Prop :=
  tsorted (s.core core).attic = true ∧ (s.clock.clk : Int) < (s.core core).wiped + 3000000000 ∧
  ∀ e ∈ (s.core core).attic, e.2.lost = false ∧ (s.clock.clk : Int) < e.2.time + 3000000000
/-- Nothing disturbs gate work on these mats: sound maps, no poison, no cell past its retention, no read that waits. -/
structure GateCalm (s : State) (core : Nat) (mats : List Nat) : Prop where
  maps   : ∀ m ∈ mats, ∀ axis < 2, atticSound (s.attic core m axis) ∧ (s.attic core m axis).poison = []
  cells  : AtticKept s core
  reads  : ∀ r ∈ (s.core core).reads, r.mat ∉ mats
/-- Cell (row, col) lies in positions x0 … x0 + n - 1 of a logical attic line; axis 0 is the column attic. -/
def onLine (axis line x0 n row col : Nat) : Bool :=
  if axis = 0 then decide (col = 0xF00 + line ∧ x0 ≤ row ∧ row < x0 + n) else decide (row = 0xF00 + line ∧ x0 ≤ col ∧ col < x0 + n)
/-- A mapped cell (R133). -/
def mapped (row col : Nat) : Prop := row < 0xFC0 ∧ col < 0xFC0 ∧ (row < 0xF00 ∨ col < 0xF00)
/-- The steps of a run (R138-R140, R142, R143, R145, R149, R155, R157). -/
def runStepRules : Prop :=
  ∀ (s : State) id c m0 k hdr row0 rowN col0 colN wc done stop, tfind s.cmds id = some c → c.status = 0 →
    c.body = .grun m0 k hdr row0 rowN col0 colN wc done stop → let mats := (List.range k).map (· + m0)
    GateCalm s c.core mats →
    let word := (s.asp c.wg).aRead (hdr + 8 + 8 * done) 8
    let axis := word / 2 ^ 63; let op := word / 2 ^ 59 % 16; let line := word / 2 ^ 8 % 2 ^ 12 - 0xF00
    let ins := ([word / 2 ^ 44 % 2 ^ 12, word / 2 ^ 32 % 2 ^ 12, word / 2 ^ 20 % 2 ^ 12] : List Nat)
    let used := ([1, 2, 3, 2, 2, 2, 3, 1, 0, 0] : List Nat).getD op 0
    let badWord : Bool := decide (10 ≤ op ∧ op < 15 ∨ word / 2 ^ 56 % 8 ≠ 0 ∨ word % 2 ^ 8 ≠ 0 ∨ (∃ i ∈ ins.drop used, i ≠ 0) ∨ op = 15 ∧ word ≠ 15 * 2 ^ 59)
    let badIndex : Bool := decide (op < 10 ∧ (word / 2 ^ 8 % 2 ^ 12 < 0xF00 ∨ 0xFBF < word / 2 ^ 8 % 2 ^ 12 ∨ ∃ i ∈ ins, 0xFC0 ≤ i))
    let spent : Bool := mats.any fun m => (s.attic c.core m axis).spent line
    let word_ (stat cause prov : Nat) := if c.cancel then statusOf 2 0 0 c.kind done else statusOf stat cause prov c.kind done
    let ends (stat cause prov : Nat) := Completes (.gateStep id []) s s id (word_ stat cause prov)
    let go := s.startable c = true ∧ stop ≠ 1 ∧ c.granted = true ∧ s.earlierOnMats c.core id mats = false ∧
      (done ≠ wc → s.rangeHeld id id c [(.a, hdr + 8 + 8 * done, hdr + 8 + 8 * done + 8, false)] = false)
    (s.startable c = true → stop = 1 → if c.prov = none then ends 8 0 0 else ends 3 0 (c.prov.getD 0)) ∧
    (go → (done = wc ∨ badWord = false ∧ op = 15) → if c.prov = none then ends 1 0 0 else ends 3 0 (c.prov.getD 0)) ∧
    (go → done ≠ wc → (badWord = true ∨ badIndex = true) → c.prov = none → let cause : Cause := if badWord then .gateWord else .gateIndex
      ∃ t, exec (.gateStep id []) s = .next t ∧ Completed s t id (word_ 4 cause.code 0) (if c.cancel then [] else
        [({ wg := c.wg, wix := c.wix }, { cause, cmd := id, status := statusOf 4 cause.code 0 7 done, token := none })])) ∧
    (go → done ≠ wc → badWord = false → badIndex = false → op ≠ 15 → spent = true → c.prov = none → ∃ s1 t, exec (.gateStep id []) s = .next t ∧
      s1.cores = s.cores ∧ Completed s1 t id (word_ 4 0x7A 0) (if c.cancel then [] else
        [({ wg := c.wg, wix := c.wix }, { cause := .atticSpent, cmd := id, status := statusOf 4 0x7A 0 7 done, token := none })])) ∧
    (go → done ≠ wc → badWord = false → badIndex = false → op ≠ 15 → spent = false → row0 + rowN ≤ 0xF00 → col0 + colN ≤ 0xF00 →
      let x0 := if axis = 0 then row0 else col0; let n := if axis = 0 then rowN else colN
      ∃ t, exec (.gateStep id []) s = .next t ∧
        tfind t.cmds id = some { c with body := .grun m0 k hdr row0 rowN col0 colN wc (done + 1) (if stop = 2 then 1 else stop) } ∧
        (∀ m row col, m < 160 → mapped row col → cellNow (t.core c.core) m row col =
          if m ∈ mats ∧ onLine axis line x0 n row col = true then
            let v (i : Nat) : Bool := decide (i < used) &&
              if axis = 0 then cellNow (s.core c.core) m row (ins.getD i 0) else cellNow (s.core c.core) m (ins.getD i 0) col
            gateFn op (v 0) (v 1) (v 2)
          else cellNow (s.core c.core) m row col) ∧
        (∀ m ∈ mats, let a := t.attic c.core m axis; let b := s.attic c.core m axis
          atticSound a ∧ tgetD 0 a.wear (a.line line) = tgetD 0 b.wear (a.line line) + (if a.line line ≠ b.line line ∧ n < 3840 then 2 else 1) ∧
          tgetD 0 a.assign (a.line line) = if b.due (b.line line) = true then 1 else tgetD 0 b.assign (b.line line) + 1))
/-- GWRITE, GRATION and GREAD when their turn comes, snapshots, and the retention of cells (R151, R153, R155, R158-R162). -/
def lineStepRules : Prop :=
  (∀ (s : State) id c axis mat line x0 src n, tfind s.cmds id = some c → c.status = 0 → c.body = .gwrite axis mat line x0 src n →
    s.startable c = true → let stat := if c.cancel then 2 else 1
    (n = 0 → c.since < s.clock.clk → Completes (.gateStep id []) s s id (statusOf stat 0 0 c.kind 0)) ∧
    (n ≠ 0 → GateCalm s c.core [mat] → s.earlierOnMats c.core id [mat] = false → s.rangeHeld id id c (segRange src n false) = false →
      axis < 2 → line < 192 → mat < 160 → x0 + n ≤ 0xF00 → (s.attic c.core mat axis).spent line = false → (s.asp c.wg).aPoison = [] →
      ∃ s1, Completes (.gateStep id []) s s1 id (statusOf stat 0 0 c.kind n) ∧
        ∀ m row col, m < 160 → mapped row col → cellNow (s1.core c.core) m row col =
          if m = mat ∧ onLine axis line x0 n row col = true then ((s.asp c.wg).aRead src (packed n)).testBit ((if axis = 0 then row else col) - x0)
          else cellNow (s.core c.core) m row col)) ∧
  (∀ (s : State) id c axes m0 k ration, tfind s.cmds id = some c → c.status = 0 → c.body = .gration axes m0 k ration → s.startable c = true →
    s.earlierOnMats c.core id ((List.range k).map (· + m0)) = false → ∃ s1, s1 = { s with cores := s1.cores } ∧
      Completes (.gateStep id []) s s1 id (statusOf (if c.cancel then 2 else 1) 0 0 c.kind 0) ∧
      ∀ m axis, axis < 2 → s1.attic c.core m axis =
        if m0 ≤ m ∧ m < m0 + k ∧ (if axis = 0 then axes % 2 = 1 else 2 ≤ axes) then { s.attic c.core m axis with ration } else s.attic c.core m axis) ∧
  (∀ (s : State) id c axis mat row col dst n, tfind s.cmds id = some c → c.status = 0 → c.body = .gread axis mat row col dst n →
    s.startable c = true → let stat := if c.cancel then 2 else 1
    (n = 0 → c.since < s.clock.clk → Completes (.gateReadServe id) s s id (statusOf stat 0 0 c.kind 0)) ∧
    (n ≠ 0 → s.runOn c.core mat = true → exec (.gateReadServe id) s = .next s) ∧
    (n ≠ 0 → s.rangeHeld id id c (segRange dst n true) = false →
      (s.runOn c.core mat = false → AtticKept s c.core → (s.core c.core).slotTag = [] → (∀ a < 2, (s.attic c.core mat a).poison = []) →
        (∀ r ∈ (s.core c.core).reads, r.mat = mat → r.w = none ∧ r.cmd = id) → ∃ v : Nat,
        (∀ j, v.testBit j = (decide (j < n) && if axis = 0 then cellNow (s.core c.core) mat row (col + j) else cellNow (s.core c.core) mat (row + j) col)) ∧
        Completes (.gateReadServe id) s
          ((s.modCore c.core fun k => { k with reads := k.reads.filter fun r => r.w.isSome || r.cmd ≠ id }).modA c.wg fun g =>
            g.aPut dst (toBytes (packed n) v)) id (statusOf stat 0 0 c.kind n)))) ∧
  (∀ (s : State) id c wear axis mat dst, tfind s.cmds id = some c → c.status = 0 → c.body = .gsnap wear axis mat dst → s.startable c = true →
    s.earlierOnMats c.core id [mat] = false → s.rangeHeld id id c [(.a, dst, dst + if wear then 4096 else 288, true)] = false →
    let a := s.attic c.core mat axis
    ∃ bs : List Byte, bs.length = (if wear then 4096 else 288) ∧
      Completes (.gateSnapshot id) s (s.modA c.wg fun g => g.aPut dst bs) id (statusOf (if c.cancel then 2 else 1) 0 0 c.kind bs.length) ∧
      (wear = false → (∀ l < 192, bs.getD l 0 = BitVec.ofNat 8 (a.line l)) ∧ (∀ i < 64, bs.getD (192 + i) 0 = BitVec.ofNat 8 (a.free.getD i 0)) ∧
        bs.getD 256 0 = BitVec.ofNat 8 a.free.length ∧ bs.getD 257 0 = BitVec.ofNat 8 (a.retired.filter (·.2)).length ∧
        ofBytes ((bs.drop 260).take 4) = a.ration.toNat) ∧
      (wear = true → ∀ p < 256, let r := ofBytes ((bs.drop (16 * p)).take 16)
        r % 2 ^ 50 = tgetD 0 a.wear p % 2 ^ 50 ∧ (r.testBit 56 = tgetD false a.retired p) ∧ (r.testBit 57 = true ↔ p ∈ a.free) ∧
        r / 2 ^ 64 % 2 ^ 32 = tgetD 0 a.assign p % 2 ^ 32 ∧
        (∀ l < 192, a.line l = p → atticSound a → tgetD false a.retired p = false → r / 2 ^ 96 % 2 ^ 8 = l ∧ (r.testBit 58 = true ↔ (tfind a.poison l).isSome)))) ∧
  (∀ (s : State) core key, let c := (s.core core).cell key
    (c.lost = false → c.time + 3000000000 ≤ (s.clock.clk : Int) → exec (.atticRetentionExpiry core key) s =
      .next (s.modCore core fun k => { k with attic := tput k.attic key { c with lost := true } })) ∧
    ((s.clock.clk : Int) < c.time + 3000000000 → exec (.atticRetentionExpiry core key) s = .next s))
end Sys2Proof.Machine

/-- R135, R138-R145, R149, R151, R153, R155, R157-R162: a gate step writes the result of its gate to the logical cells of its output line and leaves every
other logical cell as it was, whatever line moves; how runs and line commands end; what reads and snapshots return. -/
def Obligations.GateSteps : Prop := runStepRules ∧ lineStepRules

/-! The sum-tree engine -/

namespace Sys2Proof.Machine
/-- A tree command is checked and issued (R267). -/
def TreeIssues (i : Instr) (op : Nat) (f : Fields) (s : State) (w : Warp) (id : Nat) (body : TreeOp) (checks : List (Bool × Cause × Nat))
    (ranges : List Range) : Prop :=
  Checked i op f s w ((decide (63 < id), .treeId, 0) :: checks) (Issues i op f s w (hIndex f.d) 8 (.tree id body [] 0 0) ranges)
/-- The ten tree instructions (R266, R267, R271). -/
def treeIssueRules : Prop :=
  (∀ f s w x, ReadyUni 0xC8 f s w x → tfind s.cmds s.fresh = none → let c := ctxOf 0xC8 f s w
    let id := c.valA w.begun x % 2 ^ 32; let a := c.valB w.begun x % 2 ^ 32
    let r := (s.asp s.cur.wg).aRead a 64; let base := r % 2 ^ 64; let logn := r / 2 ^ 64 % 32
    let cmd := { issued s w 8 (.tree id (.on base logn (decide (r / 2 ^ 72 % 2 = 1)) (BitVec.ofNat 32 (r / 2 ^ 96)) (BitVec.ofNat 32 (r / 2 ^ 128))) [] 0 0)
      true [(.a, a, a + 64, false)] with prov := (s.asp s.cur.wg).aTag a 64 }
    (w.releasedA = false → Waits (.treecfgOn f) 0xC8 f s w .drain) ∧
    (w.releasedA = true → Checked (.treecfgOn f) 0xC8 f s w
      [(decide (63 < id), .treeId, 0), aAligned .a 32 a, aRange (s.wg s.cur.wg).aSize .a a 64, gRange .g base 0,
       (decide (base % 4096 ≠ 0 ∨ logn = 0 ∨ 26 < logn ∨ r / 2 ^ 69 % 8 ≠ 0 ∨ r / 2 ^ 73 % 2 ^ 23 ≠ 0 ∨ r / 2 ^ 160 ≠ 0), .treeConfig, 0)]
      (Room s w [(.a, a, a + 64, false)] 1 → ∃ cs, Entered s cs cmd ∧
        Ends (.treecfgOn f) f s { s with fresh := s.fresh + 1, cmds := cs } { w.begun with h := tput w.h (hIndex f.d) s.fresh } (nextPc 0xC8 f w)))) ∧
  (∀ f s w x, ReadyUni 0xC8 f s w x → let c := ctxOf 0xC8 f s w; let id := c.valA w.begun x % 2 ^ 32
    TreeIssues (.treecfgOff f) 0xC8 f s w id .off [] [] ∧
    TreeIssues (.treecfgBeta f) 0xC8 f s w id (.beta (BitVec.ofNat 32 (c.valB w.begun x))) [] []) ∧
  (∀ f s w x, ReadyUni 0xC9 f s w x → let c := ctxOf 0xC9 f s w; let id := c.valA w.begun x % 2 ^ 32; let leaf := c.valB w.begun x % 2 ^ 32
    TreeIssues (.treesetSet f) 0xC9 f s w id (.set leaf (BitVec.ofNat 32 (c.valC w.begun x))) [] [] ∧
    TreeIssues (.treesetInval f) 0xC9 f s w id (.inval leaf) [] []) ∧
  (∀ f s w x, ReadyUni 0xCA f s w x → let c := ctxOf 0xCA f s w
    let a := c.valB w.begun x % 2 ^ 32; let n := c.valC w.begun x % 2 ^ 32
    TreeIssues (.treeupd f) 0xCA f s w (c.valA w.begun x % 2 ^ 32) (.upd a n)
      [(decide (n = 0 ∨ 4096 < n), .treeCount, 0), aAligned .a 32 a, aRange (s.wg s.cur.wg).aSize .a a (32 * n)] [(.a, a, a + 32 * n, false)]) ∧
  (∀ f s w x, ReadyUni 0xCB f s w x → let c := ctxOf 0xCB f s w
    let a := c.valB w.begun x % 2 ^ 32; let n := c.valC w.begun x % 2 ^ 32
    TreeIssues (.treedraw f) 0xCB f s w (c.valA w.begun x % 2 ^ 32) (.draw a (BitVec.ofNat 32 (c.valB w.begun x / 2 ^ 32)) n)
      [(decide (n = 0 ∨ 1024 < n), .treeCount, 0), aAligned .a 32 a, aRange (s.wg s.cur.wg).aSize .a a (32 * n)] [(.a, a, a + 32 * n, true)]) ∧
  (∀ f s w x, ReadyUni 0xCC f s w x → let c := ctxOf 0xCC f s w
    let id := c.valA w.begun x % 2 ^ 32; let a := c.valB w.begun x % 2 ^ 32
    let checks := [aAligned .a 32 a, aRange (s.wg s.cur.wg).aSize .a a 32]
    TreeIssues (.treesumRoot f) 0xCC f s w id (.sumRoot a) checks [(.a, a, a + 32, true)] ∧
    TreeIssues (.treesumLeaf f) 0xCC f s w id (.sumLeaf a (c.valC w.begun x % 2 ^ 32)) checks [(.a, a, a + 32, true)]) ∧
  (∀ f s w x, ReadyUni 0xCD f s w x → TreeIssues (.treeclr f) 0xCD f s w ((ctxOf 0xCD f s w).valA w.begun x % 2 ^ 32) .clr [] [])

/-- The arbiter can accept the command now: it has been issued and not accepted, what its issue released has been performed (R178), no
walk and no earlier command of its warp on the tree is under way, the records of the tree have been written, and no earlier command
holds its range (R184, R268). -/
structure Acceptable (s : State) (id : Nat) (c : Cmd) (tid : Nat) (op : TreeOp) : Prop where
  here   : tfind s.cmds id = some c
  body   : ∃ o st n, c.body = .tree tid op o st n
  open_  : c.status = 0 ∧ c.landed = none ∧ c.cancel = false ∧ c.walk = none
  calm   : s.startable c = true ∧ ∀ x ∈ s.cmds, x.2.out ≠ [] → ∀ o p st n, x.2.body ≠ .tree tid o p st n
  first  : ∀ x ∈ s.cmds, x.1 < id → x.2.wg = c.wg → x.2.wix = c.wix → x.2.landed = none → x.2.status = 0 → ∀ o p st n, x.2.body ≠ .tree tid o p st n
  ranges : s.rangeHeld id id c (match op.area with | some (a, n, d) => byteRange .a a n d | none => []) = false
/-- Every part of the image of a tree is mapped for its partition, and free of poison (R265, R270). -/
def TreeMapped (s : State) (c : Cmd) (t : Tree) : Prop :=
  ∀ write a n, t.base ≤ a → a + n ≤ t.base + 24 * 2 ^ t.logn →
    ∃ l, s.walkSegs c.part c.tr write (n / 65536 + 2) a n = .ok l ∧ (s.segRead l).2 = none
/-- A tree slot that the command's partition owns and has configured, consistent and free of poison (R262, R265, R268). -/
structure TreeSound (s : State) (c : Cmd) (tid : Nat) (t : Tree) : Prop where
  slot   : tfind s.trees tid = some t
  owned  : ∃ p, tfind s.parts c.part = some p ∧ p.tmask.getLsbD tid = true
  part   : t.part = c.part
  clean  : t.tainted = false ∧ t.poison = none
  size   : 1 ≤ t.logn ∧ t.logn ≤ 26
  leaves : tsorted t.leaves = true
  image  : TreeMapped s c t
/-- A command after its acceptance with this outcome (R268). -/
def acceptedCmd (s : State) (c : Cmd) (tid : Nat) (op : TreeOp) (out : List Byte) (stat count : Nat) (failed prov : Option Nat) : Cmd :=
  { c with body := .tree tid op out stat count, landed := some s.clock.clk, failed, prov }
/-- The command is accepted: the tree becomes `t'`, no byte of memory has been written yet, and its handle will complete with this status,
COUNT and result. -/
def TreeAccepts (s : State) (id : Nat) (c : Cmd) (tid : Nat) (op : TreeOp) (t' : Tree) (out : List Byte) (stat count : Nat) : Prop :=
  ∃ t k, exec (.treeAccept id) s = .next t ∧ tfind t.trees tid = some t' ∧ tfind t.cmds id = some k ∧
    k = { acceptedCmd s c tid op out stat count none none with out := k.out } ∧ t.mem = s.mem ∧ ∀ j, j ≠ id → tfind t.cmds j = tfind s.cmds j
/-- Contributions of the leaves below index `i` (R263). -/
def leavesBelow (t : Tree) (i : Nat) : Nat := ((List.range i).map fun j => leafSum (t.leaf j)).sum
/-- The least priority above 0 of a valid leaf, or 0xFFFF_FFFF (R263). -/
def leastPrio (t : Tree) (m : Nat) : Prop :=
  (m = 0xFFFFFFFF ∨ ∃ i < 2 ^ t.logn, leafMin (t.leaf i) = m) ∧ ∀ i < 2 ^ t.logn, m ≤ leafMin (t.leaf i)

/-- What a command does to a sound tree at its acceptance, the checks that fail there, and completion (R262, R263, R268-R278). -/
def treeAcceptRules : Prop :=
  (∀ s id c tid op t, Acceptable s id c tid op → TreeSound s c tid t → c.prov = none →
    let leaf (i : Nat) : DWord := t.leaf i
    let put (i prio gen : Nat) (valid : Bool) (t' : Tree) : Prop :=
      ∀ j, t'.leaf j = if j = i then mkLeaf prio gen valid else leaf j
    (∀ i prio, op = .set i prio → i < 2 ^ t.logn → ∃ t', TreeAccepts s id c tid op t' [] 1 ((leafGen (leaf i) + 1) % 2 ^ 16) ∧
      put i prio.toNat ((leafGen (leaf i) + 1) % 2 ^ 16) true t' ∧
      t' = { t with leaves := t'.leaves, nvalid := t.nvalid - (if leafValid (leaf i) then 1 else 0) + 1 }) ∧
    (∀ i, op = .inval i → i < 2 ^ t.logn → ∃ t', TreeAccepts s id c tid op t' [] 1 ((leafGen (leaf i) + 1) % 2 ^ 16) ∧
      put i 0 ((leafGen (leaf i) + 1) % 2 ^ 16) false t' ∧
      t' = { t with leaves := t'.leaves, nvalid := t.nvalid - (if leafValid (leaf i) then 1 else 0) }) ∧
    (∀ a n, op = .upd a n → (s.asp c.wg).aTag a (32 * n) = none →
      let el (j : Nat) : Nat × Nat × Nat := let r := ((s.asp c.wg).aBytes a (32 * n)).drop (32 * j)
        (ofBytes (r.take 4), ofBytes ((r.drop 4).take 2), ofBytes ((r.drop 8).take 4))
      let fits (t' : Tree) (e : Nat × Nat × Nat) : Bool := leafValid (t'.leaf e.1) && decide (leafGen (t'.leaf e.1) = e.2.1)
      let after (j : Nat) : Tree := (List.range j).foldl (fun t' k => if fits t' (el k) then t'.setLeaf (el k).1 (mkLeaf (el k).2.2 (el k).2.1 true) else t') t
      let applied := ((List.range n).filter fun j => fits (after j) (el j)).length
      (∀ j < n, (el j).1 < 2 ^ t.logn) →
        TreeAccepts s id c tid op { after n with stale := t.stale + BitVec.ofNat 32 (n - applied) } [] 1 (applied + (n - applied) * 2 ^ 16)) ∧
    (∀ a seed n, op = .draw a seed n → let total := leavesBelow t (2 ^ t.logn)
      (total = 0 → TreeAccepts s id c tid op { t with serial := t.serial + 1 } [] 10 t.serial.toNat) ∧
      (total ≠ 0 → ∃ out : List Byte, TreeAccepts s id c tid op { t with serial := t.serial + 1 } out 1 t.serial.toNat ∧ out.length = 32 * n ∧
        ∀ k < n, let target := (k * 2 ^ 32 + (treeHash seed t.serial k).toNat) * total / (n * 2 ^ 32)
          ∃ i m, i < 2 ^ t.logn ∧ leavesBelow t i ≤ target ∧ target < leavesBelow t (i + 1) ∧ leastPrio t m ∧
            (out.drop (32 * k)).take 32 = toBytes 4 i ++ toBytes 4 (leafGen (leaf i)) ++ toBytes 4 (leafPrio (leaf i)) ++
              toBytes 4 (treeWeight t.beta m (leafPrio (leaf i))) ++ toBytes 8 target ++ toBytes 4 t.serial.toNat ++ toBytes 4 k)) ∧
    (∀ a, op = .sumRoot a → ∃ m, leastPrio t m ∧ TreeAccepts s id c tid op t
      (toBytes 8 (leavesBelow t (2 ^ t.logn)) ++ toBytes 4 m ++ toBytes 4 t.nvalid ++ toBytes 4 t.serial.toNat ++ toBytes 4 t.stale.toNat ++
        toBytes 4 t.beta.toNat ++ toBytes 4 t.logn) 1 0) ∧
    (∀ a i, op = .sumLeaf a i → i < 2 ^ t.logn → TreeAccepts s id c tid op t (toBytes 32 (leaf i).toNat) 1 0) ∧
    (∀ beta, op = .beta beta → TreeAccepts s id c tid op { t with beta } [] 1 0) ∧
    (op = .clr → ∃ t', TreeAccepts s id c tid op t' [] 1 ((t.leaves.filter fun x => leafValid x.2).length) ∧ t' = { t with leaves := t'.leaves, nvalid := 0 } ∧
      ∀ i < 2 ^ t.logn, t'.leaf i = mkLeaf 0 (leafGen (leaf i) + 1) false) ∧
    (op = .off → tsorted s.trees = true → ∃ s1, exec (.treeAccept id) s = .next s1 ∧ tfind s1.trees tid = none ∧
      tfind s1.cmds id = some (acceptedCmd s c tid op [] 1 0 none none)) ∧
    (∀ b n ad be s0, op = .on b n ad be s0 → exec (.treeAccept id) s = .next (s.modCmd id fun _ => acceptedCmd s c tid op [] 4 0 (some 0x8C) none)) ∧
    ((∃ i p, op = .set i p ∧ 2 ^ t.logn ≤ i) ∨ (∃ i, op = .inval i ∧ 2 ^ t.logn ≤ i) ∨ (∃ a i, op = .sumLeaf a i ∧ 2 ^ t.logn ≤ i) →
      exec (.treeAccept id) s = .next (s.modCmd id fun _ => acceptedCmd s c tid op [] 4 0 (some 0x8A) none))) ∧
  (∀ s id c tid op, Acceptable s id c tid op → c.prov = none →
    ((∃ p, tfind s.parts c.part = some p ∧ p.tmask.getLsbD tid = true) → (∀ t, tfind s.trees tid = some t → t.part ≠ c.part) →
      (∀ b n ad be s0, op ≠ .on b n ad be s0) → exec (.treeAccept id) s = .next (s.modCmd id fun _ => acceptedCmd s c tid op [] 4 0 (some 0x8C) none)) ∧
    ((∀ p, tfind s.parts c.part = some p → p.tmask.getLsbD tid = false) →
      exec (.treeAccept id) s = .next (s.modCmd id fun _ => acceptedCmd s c tid op [] 4 0 (some 0x8C) none)) ∧
    (∀ base logn beta s0 l, op = .on base logn false beta s0 → (∃ p, tfind s.parts c.part = some p ∧ p.tmask.getLsbD tid = true) → tfind s.trees tid = none →
      s.walkSegs c.part c.tr true (24 * 2 ^ logn / 65536 + 2) base (24 * 2 ^ logn) = .ok l →
      TreeAccepts s id c tid op { part := c.part, base, logn, beta, leaves := [], serial := s0, stale := 0, nvalid := 0, tainted := false, poison := none } [] 1 0)) ∧
  (∀ (s : State) id c tid op out stat count, tfind s.cmds id = some c → c.body = .tree tid op out stat count → c.status = 0 →
    (c.landed = none → c.cancel = true → Completes (.treeAccept id) s s id (statusOf 2 0 0 c.kind 0)) ∧
    (c.landed ≠ none → c.out ≠ [] → exec (.treeComplete id) s = .next s) ∧
    (c.landed ≠ none → c.out = [] → c.cancel = true → Completes (.treeComplete id) s s id (statusOf 2 0 0 c.kind count)) ∧
    (c.landed ≠ none → c.out = [] → c.cancel = false → Completes (.treeComplete id) s
      (match op with
        | .draw a _ _ | .sumRoot a | .sumLeaf a _ => s.modA c.wg fun g => g.aPut a out
        | _ => s) id (statusOf stat (c.failed.getD 0) (c.prov.getD 0) c.kind count)))
end Sys2Proof.Machine

/-- R178, R262, R263, R265-R278: the tree instructions check, register and send their command; at its acceptance SET, INVAL and an update change the
leaves they name and no other, the sample of a draw is the leaf whose span of the running sum holds its target, sums report the tree. -/
def Obligations.Trees : Prop := treeIssueRules ∧ treeAcceptRules

/-! Work -/

namespace Sys2Proof.Machine
/-- LAUNCH, CNTRD, LVLCANCEL and RUNREC (R308, R312-R315, R335). -/
def levelIssueRules : Prop :=
  (∀ i form f s w x, ((i, form) = (Instr.launchRun f, 0) ∨ (i, form) = (Instr.launchGraph f, 1) ∨ (i, form) = (Instr.launchPhase f, 2) ∨
      (i, form) = (Instr.launchJob f, 3)) → ReadyUni 0xD0 f s w x → let addr := (ctxOf 0xD0 f s w).valA w.begun x
    Checked i 0xD0 f s w [gRange .g addr 0, (decide (addr % (if form = 0 then 128 else 16) ≠ 0), .gAlign, addr)]
      (Issues i 0xD0 f s w (hIndex f.d) 10 (.launch form addr) [])) ∧
  (∀ f s w x, ReadyUni 0xD0 f s w x → let c := ctxOf 0xD0 f s w
    let q := c.valA w.begun x % 2 ^ 32; let p := c.valB w.begun x % 2 ^ 32
    Checked (.launchQprio f) 0xD0 f s w [(decide (63 < q ∨ 7 < p), .levelState, 0)]
      (Issues (.launchQprio f) 0xD0 f s w (hIndex f.d) 10 (.qprio q p) [])) ∧
  (∀ f s w x, ReadyUni 0xD5 f s w x →
    Issues (.lvlcancel f) 0xD5 f s w (hIndex f.d) 10 (.lvlcancel (BitVec.ofNat 32 ((ctxOf 0xD5 f s w).valA w.begun x)) false 0) []) ∧
  (∀ f s w x, ReadyUni 0xD6 f s w x → let c := ctxOf 0xD6 f s w; let b := w.begun
    let id := BitVec.ofNat 32 (c.valA b x)
    let n := match tfind s.levels (id.toNat / 2 ^ 16) with
      | some l => if l.id = id ∧ l.part = (s.wg s.cur.wg).part then l.counter else 0
      | none => 0
    Ends (.cntrd f) f s { s with fresh := s.fresh + 1 }
      (({ b with pends := b.pends ++ [awaited s.fresh (c.dest b x.1) 1 false] }).deliver s.fresh (c.dest b x.1) n) (nextPc 0xD6 f w)) ∧
  (∀ f s w x, ReadyUni 0xD7 f s w x → let a := (ctxOf 0xD7 f s w).valA w.begun x
    Checked (.runrec f) 0xD7 f s w
      [gRange .g a 0, (decide (a % 64 ≠ 0), .gAlign, a), (s.flag s.cur.wg (·.det), .detForbidden, 0), (decide (w.vAllot < 16), .taskState, 0)]
      (Issues (.runrec f) 0xD7 f s w (hIndex f.d) 9 (.runrec a w.pc) []))
/-- SPAWN and FETCHW (R318, R320). -/
def taskIssueRules : Prop :=
  (∀ f s w, Ready 0xD1 f s w → let c := ctxOf 0xD1 f s w; let b := w.begun; let core := (s.wg s.cur.wg).core
    let entry (x : Nat × Nat) := c.valA b x
    let arg (x : Nat × Nat) := c.valB b x % 2 ^ 32
    let ranges : List Range := c.lanes.map fun x => (.a, arg x, arg x + 64, false)
    let cmd := issued s w 10 (.spawn (c.lanes.map fun x => (BitVec.ofNat 57 (entry x), arg x))) true ranges
    (c.lanes = [] → Ends (.spawn f) f s s b (nextPc 0xD1 f w)) ∧
    (c.lanes ≠ [] → (∀ x ∈ c.lanes, laneTarget w.pc false x.1 (entry x) = none ∧ arg x % 64 = 0 ∧ arg x + 64 ≤ (s.wg s.cur.wg).aSize) →
      (w.vAllot < 16 → Traps (.spawn f) 0xD1 f s w { cause := .taskState }) ∧
      (16 ≤ w.vAllot → s.flag s.cur.wg (·.det) = true → Traps (.spawn f) 0xD1 f s w { cause := .detForbidden }) ∧
      (16 ≤ w.vAllot → s.flag s.cur.wg (·.det) = false →
        (Room s w (ranges.take 2) 1 → (s.started w).laneInRanges s.cur.wg (aRanges ranges) = false → ∃ cs, Entered s cs cmd ∧
          ((s.core core).tasks.length + s.tasksDue core s.fresh + c.lanes.length ≤ 1024 →
            Ends (.spawn f) f s { s with fresh := s.fresh + 1, cmds := cs } { b with h := tput w.h (hIndex f.d) s.fresh } (nextPc 0xD1 f w)) ∧
          (1024 < (s.core core).tasks.length + s.tasksDue core s.fresh + c.lanes.length → exec (.spawn f) s =
            .next (({ s.started w with fresh := s.fresh + 1, cmds := cs } : State).modWarp s.cur fun v =>
              { v with h := tput w.h (hIndex f.d) s.fresh, wait := some (.spawn s.fresh), waitAt := s.time, slotLanes := c.lanes }))))) ∧
    (∀ x, c.lanes = [x] → laneTarget w.pc false x.1 (entry x) = none → (arg x % 64 ≠ 0 ∨ (s.wg s.cur.wg).aSize < arg x + 64) →
      Traps (.spawn f) 0xD1 f s w (c.report [{ lane := x.1, cause := if arg x % 64 ≠ 0 then .localAlign else .aRange
                                               info0 := BitVec.ofNat 32 (arg x), info1 := 0 }]))) ∧
  (∀ f s w id, Resumed 0xD1 f s w → w.wait = some (.spawn id) → (∀ k, tfind s.cmds id = some k → k.status ≠ 0) →
    Ends (.spawn f) f s s w.begun (nextPc 0xD1 f w)) ∧
  (∀ f s w x, ReadyUni 0xD3 f s w x → let c := ctxOf 0xD3 f s w; let addr := c.valB w.begun x % 2 ^ 32
    Checked (.fetchw f) 0xD3 f s w
      [(decide (addr % 16 ≠ 0), .localAlign, addr), (decide ((s.wg s.cur.wg).aSize < addr + 16), .aRange, addr),
       ((s.asp s.cur.wg).full (addr + 12) || decide (4 ≤ w.mail.length), .fetchState, 0), (s.flag s.cur.wg (·.det), .detForbidden, 0)]
      ((w.released = false → Waits (.fetchw f) 0xD3 f s w .drain) ∧
       (w.released = true → Ends (.fetchw f) f s
        { s with
          fresh := s.fresh + 1
          jobs := { s.jobs with fetches := tput s.jobs.fetches s.fresh { w := s.cur, launch := BitVec.ofNat 32 (c.valA w.begun x), addr } } }
        { w.begun with mail := w.mail ++ [s.fresh] } (nextPc 0xD3 f w))))
/-- MIGRATE to a core (R323): its checks, its waits, and the departure of the workgroup with its one warp and its A space. -/
def Migrates (i : Instr) (f : Fields) (s : State) (w : Warp) (target : Nat) : Prop :=
  let g := s.wg s.cur.wg; let b := w.begun
  let inside := target ≤ 383 ∧ ∃ p, tfind s.parts g.part = some p ∧ p.clmask.getLsbD (target / 8) = true
  let able := g.warps.length = 1 ∧ g.kind = .grid ∧ g.gmatN = 0 ∧ g.subs = [] ∧ g.aSize ≤ 16384 ∧ inside
  let quiet := w.accs = [] ∧ w.pends = [] ∧ (∀ k < 8, w.tokenBusy k = false) ∧ ∀ e ∈ s.cmds, e.2.wg = s.cur.wg → e.2.status ≠ 0
  (w.cwb < w.cwl → Traps i 0xD4 f s w { cause := .windowIllegal }) ∧
  (w.cwl ≤ w.cwb → ¬able → Traps i 0xD4 f s w { cause := .migrateState }) ∧
  (w.cwl ≤ w.cwb → able → s.flag s.cur.wg (·.det) = true → Traps i 0xD4 f s w { cause := .detForbidden }) ∧
  (w.cwl ≤ w.cwb → able → s.flag s.cur.wg (·.det) = false →
    (target = g.core → Ends i f s s b (nextPc 0xD4 f w)) ∧
    (target ≠ g.core → ¬quiet → Waits i 0xD4 f s w (.room 5 0)) ∧
    (target ≠ g.core → quiet → s.room target (s.moveNeed s.cur.wg) [] 0 = none → Waits i 0xD4 f s w (.room 5 (target + 1))) ∧
    (∀ aOff cbase, target ≠ g.core → quiet → s.room target (s.moveNeed s.cur.wg) [] 0 = some (aOff, cbase) → ∃ t w',
      exec i s = .next t ∧ tfind t.wgs s.cur.wg = some { g with core := target, place := .moving, aOff, cbase, warps := [w'] } ∧
      w' = { b with
        h := w'.h, tok := w'.tok, defers := w'.defers, pc := nextPc 0xD4 f w, next := w'.next, busy := w'.busy, draw := w'.draw, wait := none
        doneLanes := [], kept := none, tr := [], atSafe := f.sp, live := if f.sp then f.live else b.live, stopped := w'.stopped } ∧
      w'.h.map Prod.fst = b.h.map Prod.fst ∧ ((s.core g.core).worn = [] → t.mem = s.mem) ∧ (∀ x ∈ (t.core g.core).sched.active, x.1.wg ≠ s.cur.wg) ∧
      ∀ e ∈ (t.core target).c, e.1 < cbase * 128 ∨ (cbase + g.crows) * 128 ≤ e.1))
end Sys2Proof.Machine

/-- R308, R312-R315, R318, R320, R323, R335: the instructions that submit, spawn, fetch and move work: their checks in order, what they register
or read, and how they wait for room. -/
def Obligations.Work : Prop := levelIssueRules ∧ taskIssueRules ∧
  (∀ f s w x, ReadyUni 0xD4 f s w x → Migrates (.migrateCore f) f s w ((ctxOf 0xD4 f s w).valA w.begun x % 2 ^ 32)) ∧
  (∀ f s w x, ReadyUni 0xD4 f s w x → let c := ctxOf 0xD4 f s w; let a := c.valA w.begun x; let g := s.wg s.cur.wg
    (2 ^ 57 ≤ a → Traps (.migrateNear f) 0xD4 f s w { cause := .gNoncanon, info0 := BitVec.ofNat 32 a, info1 := BitVec.ofNat 32 (a / 2 ^ 32) }) ∧
    (∀ t, a < 2 ^ 57 → (w.tr.find? fun y => y.1 = pageOf a) = none → s.tlbAt g.core g.part a = some t →
      Migrates (.migrateNear f) f s w ((s.mostFree ((List.range 8).map (· + 8 * (Config.nearest (sliceOf t.pa) % 48)))).getD 0)))

namespace Sys2Proof.Machine
/-- Tasks enter the gatherer and leave it in waves (R320, R321, R339). -/
def waveRules : Prop :=
  (∀ (s : State) id c tasks, tfind s.cmds id = some c → c.status = 0 → c.body = .spawn tasks →
    (c.cancel = true → Completes (.taskPush id) s s id (statusOf 2 0 0 c.kind 0)) ∧
    (c.cancel = false → s.startable c = false ∨ 1024 < (s.core c.core).tasks.length + s.tasksDue c.core id + tasks.length →
      exec (.taskPush id) s = .next s) ∧
    (c.cancel = false → s.startable c = true → (s.core c.core).tasks.length + s.tasksDue c.core id + tasks.length ≤ 1024 →
      s.rangeHeld id id c (tasks.map fun t => (.a, t.2, t.2 + 64, false)) = false → (s.asp c.wg).aPoison = [] →
      let origin := if (s.wg c.wg).kind = .grid then c.wg else (s.wg c.wg).origin
      Completes (.taskPush id) s ((s.modCore c.core fun k => { k with tasks := k.tasks ++ tasks.map fun t =>
          { origin, entry := t.1, args := (List.range 16).map fun i => BitVec.ofNat 32 ((s.asp c.wg).aRead (t.2 + 4 * i) 4), since := s.clock.clk, run := 0, slot := 0 } }).modWg
        origin fun y => { y with tasks := y.tasks + tasks.length }) id (statusOf 1 0 0 c.kind tasks.length))) ∧
  (∀ (s : State) core due i, ((i, due) = (Instr.waveForm core, decide ((s.waveGroup core).length = 32)) ∨
      (i, due) = (Instr.waveWaitExpiry core, waveDue s.clock.clk (s.waveGroup core))) →
    (due = false → exec i s = .next s) ∧
    (∀ t0 rest la aOff cb, due = true → s.waveGroup core = t0 :: rest → s.launch? (s.wg t0.origin).launch = some la →
      s.room core (s.waveNeed core t0) [] 0 = some (aOff, cb) → let group := t0 :: rest
      ∃ t g w, exec i s = .next t ∧ tfind t.wgs s.fresh = some g ∧ g.warps = [w] ∧ g.core = core ∧ g.place = .resident ∧ g.origin = t0.origin ∧
        g.launch = (s.wg t0.origin).launch ∧ g.part = (s.wg t0.origin).part ∧
        (s.runOf core t0.run = none → g.kind = .wave ∧ g.aOff = aOff ∧ g.aSize = waveBytes la.rec_.stack ∧ w.stored (.s 63) = BitVec.ofNat 32 g.aSize) ∧
        (∀ r, s.runOf core t0.run = some r → ∃ j, g.kind = .runWave r.cmd j (group.map (·.slot))) ∧
        w.pc = t0.entry ∧ w.present = firstThreads group.length ∧ w.em = w.present ∧ w.vAllot = la.rec_.vallot ∧ w.ltbase = la.ltbase ∧
        (∀ n < 16, ∀ k < group.length, w.stored (.v n k) = ((group[k]?.map (·.args)).getD []).getD n 0) ∧
        (t.core core).tasks = group.foldl List.erase (s.core core).tasks ∧
        (t.core core).sched.rq = (s.core core).sched.rq ++ [{ w := { wg := s.fresh, wix := 0 }, count := 0 }])) ∧
  (∀ (s : State) core t0 ts, (s.core core).tasks = t0 :: ts → (∀ t ∈ t0 :: ts, t.run = 0) → s.runOf core 0 = none →
    s.waveGroup core = ((t0 :: ts).filter fun t => t.entry = t0.entry && t.origin = t0.origin && t.run = t0.run).take 32)
/-- The record of R310 breaks none of its constraints. -/
def recordLawful (r : Nat) : Prop :=
  let fld (lo n : Nat) := r / 2 ^ lo % 2 ^ n
  fld 57 7 = 0 ∧ fld 0 3 = 0 ∧ fld 64 16 ≠ 0 ∧ fld 80 16 ≠ 0 ∧ fld 96 16 ≠ 0 ∧ 1 ≤ fld 112 5 ∧ fld 112 5 ≤ 16 ∧ fld 117 11 = 0 ∧
  32 * (fld 112 5 - 1) < fld 128 10 ∧ fld 128 10 ≤ 32 * fld 112 5 ∧ fld 138 6 = 0 ∧ 1 ≤ fld 144 8 ∧ fld 144 8 ≤ 128 ∧ 1 ≤ fld 152 7 ∧ fld 152 7 ≤ 64 ∧
  fld 159 1 = 0 ∧ 1 ≤ fld 160 9 ∧ fld 160 9 ≤ 256 ∧ fld 169 7 = 0 ∧ fld 176 16 % 16 = 0 ∧ fld 112 5 * fld 176 16 ≤ 4096 * fld 160 9 ∧ fld 192 9 ≤ 256 ∧
  fld 201 7 = 0 ∧ fld 208 8 + fld 216 8 ≤ 160 ∧ fld 228 4 = 0 ∧ fld 238 18 = 0
/-- The lowest free slot of a kind, of `n` slots (R308). -/
def lowestSlot (s : State) (kind n i : Nat) : Prop :=
  i < n ∧ tfind s.levels (kind * 16384 + i) = none ∧ ∀ j < i, tfind s.levels (kind * 16384 + j) ≠ none
/-- The id of a new level in slot `i` of a kind (R308). -/
def newId (s : State) (kind i : Nat) : Nat :=
  let g := tgetD 0 s.jobs.gens (kind * 16384 + i)
  (kind * 16384 + i) * 65536 + (if 0xFFFF ≤ g then 1 else g + 1)
/-- What acceptance of a submission creates (R308-R311, R313, R431). -/
def submissionRules : Prop :=
  (∀ (s : State) id c form addr, tfind s.cmds id = some c → c.status = 0 → c.walk = none → s.startable c = true → c.body = .launch form addr →
    let refuse (k : Cause) := Completes (.launchAccept id) s s id (statusOf 4 k.code 0 c.kind 0)
    (c.cancel = true → Completes (.launchAccept id) s s id (statusOf 2 0 0 c.kind 0)) ∧
    (∀ r, c.cancel = false → form = 0 → s.jobRead c.part c.tr addr 128 = .got r →
      (¬recordLawful r → refuse .launchRecord) ∧
      (∀ d, recordLawful r → s.descRead c.part c.tr (BitVec.ofNat 57 r) = .got d →
        let lt : Int := ((r % 2 ^ 57 : Nat) : Int) + signed 32 (d % 2 ^ 32)
        let lost := d / 2 ^ 32 ≠ 0 ∨ lt % 8 ≠ 0 ∨ lt / 2 ^ 32 ≠ ((r % 2 ^ 57 / 2 ^ 32 : Nat) : Int)
        let queue := r / 2 ^ 232 % 64
        let after := (List.range 4).map fun i => BitVec.ofNat 32 (r / 2 ^ (256 + 32 * i))
        let graph := BitVec.ofNat 32 (r / 2 ^ 384)
        let owned := ∃ p, tfind s.parts c.part = some p ∧ p.qmask.getLsbD queue = true
        let n := r / 2 ^ 64 % 2 ^ 16 * (r / 2 ^ 80 % 2 ^ 16) * (r / 2 ^ 96 % 2 ^ 16)
        (lost → refuse .launchRecord) ∧
        (¬lost → (¬owned ∨ ∃ x ∈ after, x ≠ 0xFFFFFFFF ∧ x.toNat / 2 ^ 30 ≠ 0) → refuse .levelState) ∧
        (¬lost → owned → (∀ x ∈ after, x ≠ 0xFFFFFFFF → x.toNat / 2 ^ 30 = 0) →
          (graph ≠ 0xFFFFFFFF → s.liveKind c.part 1 graph = none → refuse .levelState) ∧
          (∀ p, graph ≠ 0xFFFFFFFF → s.liveKind c.part 1 graph = some p →
            (p.cancelled = true → Completes (.launchAccept id) s s id (statusOf 2 0 0 c.kind 0)) ∧
            (p.cancelled = false → p.total ≤ p.given → refuse .levelState)) ∧
          (∀ i, (graph = 0xFFFFFFFF ∨ ∃ p, s.liveKind c.part 1 graph = some p ∧ p.cancelled = false ∧ p.given < p.total) → lowestSlot s 0 16384 i →
            ∃ s1 l la, Completes (.launchAccept id) s s1 id (statusOf 1 0 0 c.kind (newId s 0 i)) ∧
              s1 = { s with levels := s1.levels, jobs := { s.jobs with gens := s1.jobs.gens, orders := s.jobs.orders + 1 } } ∧
              tfind s1.levels i = some l ∧ l.id = BitVec.ofNat 32 (newId s 0 i) ∧ l.part = c.part ∧ l.counter = n ∧ l.total = n ∧ l.given = 0 ∧ l.cancelled = false ∧
              l.parent = (if graph = 0xFFFFFFFF then none else some graph) ∧ l.launch = some la ∧ la.next = 0 ∧ la.back = [] ∧ la.order = s.jobs.orders ∧
              (la.ltbase.toNat : Int) = lt ∧ la.rec_ = { parseRecord r with waitOn := after.filter fun x => (s.liveLevel c.part x).isSome } ∧
              ∀ p, graph ≠ 0xFFFFFFFF → s.liveKind c.part 1 graph = some p → tfind s1.levels (graph.toNat / 65536) = some { p with given := p.given + 1 })))) ∧
    (∀ r, c.cancel = false → 1 ≤ form → form ≤ 3 → s.jobRead c.part c.tr addr 16 = .got r →
      let n := r / 2 ^ 32 % 2 ^ 32; let parent := BitVec.ofNat 32 r
      ((n = 0 ∨ 65535 < n ∨ r / 2 ^ 64 ≠ 0) → refuse .launchRecord) ∧
      (1 ≤ n → n ≤ 65535 → r / 2 ^ 64 = 0 →
        (form < 3 → s.liveKind c.part (form + 1) parent = none → refuse .levelState) ∧
        (∀ i, (form = 3 ∨ ∃ p, s.liveKind c.part (form + 1) parent = some p ∧ p.cancelled = false ∧ p.given < p.total) →
          lowestSlot s form (([16384, 4096, 1024, 256] : List Nat).getD form 0) i → ∃ s1 l,
          Completes (.launchAccept id) s s1 id (statusOf 1 0 0 c.kind (newId s form i)) ∧
          s1 = { s with levels := s1.levels, jobs := { s.jobs with gens := s1.jobs.gens, orders := s.jobs.orders + 1 } } ∧
          tfind s1.levels (form * 16384 + i) = some l ∧ l.id = BitVec.ofNat 32 (newId s form i) ∧ l.part = c.part ∧ l.counter = n ∧ l.total = n ∧
          l.launch = none ∧ l.parent = if form = 3 then none else some parent)))) ∧
  (∀ (s : State) id c q p, tfind s.cmds id = some c → c.status = 0 → c.walk = none → s.startable c = true → c.cancel = false → c.body = .qprio q p →
    ((∃ k, tfind s.parts c.part = some k ∧ k.qmask.getLsbD q = true) → Completes (.launchAccept id) s
      { s with jobs := { s.jobs with prio := tsetD 0 s.jobs.prio q p } } id (statusOf 1 0 0 c.kind (tgetD 0 s.jobs.prio q))) ∧
    ((∀ k, tfind s.parts c.part = some k → k.qmask.getLsbD q = false) → Completes (.launchAccept id) s s id (statusOf 4 0xA3 0 c.kind 0)))
/-- Cancellation, FETCHW and MIGRATE when they take effect (R315, R318, R323). -/
def moveRules : Prop :=
  (∀ (s : State) id c lvl started n, tfind s.cmds id = some c → c.status = 0 → s.startable c = true → c.body = .lvlcancel lvl started n →
    (s.liveLevel c.part lvl = none → Completes (.levelCancelApply id) s s id (statusOf 1 0 0 c.kind n)) ∧
    (s.liveLevel c.part lvl ≠ none → tsorted s.wgs = true → tsorted s.levels = true → (∀ e ∈ s.levels, e.1 = e.2.id.toNat / 65536) → ∃ t, exec (.levelCancelApply id) s = .next t ∧
      (∀ g ∈ s.wgsUnder lvl, (t.wg g).cancelled = true) ∧
      (started = false → ∀ e ∈ t.levels, s.below lvl 4 e.2.id = true → e.2.cancelled = true ∧
        ∀ la, e.2.launch = some la → la.next = e.2.total ∧ la.back = []))) ∧
  (∀ (s : State) req r g, tfind s.jobs.fetches req = some r → tfind s.wgs r.w.wg = some g → g.place = .resident → s.fetchHeld g.part r.launch = false →
    (tfind s.wgs (s.home r.w.wg)).isSome → twf (0 : Byte) (s.asp r.w.wg).a = true → tsorted (s.asp r.w.wg).tags = true → tsorted s.jobs.fetches = true →
    ∃ t, exec (.fetchwDelivery req) s = .next t ∧ tfind t.jobs.fetches req = none ∧ (t.asp r.w.wg).full (r.addr + 12) = true ∧
      (∀ v, s.warp? r.w = some v → t.warp? r.w = some { v with mail := v.mail.filter (· ≠ req) }) ∧
      let res := (t.asp r.w.wg).aRead (r.addr + 12) 4
      ((∀ l la, s.liveKind g.part 0 r.launch = some l → l.launch ≠ some la) → res = 2) ∧
      (∀ l la, s.liveKind g.part 0 r.launch = some l → l.launch = some la →
        (l.cancelled = true → res = 3) ∧
        (l.cancelled = false → la.back = [] → l.total ≤ la.next → res = 1) ∧
        (∀ i, l.cancelled = false → (la.back = [] ∧ i = la.next ∧ i < l.total ∨ i ∈ la.back.map Prod.fst ∧ ∀ b ∈ la.back, i ≤ b.1) → let z := la.rec_
          res = 0 ∧ (t.asp r.w.wg).aRead r.addr 4 = i % z.nx % 2 ^ 32 ∧ (t.asp r.w.wg).aRead (r.addr + 4) 4 = i / z.nx % z.ny % 2 ^ 32 ∧
          (t.asp r.w.wg).aRead (r.addr + 8) 4 = i / (z.nx * z.ny) % 2 ^ 32 ∧ (t.wg r.w.wg).fetched = g.fetched ++ [(r.launch, i)] ∧
          tfind t.levels (r.launch.toNat / 65536) = some { l with launch := some { la with
            next := if i = la.next then la.next + 1 else la.next, back := la.back.filter fun b => b.1 ≠ i } }))) ∧
  (∀ (s : State) g wg, tfind s.wgs g = some wg → wg.place = .moving → ∃ t, exec (.migrateArrival g) s = .next t ∧
    tfind t.wgs g = some { wg with place := .resident } ∧ t = { s with wgs := t.wgs, cores := t.cores } ∧
    (t.core wg.core).sched.rq = (s.core wg.core).sched.rq ++
      ((wg.warps.zipIdx.filter fun x => !x.1.retired).map fun x => { w := { wg := g, wix := x.2 }, count := 0 }))
/-- The unfolding engine (R334, R337-R340, R343, R345, R346). -/
def unfoldingRules : Prop :=
  (∀ (s : State) id c obj pc, tfind s.cmds id = some c → c.status = 0 → c.walk = none → c.body = .runrec obj pc → s.run? id = none → s.startable c = true →
    (c.cancel = true → Completes (.runrecAccept id) s s id (statusOf 2 0 0 c.kind 0)) ∧
    (c.cancel = false → 8 ≤ (s.cluster (cluOf c.core)).runs.length → exec (.runrecAccept id) s = .next s) ∧
    (∀ o, c.cancel = false → (s.cluster (cluOf c.core)).runs.length < 8 → s.engRead c obj 64 = .ok o →
      (∀ tag, o.2 = some tag → Completes (.runrecAccept id) s s id (statusOf 3 0 tag c.kind 0)) ∧
      (o.2 = none → parseObject s c id pc (ofBytes o.1) = none → ∃ t, exec (.runrecAccept id) s = .next t ∧
        Completed s t id (statusOf 4 0x83 0 c.kind 0) [({ wg := c.wg, wix := c.wix }, { cause := .recurObject, cmd := id, status := 0, token := none })]) ∧
      (∀ run root arg, o.2 = none → parseObject s c id pc (ofBytes o.1) = some (run, root) → run.local_ = true → s.engRead c root 64 = .ok (arg, none) →
        (tfind s.wgs (s.home c.wg)).isSome → twf (0 : Byte) (s.asp c.wg).a = true → ∃ t r, exec (.runrecAccept id) s = .next t ∧
        r ∈ (t.cluster (cluOf c.core)).runs ∧ r.cmd = id ∧ r.running = [0] ∧ r.allocs = 1 ∧ (r.frame 0).state = 2 ∧ (r.frame 0).parent = none ∧
        (t.asp c.wg).aBytes run.arena 32 = (r.frame 0).header ∧ (t.asp c.wg).aBytes (run.arena + 32) arg.length = arg ∧
        (t.core c.core).tasks = (s.core c.core).tasks ++ [
          { origin := c.wg, entry := run.dive, since := s.clock.clk, run := id, slot := 0
            args := [BitVec.ofNat 32 (run.arena + 32), 0, 0, 0, 0, 0, 0, BitVec.ofNat 32 (32 + run.fs)] ++ List.replicate 8 0xFFFFFFFF }]))) ∧
  (∀ (s : State) id slot c r, tfind s.cmds id = some c → c.walk = none → s.run? id = some r →
    let s1 := s.modClu (cluOf c.core) fun k => { k with runs := k.runs.filter fun x => x.cmd ≠ id }
    (r.running = [] → r.ended = [] → (r.failed ≠ none ∨ r.prov ≠ none ∨ c.cancel = true ∨ (r.frame 0).state = 6) →
      (c.cancel = true → Completes (.routineTaskEnd id slot) s s1 id (statusOf 2 0 0 c.kind r.allocs)) ∧
      (∀ tag, c.cancel = false → r.prov = some tag → Completes (.routineTaskEnd id slot) s s1 id (statusOf 3 0 tag c.kind r.allocs)) ∧
      (∀ k n, c.cancel = false → r.prov = none → r.failed = some (k, n) → ∃ t, exec (.routineTaskEnd id slot) s = .next t ∧
        Completed s1 t id (statusOf (if k = .recurDepth then 11 else if k = .recurArena then 12 else 4) k.code 0 c.kind r.allocs)
          [({ wg := c.wg, wix := c.wix }, { cause := k, cmd := id, status := 0, token := none })]) ∧
      (c.cancel = false → r.prov = none → r.failed = none → Completes (.routineTaskEnd id slot) s s1 id (statusOf 1 0 0 c.kind r.allocs))) ∧
    (∀ v, r.ended = [(slot, v)] → r.running = [slot] → c.cancel = true → Completes (.routineTaskEnd id slot) s s1 id (statusOf 2 0 0 c.kind r.allocs)) ∧
    (∀ v, r.ended = [(slot, v)] → r.running = [slot] → r.local_ = true → r.tainted = false → r.failed = none → r.prov = none → c.cancel = false →
      (s.asp r.wg).aBytes (r.arena + slot * (32 + r.fs)) 32 = (r.frame slot).header → (s.asp r.wg).aPoison = [] →
      (tfind s.wgs (s.home r.wg)).isSome → let f := r.frame slot
      (f.state = 2 → v < 2 ^ 32 → (8 < v ∨ r.fs < 64 * v ∨ 0 < v ∧ f.depth = r.maxD) → ∃ s2 t, exec (.routineTaskEnd id slot) s = .next t ∧
        let k : Cause := if 0 < v ∧ f.depth = r.maxD then .recurDepth else .recurFanout
        Completed s2 t id (statusOf (if k = .recurDepth then 11 else 4) k.code 0 c.kind r.allocs)
          [({ wg := c.wg, wix := c.wix }, { cause := k, cmd := id, status := 0, token := none })]) ∧
      ((f.state = 4 ∨ f.state = 5) → v < 2 ^ 32 → slot = 0 → f.parent = none → ∃ s2,
        Completes (.routineTaskEnd id slot) s s2 id (statusOf 1 0 0 c.kind r.allocs))))
end Sys2Proof.Machine

/-- R308-R311, R313, R315, R318, R320, R321, R323, R334-R346: how submitted work takes effect: tasks and waves, levels and launches, cancellation,
workgroups handed over and moved, and the runs of the unfolding engine. -/
def Obligations.WorkSteps : Prop := waveRules ∧ submissionRules ∧ moveRules ∧ unfoldingRules

/-! Placement and recovery of workgroups -/

namespace Sys2Proof.Machine
/-- Nothing holds the workgroup back from retiring (R16, R246, R322). -/
def Finished (s : State) (g : Nat) (wg : Workgroup) : Prop :=
  (∀ w ∈ wg.warps, w.retired = true ∧ w.accs = []) ∧ wg.tasks = 0 ∧ (∀ x ∈ s.wgs, x.1 ≠ g → x.2.kind ≠ .grid → x.2.origin ≠ g) ∧
  ∀ c ∈ s.cmds, c.2.wg = g → c.2.status = 0 → ∃ l a n, c.2.body = .lvlcancel l a n ∧ s.below l 4 wg.launch = true
/-- The distributor (R316, R317, R394). -/
def distributorRules : Prop :=
  (∀ (s : State) die c core l la aOff cb, s.choice die = some (c, core) → c.saved = none → s.level? c.launch = some l → l.launch = some la →
    s.room core (s.candNeed c) [] 0 = some (aOff, cb) → let r := la.rec_
    ∃ t g, exec (.placementDecision die) s = .next t ∧ tfind t.wgs s.fresh = some g ∧ g.core = core ∧ g.launch = l.id ∧ g.part = l.part ∧ g.index = c.index ∧
      g.gx = c.index % r.nx ∧ g.gy = c.index / r.nx % r.ny ∧ g.gz = c.index / (r.nx * r.ny) ∧ g.aOff = aOff ∧ g.aSize = 4096 * r.asize ∧
      g.cbase = cb ∧ g.crows = r.crows ∧ g.gmat0 = r.gmat0 ∧ g.gmatN = r.gmatN ∧ g.kills = c.kills ∧ g.a = [] ∧ g.tags = [] ∧ g.warps.length = r.warps ∧
      (∀ i w, g.warps[i]? = some w → w.pc = r.entry ∧ w.present = firstThreads (min 32 (r.nthr - 32 * i)) ∧ w.em = w.present ∧ w.splits = [] ∧ w.status = 0 ∧
        w.stored (.s 61) = la.ltbase.truncate 32 ∧ w.stored (.s 63) = BitVec.ofNat 32 (4096 * r.asize - i * r.stack) ∧
        (∀ n < 16, n < r.sallot → w.stored (.s n) = r.param.getD n 0) ∧ (∀ n k, w.stored (.v n k) = 0) ∧ (∀ n < 7, ∀ k, w.stored (.p n k) = 0)) ∧
      (∀ e ∈ (t.core core).c, e.1 < cb * 128 ∨ (cb + r.crows) * 128 ≤ e.1) ∧
      (t.core core).sched.rq = (s.core core).sched.rq ++ (List.range r.warps).map fun i => { w := { wg := s.fresh, wix := i }, count := 0 }) ∧
  (∀ (s : State) die, s.choice die = none → ∃ t, exec (.placementDecision die) s = .next t ∧ t = { s with levels := t.levels }) ∧
  (∀ (s : State) die c core, s.choice die = some (c, core) → c ∈ s.candidates die ∧ s.coreFor c = some core ∧
    ∀ d ∈ s.candidates die, d.ahead c = true → s.coreFor d = none) ∧
  (∀ (s : State) c core, s.keptCores = [] → s.coreFor c = some core →
    core ∈ s.candCores c ∧ (s.room core (s.candNeed c) [] (c.saved.getD 0)).isSome ∧
    ∀ k ∈ s.candCores c, (s.room k (s.candNeed c) [] (c.saved.getD 0)).isSome → s.waveReady k = false →
      s.freePlaces k < s.freePlaces core ∨ s.freePlaces k = s.freePlaces core ∧ core ≤ k) ∧
  (∀ (s : State) die, ∃ t, exec (.passedOverTimeout die) s = .next t ∧ t = { s with levels := t.levels } ∧
    ∀ k l, tfind s.levels k = some l → tfind t.levels k = some { l with launch := l.launch.map fun la => { la with
      passed := la.passed || (decide (l.part ∈ s.dieParts die) && match la.since with | some n => decide (n + 1000000 ≤ s.time) | none => false) } }) ∧
  (∀ (s : State) g wg, tfind s.wgs g = some wg → (¬Finished s g wg → exec (.workgroupRetire g) s = .next s) ∧
    (Finished s g wg → tsorted s.wgs = true → ∃ t, exec (.workgroupRetire g) s = .next t ∧ tfind t.wgs g = none ∧
      (∀ c ∈ t.cmds, c.2.wg = g → c.2.status = 0) ∧ (∀ x ∈ (t.core wg.core).sched.active, x.1.wg ≠ g) ∧
      (∀ l, s.level? wg.launch = some l → wg.kind = .grid → wg.fetched = [] →
        let again : Bool := decide (wg.killed = some 0xB5 ∨ wg.killed = some 0xB6) && decide (wg.kills < 2) && !wg.cancelled &&
          match l.launch with | some la => la.rec_.idem | none => false
        (again = true → tfind t.levels (wg.launch.toNat / 65536) = some { l with
          launch := l.launch.map fun la => { la with back := la.back ++ [(wg.index, wg.kills + 1)] } }) ∧
        (again = false → 1 < l.counter → tfind t.levels (wg.launch.toNat / 65536) = some { l with counter := l.counter - 1 }) ∧
        (again = false → l.counter = 1 → l.parent = none → tsorted s.levels = true → tfind t.levels (wg.launch.toNat / 65536) = none))))
/-- Pre-emption, the save and the restoration (R384-R386, R388). -/
def preemptionRules : Prop :=
  (∀ (s : State) die, s.starved die = none → exec (.preemptionTrigger die) s = .next s) ∧
  (∀ (s : State) die c la core rest g, s.starved die = some c → s.launch? c.launch = some la → la.clear = none → s.clearable c = core :: rest →
    (∀ x ∈ s.wgs, x.2.preempt = true → x.2.place = .resident → x.2.core ≠ core) → s.victimOn core = some (core, g) → tsorted s.wgs = true →
    ∃ t, exec (.preemptionTrigger die) s = .next t ∧ (t.wg g).preempt = true ∧ t.jobs.pool = s.jobs.pool + (s.wg g).saveSize ∧
      ∀ i (w : Warp), s.warp? { wg := g, wix := i } = some w → w.runs = true → s.waitPoint w = true → ∃ w' : Warp, t.warp? { wg := g, wix := i } = some w' ∧
        w'.stopped = true ∧ w'.wait = none ∧ w'.pc = w.pc) ∧
  (∀ (s : State) core g, s.victimOn core = some (core, g) → ∃ wg, (g, wg) ∈ s.wgs ∧ wg.core = core ∧ wg.place = .resident ∧
    s.wgPrio wg < 7 ∧ s.jobs.pool + wg.saveSize ≤ 2 ^ 32 ∧
    ∀ x ∈ s.wgs, x.2.core = core → x.2.place = .resident → x.2.preempt = false → s.jobs.pool + x.2.saveSize ≤ 2 ^ 32 →
      s.wgPrio wg ≤ s.wgPrio x.2 ∧ (s.wgPrio wg = s.wgPrio x.2 → x.2.seqNo ≤ wg.seqNo)) ∧
  (∀ (s : State) g wg, tfind s.wgs g = some wg → (wg.preempt = false ∨ wg.place ≠ .resident) → exec (.preemptSave g) s = .next s) ∧
  (∀ (s : State) g wg, tfind s.wgs g = some wg → wg.preempt = true → wg.place = .resident → wg.gmatN = 0 →
    (∀ w ∈ wg.warps, (w.retired = true ∨ w.stopped = true) ∧ w.accs = [] ∧ w.pends = [] ∧ tsorted w.v = true) → (∃ w ∈ wg.warps, w.retired = false) →
    (∀ c ∈ s.cmds, c.2.wg = g → c.2.status ≠ 0) → (∀ k ∈ (s.core wg.core).chains, k.wg ≠ g) → tsorted s.wgs = true → tsorted (s.core wg.core).c = true →
    (∀ w ∈ wg.warps, w.cwb < w.cwl → wg.cbase ≤ w.cwb) → ∃ t, ∃ v : Workgroup, exec (.preemptSave g) s = .next t ∧ tfind t.wgs g = some v ∧ v.place = .saved ∧ v.a = wg.a ∧ v.tags = wg.tags ∧ v.bars = wg.bars ∧ v.tasks = wg.tasks ∧
      v.index = wg.index ∧ v.launch = wg.launch ∧
      (∀ row col, col < 128 → wg.cbase ≤ row → tgetD 0 v.savedC ((row - wg.cbase) * 128 + col) =
        if wg.warps.any (fun w => !w.retired && decide (w.cwb ≤ row ∧ row < w.cwl)) then tgetD 0 (s.core wg.core).c (row * 128 + col) else 0) ∧
      (∀ (i : Nat) (w : Warp), wg.warps[i]? = some w → w.retired = false → ∃ w' : Warp, v.warps[i]? = some w' ∧ w'.pc = w.pc ∧ w'.em = w.em ∧ w'.splits = w.splits ∧ w'.frame = w.frame ∧
        (w.atSafe = false → w' = w.settleAll) ∧
        (w.atSafe = true → tsorted w.settleAll.v = true → ∀ n k, k < 32 →
          w'.stored (.v n k) = if w.live.getLsbD (n / 4) then w.settleAll.stored (.v n k) else 0)) ∧
      (∀ x ∈ (t.core wg.core).sched.active, x.1.wg ≠ g)) ∧
  (∀ (s : State) g wg core la aOff cb fails, tfind s.wgs g = some wg → s.restoreCore g = some core → s.launch? wg.launch = some la →
    s.room core (s.savedNeed g la.rec_) [] g = some (aOff, cb) → wg.place = .saved → s.tablesFit core g wg = true → wg.savedAttic = [] → wg.savedChains = [] →
    tsorted wg.savedC = true → (∀ e ∈ wg.savedC, e.1 < wg.crows * 128) → tsorted (s.core core).c = true → ∃ t, ∃ v : Workgroup, exec (.workgroupRestore g fails) s = .next t ∧
    tfind t.wgs g = some v ∧ v.place = .resident ∧ v.core = core ∧ v.aOff = (if wg.share.isSome then wg.aOff else aOff) ∧ v.cbase = cb ∧ v.preempt = false ∧ v.a = wg.a ∧ v.tags = wg.tags ∧
    v.bars = wg.bars ∧ t.jobs.pool = s.jobs.pool - wg.saveSize ∧
    (∀ n < wg.crows * 128, tgetD 0 (t.core core).c (cb * 128 + n) = tgetD 0 wg.savedC n) ∧
    (∀ (i : Nat) (w : Warp), wg.warps[i]? = some w → ∃ w' : Warp, v.warps[i]? = some w' ∧ w' = { w with
      h := w'.h, tok := w'.tok, defers := w'.defers, cwb := w'.cwb, cwl := w'.cwl, stopped := false } ∧
      (w.cwl ≠ 0 → w'.cwb = w.cwb - wg.cbase + cb ∧ w'.cwl = w.cwl - wg.cbase + cb)) ∧
    (t.core core).sched.rq = (s.core core).sched.rq ++
      ((wg.warps.zipIdx.filter fun x => !x.1.retired).map fun x => { w := { wg := g, wix := x.2 }, count := 0 }))
end Sys2Proof.Machine

/-- R16, R22, R28, R121, R316, R317, R384-R388, R394: the distributor places the first workgroup in its order on the core with the most free warp
places; retirement counts it or relaunches it; a pre-empted workgroup is saved and restored with its state. -/
def Obligations.Placement : Prop := distributorRules ∧ preemptionRules

namespace Sys2Proof.Machine
/-- The trap of a watchdog at the instruction at which a warp stands (R331, R332). -/
def State.barked (s : State) (cause : Cause) (info : Nat) (r : WarpRef) : State :=
  match s.warp? r with
  | some w =>
    if w.retired = true ∨ w.stopped = true then s
    else s.takeTrap r w.startAt { cause, ilen := s.lengthAt (s.wg r.wg).core (s.wg r.wg).part w.pc / 8, info0 := BitVec.ofNat 32 info, info1 := BitVec.ofNat 32 (info / 2 ^ 32) }
  | none => s
/-- The lane cycle (R47, R325-R327, R329, R330). -/
def laneCycleRules : Prop :=
  (∀ (s : State) core, ((s.core core).gated = true → exec (.laneCycleSchedule core) s = .next s) ∧
    ((s.core core).gated = false → s.gates core = true → exec (.laneCycleSchedule core) s = .next { s with agenda := .row (.clockGate core) :: s.agenda }) ∧
    ((s.core core).gated = false → s.gates core = false → ∃ t, ∃ l : List WarpRef, exec (.laneCycleSchedule core) s = .next t ∧ t = { s with agenda := t.agenda, wgs := t.wgs, cores := t.cores } ∧
      t.agenda = s.agenda ++ l.map Act.turn ∧ (∀ r ∈ l, t.ready r = true) ∧ (t.core core).sched.cycle = (s.core core).sched.cycle + 1 ∧
      (t.core core).progress = (if s.coreWarps core = [] then 0 else (s.core core).progress + 1) ∧
      (∀ r w, s.warp? r = some w → ∃ n, t.warp? r = some { w with now := n }) ∧
      (s.detCore core = true → l.length ≤ 1 ∧ ∀ r ∈ l, (t.core core).sched.detRun = some r) ∧
      (s.detCore core = false → l.length ≤ 4 ∧ (∀ r ∈ l, ∃ n, (r, n) ∈ (t.core core).sched.active) ∧
        l.Pairwise (fun x y => ∃ m n, (x, m) ∈ (t.core core).sched.active ∧ (y, n) ∈ (t.core core).sched.active ∧ t.older (x, m) (y, n) = true) ∧
        ((s.core core).sched.active.length ≤ 8 → (t.core core).sched.active.length ≤ 8)))) ∧
  (∀ (s : State) n rs, s.pickLanes false n 0 rs = rs.take n ∧ (s.pickLanes true n 0 rs).Sublist rs ∧ (s.pickLanes true n 0 rs).length ≤ n ∧
    ((s.pickLanes true n 0 rs).filter fun r => decide (64 < s.nextDraw r)).length ≤ 2) ∧
  (∀ r (rq : List Rq), (∀ x ∈ rq, x.count ≤ 8) → ∃ pre post, rq = pre ++ post ∧ (∀ x ∈ pre, x.count = 8) ∧ (∀ x ∈ post.head?, x.count < 8) ∧
    insertWoken r rq = pre ++ { w := r, count := 0 } :: post.map (fun x => { x with count := min 8 (x.count + 1) })) ∧
  (∀ (k : Sched) r, k.latch [r] = { k with rq := if (r, k.cycle) ∈ k.swapped then insertWoken r k.rq else k.rq ++ [{ w := r, count := 0 }] }) ∧
  (∀ (s : State) core, let k := (s.core core).sched
    ((s.core core).gated = true → exec (.forcedSwap core) s = .next s) ∧
    ((s.core core).gated = false → ∃ t, exec (.forcedSwap core) s = .next t ∧ t = { s with cores := t.cores } ∧
      ((k.rq = [] ∨ k.active = [] ∨ k.cycle + 1 < k.lastSwap + 512) → t.core core = s.core core) ∧
      (∀ b rest, k.rq = b :: rest → k.active ≠ [] → k.lastSwap + 512 ≤ k.cycle + 1 → ∃ a ∈ k.active, (∀ x ∈ k.active, s.older a x = true) ∧
        (t.core core).sched = { k with
          active := (k.active.filter fun x => decide (x.1 ≠ a.1)) ++ [(b.w, k.cycle + 1)], rq := rest ++ [{ w := a.1, count := 0 }], lastSwap := k.cycle + 1 })))
/-- The clock gate and the watchdogs (R328, R331, R332). -/
def gateWatchRules : Prop :=
  (∀ (s : State) core, let idle := (s.core core).gated = false ∧ s.coreWarps core ≠ [] ∧ (∀ r ∈ s.coreWarps core, s.blockedLong r = true) ∧
      (∀ r ∈ s.coreWarps core, ∀ w, s.warp? r = some w → ∀ fl ∈ w.flights, fl.avail ≤ w.now) ∧ s.waveReady core = false
    (idle → exec (.clockGate core) s = .next (s.modCore core fun k => { k with gated := true, wakeAt := none })) ∧
    (¬idle → exec (.clockGate core) s = .next s)) ∧
  (∀ (s : State) core, let k := s.core core; let clk := s.clock.clk
    let event := ∃ r ∈ s.coreWarps core, ∃ w, s.warp? r = some w ∧ w.runs = true ∧ s.waitOver r w = true
    let sleeper (t : Nat) := ∃ r ∈ s.coreWarps core, ∃ w, s.warp? r = some w ∧ w.wait = some (.sleep t false)
    (k.gated = false → exec (.coreWake core) s = .next s) ∧
    (∀ t, k.gated = true → k.wakeAt = some t → exec (.coreWake core) s =
      .next (if t ≤ clk then s.modCore core fun k => { k with gated := false, wakeAt := none } else s)) ∧
    (k.gated = true → k.wakeAt = none → event → exec (.coreWake core) s = .next (s.modCore core fun k => { k with wakeAt := some (clk + 180) })) ∧
    (∀ t, k.gated = true → k.wakeAt = none → ¬event → sleeper t → (∀ u, sleeper u → t ≤ u) → exec (.coreWake core) s =
      .next (if t ≤ clk + 180 then s.modCore core fun k => { k with wakeAt := some (max t clk) } else s))) ∧
  (∀ (s : State) core lim, (∃ r ∈ s.coreWarps core, ∃ la, s.launch? (s.wg r.wg).launch = some la ∧ lim = if la.rec_.wdog = 0 then 2 ^ 32 else la.rec_.wdog) →
    (∀ r ∈ s.coreWarps core, ∀ la, s.launch? (s.wg r.wg).launch = some la → lim ≤ if la.rec_.wdog = 0 then 2 ^ 32 else la.rec_.wdog) →
    exec (.progressStall core) s = .next (if (s.core core).progress < lim then s
      else (s.coreWarps core).foldl (fun u r => u.barked .progressStall (lim % 2 ^ 32) r) (s.modCore core fun k => { k with progress := 0 }))) ∧
  (∀ (s : State) core launch la, s.launch? launch = some la → let rs := (s.coreWarps core).filter fun r => (s.wg r.wg).launch = launch
    let due := la.rec_.wallns ≠ 0 ∧ rs ≠ [] ∧ ∀ r ∈ rs, s.blockedLong r = true ∧ ∀ w, s.warp? r = some w → w.waitAt + la.rec_.wallns ≤ s.time
    (due → exec (.waitLimit core launch) s = .next (rs.foldl (fun u r => u.barked .waitLimit la.rec_.wallns r) s)) ∧
    (¬due → exec (.waitLimit core launch) s = .next s))
end Sys2Proof.Machine

/-- R47, R325-R332: a lane cycle starts at most four instructions, of ready active warps, oldest first and at most two heavy ones above the soft
limit; woken and forced swaps; the clock gate and its wake; the two watchdogs. -/
def Obligations.Scheduling : Prop := laneCycleRules ∧ gateWatchRules

/-! System instructions and traps -/

namespace Sys2Proof.Machine
/-- SRD gives each executing thread the value of the register, one lane cycle latency class with the integer instructions (R23, R379). -/
def srdRule : Prop :=
  ∀ f s w, Ready 0xE0 f s w → let c := ctxOf 0xE0 f s w; let b := w.begun
    ∃ t w', exec (.srd f) s = .next t ∧ OnlyWarp s t s.cur ∧ t.warp? s.cur = some w' ∧ Retired f b w' (nextPc 0xE0 f w) ∧
    (∀ x ∈ c.lanes, ∀ k n, (k, n) ∈ (c.dest b x.1).zipIdx → k.constant = false →
      w'.final k = BitVec.ofNat 32 (((s.started w).special s.cur b f.a.toNat x.1 (c.readTime x.2)) >>> (32 * n))) ∧
    (∀ k, (∀ x ∈ c.lanes, k ∉ c.dest b x.1) → w'.final k = b.final k) ∧ w'.finalStatus = b.finalStatus
/-- The special registers (R10, R11, R15, R16, R23-R26, R39, R122, R329). -/
def specialRule : Prop :=
  ∀ (s : State) r w t n, let v := fun code => s.special r w code t n; let g := s.wg r.wg
    v 0x140 = (w.em &&& w.present).toNat ∧ v 0x141 = w.xi.toNat ∧ v 0x142 = s.clock.clk % 2 ^ 64 ∧ v 0x143 = s.time ∧ v 0x144 = t ∧
    v 0x145 = r.wix ∧ v 0x146 = g.gx ∧ v 0x147 = g.gy ∧ v 0x148 = g.gz ∧
    (∀ la, s.launch? g.launch = some la → v 0x149 = la.rec_.nx ∧ v 0x14A = la.rec_.ny ∧ v 0x14B = la.rec_.nz) ∧
    v 0x14C = w.cwb ∧ v 0x14D = w.cwl ∧ v 0x14E = g.core ∧ v 0x14F = g.core / 8 ∧ v 0x150 = g.core / 192 ∧ v 0x151 = g.part ∧
    (v 0x152 = 1 ↔ s.flag r.wg (·.det) = true) ∧ v 0x152 ≤ 1 ∧
    (∀ i < 32, (v 0x153).testBit i = true ↔ w.status.getLsbD i = true ∨ ∃ fl ∈ w.flagsIn, fl.avail ≤ n ∧ fl.flags.getLsbD i = true) ∧
    asI 32 (v 0x154) = asI 8 w.tbase.toNat
/-- The writes of SWR (R24-R26, R39, R379). -/
def swrRule : Prop :=
  ∀ f s w x, ReadyUni 0xE1 f s w x → let b := w.begun; let pc := nextPc 0xE1 f w
    let v : Word := BitVec.ofNat 32 ((ctxOf 0xE1 f s w).valA b x)
    (f.d = 0x140 → v &&& b.present ≠ 0 → Ends (.swr f) f s s { b with em := v &&& b.present } pc) ∧
    (f.d = 0x141 → Ends (.swr f) f s s { b with xi := v } pc) ∧
    (f.d = 0x153 → Ends (.swr f) f s s { b with status := b.status &&& ~~~v } pc) ∧
    (f.d = 0x154 → Ends (.swr f) f s s { b with tbase := v.truncate 8 } pc) ∧
    (f.d ∉ [0x140, 0x141, 0x153, 0x154] → Ends (.swr f) f s s b pc) ∧
    (f.d = 0x140 → v &&& b.present = 0 → b.retired = false → ∃ t w', exec (.swr f) s = .next t ∧ t.warp? s.cur = some w' ∧
      t = { s with wgs := t.wgs, cores := t.cores, clus := t.clus } ∧ (∀ q, q ≠ s.cur → t.warp? q = s.warp? q) ∧
      let r := endRule b.exited b.never b.splits
      (∀ p, r.2.2 = some (p, true) → w'.splits = r.1 ∧ w'.em = r.2.1 ∧ w'.pc = p ∧ w'.retired = b.retired) ∧
      (∀ p, r.2.2 = some (p, false) → w'.splits = r.1 ∧ w'.em = r.2.1 ∧ w'.retired = b.retired ∧
        w'.pc = p + BitVec.ofNat 57 (s.lengthAt (s.wg s.cur.wg).core (s.wg s.cur.wg).part p)) ∧
      (r.2.2 = none → w'.retired = true ∧ w'.em = 0))
/-- SRD.FRAME and SWR.FRAME (R375, R379). -/
def frameRule : Prop :=
  (∀ f s w x, ReadyUni 0xE0 f s w x → let c := ctxOf 0xE0 f s w; let b := w.begun; let k := c.valA b x % 2 ^ 32
    ((w.frame = none ∨ 31 < k) → Traps (.srdFrame f) 0xE0 f s w { cause := .trapState }) ∧
    (∀ fr, w.frame = some fr → k ≤ 31 → ∃ t w', exec (.srdFrame f) s = .next t ∧ OnlyWarp s t s.cur ∧ t.warp? s.cur = some w' ∧
      Retired f b w' (nextPc 0xE0 f w) ∧ (∀ r, (r, 0) ∈ (c.dest b x.1).zipIdx → r.constant = false → w'.final r = fr.getD k 0) ∧
      (∀ r, r ∉ c.dest b x.1 → w'.final r = b.final r))) ∧
  (∀ f s w x, ReadyUni 0xE1 f s w x → let c := ctxOf 0xE1 f s w; let b := w.begun; let k := c.valA b x % 2 ^ 32
    let v : Word := BitVec.ofNat 32 (c.valB b x)
    let m : Word := if k ∈ [4, 5, 6, 7, 8, 10, 11] then 0xFFFFFFFF else if k = 9 then 0xFF else if 16 ≤ k ∧ k ≤ 23 then 0x7F7F7F7F else 0
    ((w.frame = none ∨ 31 < k) → Traps (.swrFrame f) 0xE1 f s w { cause := .trapState }) ∧
    (∀ fr, w.frame = some fr → k ≤ 31 →
      Ends (.swrFrame f) f s s { b with frame := some (fr.set k ((fr.getD k 0 &&& ~~~m) ||| (v &&& m))) } (nextPc 0xE1 f w)))
/-- The checksum after one more value (R397). -/
def checksum (c v : Nat) : Nat := let x := (Nat.xor c v * 0xA5B35C471D9E6F2B) % 2 ^ 64; Nat.xor x (x / 2 ^ 32)
/-- The exact value of a number of FP32 that is neither NaN nor infinite. -/
def finite32 (a : Nat) : Option ℚ := match unpack fmtF32 a with | .zero _ => some 0 | .fin neg m e => some ((if neg then -1 else 1) * m * (2 : ℚ) ^ e) | _ => none
/-- CHECK.NEAR passes (R398). -/
def near (a b c : Nat) : Prop :=
  a = b ∨ (isNan fmtF32 a = true ∧ isNan fmtF32 b = true) ∨
  (isNan fmtF32 a = false ∧ isNan fmtF32 b = false ∧ unpack fmtF32 c = .inf false) ∨
  ∃ x y t, finite32 a = some x ∧ finite32 b = some y ∧ finite32 c = some t ∧ |x - y| ≤ t
/-- CSACC, CHECK and PMARK (R382, R397, R398). -/
def checkRules : Prop :=
  (∀ f s w, Ready 0xD8 f s w → let c := ctxOf 0xD8 f s w; let b := w.begun
    (c.lanes = [] → Ends (.csacc f) f s s b (nextPc 0xD8 f w)) ∧
    (∀ x xs, c.lanes = x :: xs → (c.dest b x.1).length = 2 → Ends (.csacc f) f s { s with fresh := s.fresh + 1 }
      (b.returns s.fresh (c.dest b x.1) (c.lanes.foldl (fun acc y => checksum acc (c.valA b y % 2 ^ 64)) ((readKeys b (c.dest b x.1) c.start).1 % 2 ^ 64)))
      (nextPc 0xD8 f w))) ∧
  (∀ f s w, Ready 0xD9 f s w → let c := ctxOf 0xD9 f s w; let b := w.begun
    let vals (x : Nat × Nat) : Nat × Nat × Nat := if f.m = 2 then (c.elemA b x fmtF32 32 0, c.elemB b x fmtF32 32 0, c.elemC b x fmtF32 32 0) else (c.valA b x, c.valB b x, 0)
    let passes (x : Nat × Nat) : Prop := if f.m = 2 then near (vals x).1 (vals x).2.1 (vals x).2.2 else (vals x).1 = (vals x).2.1
    ((∀ x ∈ c.lanes, passes x) → Ends (.check f) f s s b (nextPc 0xD9 f w)) ∧
    (∀ x ∈ c.lanes, ¬passes x → (∀ y ∈ c.lanes, ¬passes y → x.1 ≤ y.1) → (c.lanes.map (·.1)).Pairwise (· < ·) → ∃ m : Mask,
      Traps (.check f) 0xD9 f s w
        { cause := if f.m = 2 then .checkNear else .checkEq, lane := if c.uni then 0 else x.1, mask := m, info0 := BitVec.ofNat 32 (vals x).1
          info1 := BitVec.ofNat 32 ((vals x).1 / 2 ^ 32), info2 := BitVec.ofNat 32 (vals x).2.1 } ∧
      (c.uni = true → m = 0) ∧ (c.uni = false → ∀ i < 32, m.getLsbD i = true ↔ ∃ y ∈ c.lanes, y.1 = i ∧ ¬passes y))) ∧
  (∀ f s w x, ReadyUni 0xE6 f s w x → let c := ctxOf 0xE6 f s w; let b := w.begun; let k := c.valA b x % 8
    let s1 := s.modClu (cluOf (s.wg s.cur.wg).core) fun q => { q with marks := tsetD 0 q.marks k (tgetD 0 q.marks k + 1) }
    (w.earlier ≠ [] → Waits (.pmark f) 0xE6 f s w .drain) ∧
    (w.earlier = [] → (∀ fl ∈ b.flights, fl.avail ≤ w.startAt) → (∀ fl ∈ b.flagsIn, fl.avail ≤ w.startAt) →
      Ends (.pmark f) f s (if c.dest b x.1 = [] then s1 else { s1 with fresh := s.fresh + 1 }) (b.returns s.fresh (c.dest b x.1) (s.clock.clk % 2 ^ 64)) (nextPc 0xE6 f w)) ∧
    (w.earlier = [] → ∀ n, w.startAt < n → n ∈ b.flights.map (·.avail) ++ b.flagsIn.map (·.avail) →
      (∀ m ∈ b.flights.map (·.avail) ++ b.flagsIn.map (·.avail), m ≤ n) →
      exec (.pmark f) s = .next ((s.started w).modWarp s.cur fun v => { v with next := max v.next n })))
end Sys2Proof.Machine

/-- R23-R26, R39, R375, R379, R382, R396-R398: the special registers and how SRD and SWR read and write them, the trap frame's words, the checksum,
the checks and the marker counters. -/
def Obligations.SystemRegisters : Prop := srdRule ∧ specialRule ∧ swrRule ∧ frameRule ∧ checkRules

namespace Sys2Proof.Machine
/-- What stands in the frame of the trap `x` of warp `w` taken at TIME `time` (R375). -/
structure FrameOf (fr : List Word) (w : Warp) (time : Nat) (x : TrapInfo) : Prop where
  size   : fr.length = 32
  head   : (fr.getD 0 0).toNat = x.cause.code + 2 ^ 8 * x.lane + (if x.defer then 2 ^ 13 else 0) + 2 ^ 16 * x.ilen + 2 ^ 18 * w.splits.length
  mask   : fr.getD 1 0 = x.mask
  pc     : (fr.getD 2 0).toNat + 2 ^ 32 * (fr.getD 3 0).toNat = w.pc.toNat
  npc    : (fr.getD 4 0).toNat + 2 ^ 32 * (fr.getD 5 0).toNat = (if x.after then (w.pc + BitVec.ofNat 57 (8 * x.ilen)).toNat else w.pc.toNat)
  em     : fr.getD 6 0 = w.em
  xi     : fr.getD 7 0 = w.xi
  status : fr.getD 8 0 = w.finalStatus
  tbase  : fr.getD 9 0 = w.tbase.zeroExtend 32
  link   : fr.getD 10 0 = w.settleAll.stored (.s 62)
  stack  : fr.getD 11 0 = w.settleAll.stored (.s 63)
  hname  : fr.getD 12 0 = x.hname
  info   : fr.getD 13 0 = x.info0 ∧ fr.getD 14 0 = x.info1 ∧ fr.getD 15 0 = x.info2
  pbits  : ∀ t < 32, ∀ k < 8, (fr.getD (16 + t / 4) 0).getLsbD (8 * (t % 4) + k) = (decide (k ≠ 7) && decide (w.settleAll.stored (.p k t) = 1))
  time   : (fr.getD 24 0).toNat + 2 ^ 32 * (fr.getD 25 0).toNat = time
  rest   : ∀ k, 26 ≤ k → fr.getD k 0 = 0
/-- Taking a trap (R374, R393). -/
def trapRule : Prop :=
  ∀ (s : State) r w wg start x, tfind s.wgs r.wg = some wg → s.warp? r = some w →
    let h := (s.handlerOf wg.core wg.part w).toNat
    let good := h ≠ 0 ∧ h < 2 ^ 57 ∧ h % 8 = 0 ∧ h / 2 ^ 32 = w.pc.toNat / 2 ^ 32
    (w.frame ≠ none → s.takeTrap r start x = (s.modWg r.wg fun g => { g with inner := some x.cause.code }).kill r.wg 0xB3 w.pc.toNat) ∧
    (w.frame = none → ¬good → s.takeTrap r start x = s.kill r.wg 0xB4 w.pc.toNat) ∧
    (w.frame = none → good → x.lane < 32 → x.ilen < 4 → w.splits.length ≤ 64 →
      (s.waits = [] ∨ ∀ q ∈ s.queues, ∀ y ∈ q.2, y.1 ≠ r) → ∃ w' fr,
      (s.takeTrap r start x).warp? r = some w' ∧ w'.frame = some fr ∧ FrameOf fr w s.time x ∧
      w'.em = w.present ∧ w'.pc.toNat = h ∧ start + 10 ≤ w'.next ∧ w'.wait = none ∧ w'.tr = [] ∧
      w' = { w.settleAll with frame := some fr, em := w.present, pc := w'.pc, wait := none, tr := [], heldLanes := w'.heldLanes, doneLanes := []
                              heldKept := w'.heldKept, kept := none, next := w'.next, atSafe := false, h := w'.h } ∧
      ((∀ id, w.wait ≠ some (.spawn id)) → w'.h = w.h) ∧
      (∀ q, q ≠ r → (s.takeTrap r start x).warp? q = s.warp? q) ∧
      ((∀ q ∈ s.queues, ∀ y ∈ q.2, y.1 ≠ r) → (s.takeTrap r start x).mem = s.mem) ∧
      (∀ e ∈ (s.takeTrap r start x).waits, e.w ≠ r))
/-- Killing a workgroup (R393). -/
def killRule : Prop :=
  ∀ (s : State) g wg cause addr, tfind s.wgs g = some wg → (wg.killed.isSome → s.kill g cause addr = s) ∧
    (wg.killed = none → ∃ wg', tfind (s.kill g cause addr).wgs g = some wg' ∧ wg'.killed = some cause ∧ wg'.warps.length = wg.warps.length ∧
      (∀ w ∈ wg'.warps, w.retired = true ∧ w.em = 0 ∧ w.wait = none ∧ ∀ a ∈ w.accs, a.kind ≠ .read) ∧ wg'.bars = [] ∧ wg'.subs = [] ∧
      wg'.baton = { holder := none, reserved := none } ∧
      (∀ c ∈ (s.kill g cause addr).cmds, c.2.wg = g → c.2.status = 0 → c.2.cancel = true) ∧
      (∀ core, ∀ t ∈ ((s.kill g cause addr).core core).tasks, t.origin ≠ g) ∧
      (∀ g' v, tfind s.wgs g' = some v → v.kind = .grid → g' ≠ g → wg.kind = .grid → s.waits = [] → ∃ v', tfind (s.kill g cause addr).wgs g' = some v' ∧
        v'.killed = v.killed ∧ v'.warps = v.warps ∧ v'.a = v.a) ∧
      (∃ u : State, s.kill g cause addr =
        u.errRecord { part := wg.part, kind := 3, prov := (if cause = 0xB5 then 0x300 else if cause = 0xB6 then 0x400 else 0),
                        fid := 0, addr := addr, cause := cause, core := wg.core, time := s.time }) ∧
      (tfind s.parts wg.part = none → s.queues = [] → (s.kill g cause addr).mem = s.mem))
/-- TRAP, BRK, TRAPRET and an unassigned opcode (R55, R380, R381). -/
def trapInstrRules : Prop :=
  (∀ f s w x, ReadyUni 0xE2 f s w x →
    Traps (.trap f) 0xE2 f s w { cause := .trapSw, after := true, info0 := BitVec.ofNat 32 ((ctxOf 0xE2 f s w).valA w.begun x) }) ∧
  (∀ f s w x, ReadyUni 0xE4 f s w x → Traps (.brk f) 0xE4 f s w { cause := .brk, after := true }) ∧
  (∀ (word : DWord) s w, let f := fieldsOfWord word 0 0; let op := opOfWord word; assigned op = false → s.warp? s.cur = some w → w.present ≠ 0 →
    inProgress w.wait = false → busyTokens f w.begun = [] → pendingKeys op f w.begun = [] → (∀ e, deferDue s.cmds w.begun op f e = none) →
    Traps (.unassignedOpcode word) op f s w { cause := .opcodeIllegal }) ∧
  (∀ f s w x, ReadyUni 0xE3 f s w x → w.frame = none →
    Traps (.trapretResume f) 0xE3 f s w { cause := .trapState } ∧ Traps (.trapretKill f) 0xE3 f s w { cause := .trapState }) ∧
  (∀ f s w x fr, ReadyUni 0xE3 f s w x → w.frame = some fr → let b := w.begun
    let npc := (fr.getD 4 0).toNat + 2 ^ 32 * (fr.getD 5 0).toNat
    let good := npc % 8 = 0 ∧ npc < 2 ^ 57 ∧ npc / 2 ^ 32 = w.pc.toNat / 2 ^ 32 ∧ w.splits.length = (fr.getD 0 0).toNat / 2 ^ 18 % 2 ^ 7
    let s1 := (ctxOf 0xE3 f s w).charge (s.started w) 0
    exec (.trapretKill f) s = .next (s1.kill s.cur.wg ((fr.getD 0 0).toNat % 2 ^ 8) w.pc.toNat) ∧
    (¬good → exec (.trapretResume f) s = .next (s1.kill s.cur.wg 0xB4 w.pc.toNat)) ∧
    (good → ∃ t w', exec (.trapretResume f) s = .next t ∧ OnlyWarp s t s.cur ∧ t.warp? s.cur = some w' ∧
      w'.frame = none ∧ w'.pc.toNat = npc ∧ w'.em = fr.getD 6 0 &&& b.present ∧ w'.xi = fr.getD 7 0 ∧ w'.status = fr.getD 8 0 &&& 0x7F ∧
      w'.tbase = (fr.getD 9 0).truncate 8 ∧ w.startAt + 10 ≤ w'.next ∧ w'.splits = b.splits ∧ w'.h = b.h ∧ w'.v = b.settleAll.v ∧
      (tsorted b.settleAll.s = true → w'.stored (.s 62) = fr.getD 10 0 ∧ w'.stored (.s 63) = fr.getD 11 0 ∧
        ∀ n < 62, w'.stored (.s n) = b.settleAll.stored (.s n)) ∧
      (tsorted b.settleAll.p = true → ∀ k < 7, ∀ n < 32, w'.stored (.p k n) =
        if b.present.getLsbD n then BitVec.ofBool ((fr.getD (16 + n / 4) 0).getLsbD (8 * (n % 4) + k)) |>.zeroExtend 32 else b.settleAll.stored (.p k n))))
end Sys2Proof.Machine

/-- R55, R374-R377, R380, R381, R393: taking a trap, the frame it leaves, the kills of a second trap and of a bad handler address, and the
return. -/
def Obligations.TrapEntry : Prop := trapRule ∧ killRule ∧ trapInstrRules

/-! Page walks, page faults and errors -/

namespace Sys2Proof.Machine
/-- A physical range of the frames of a partition (R349). -/
def inFrames (p : Partition) (pa n : Nat) : Prop := ∀ f, pa / 2 ^ 21 ≤ f → f ≤ (pa + n - 1) / 2 ^ 21 → f ∈ p.frames
/-- The queue at `q` has room for a record of `n` bytes (R358): its SIZE is lawful, and a partition's lies in its frames (R349, R350). -/
def HasRoom (s : State) (p : Option Partition) (q n : Nat) : Prop :=
  (∃ k ≤ 16, s.ringSize q = 2 ^ k) ∧ s.ringUsed q < s.ringSize q ∧
    ∀ x, p = some x → inFrames x q 32 ∧ inFrames x (q + 32 + n * (s.ownTail q % s.ringSize q)) n
/-- The entry of a page table that a walk reads at level `lvl` of table `t` (R352, R354). -/
def entryAt (s : State) (lvl va t : Nat) : Nat :=
  ofBytes (s.view none (t + 8 * (if lvl = 3 then va / 2 ^ 45 % 2 ^ 12 else if lvl = 2 then va / 2 ^ 33 % 2 ^ 12 else if lvl = 1 then va / 2 ^ 21 % 2 ^ 12 else va / 2 ^ 16 % 2 ^ 5)) 8)
/-- The PA of an entry (R353). -/
def entryPa (e : Nat) : Nat := e / 2 ^ 8 % 2 ^ 48 * 2 ^ 8
/-- The entry breaks a rule of R353 or R354; a PA of space 3 names nothing (R350, notes/assumptions/16.md). -/
def entryBad (p : Partition) (lvl e : Nat) : Prop :=
  let pa := entryPa e
  let sp := pa / 2 ^ 54
  let leaf := e.testBit 1 = true
  let plain := e.testBit 5 = true
  let key := e / 2 ^ 56
  e.testBit 6 = true ∨ e.testBit 7 = true ∨ (2 ≤ lvl ∧ leaf) ∨ (lvl = 0 ∧ ¬leaf) ∨ sp = 3 ∨ (sp = 0 ∧ pa / 2 ^ 21 ∉ p.frames) ∨
  (leaf ∧ (pa % (if lvl = 0 then 2 ^ 16 else 2 ^ 21) ≠ 0 ∨ (sp ≠ 0 ∧ ¬plain) ∨ (sp = 0 ∧ ¬plain ∧ ¬(p.kslot0 ≤ key ∧ key < p.kslot0 + p.kslotN)))) ∨
  (¬leaf ∧ (e / 2 ^ 2 % 2 ^ 4 ≠ 0 ∨ key ≠ 0 ∨ pa % (if lvl = 1 then 2 ^ 8 else 2 ^ 15) ≠ 0 ∨ sp ≠ 0))
/-- A walk level by level (R352-R354). -/
def walkRule : Prop :=
  (∀ (s : State) part va, tfind s.parts part = none → s.walk part va = .bad) ∧
  (∀ (s : State) part p va, tfind s.parts part = some p → s.walk part va = s.walkFrom p va [3, 2, 1, 0] p.ctxroot) ∧
  ∀ (s : State) p va lvl rest t, lvl ≤ 3 → let e := entryAt s lvl va t
    (e.testBit 0 = false → s.walkFrom p va (lvl :: rest) t = .fault) ∧
    (e.testBit 0 = true → entryBad p lvl e → s.walkFrom p va (lvl :: rest) t = .bad) ∧
    (e.testBit 0 = true → ¬entryBad p lvl e → e.testBit 1 = true →
      s.walkFrom p va (lvl :: rest) t = .page (if lvl = 0 then 16 else 21) (BitVec.ofNat 64 e)) ∧
    (e.testBit 0 = true → ¬entryBad p lvl e → e.testBit 1 = false → s.walkFrom p va (lvl :: rest) t = s.walkFrom p va rest (entryPa e))
/-- The warp whose wait for walk `id` is over: it waits for the others it needs, or goes on. -/
def walked (w : Warp) (id : Nat) (ids : List Nat) : Warp :=
  { w with wait := if ids.filter (· ≠ id) = [] then none else some (.walk (ids.filter (· ≠ id))) }
/-- The end of a walk, and the record of one that failed (R332, R355-R358). -/
def walkEndRule : Prop :=
  (∀ (s : State) id k, tfind s.walks id = some k → k.state ≠ .walking → exec (.pageWalkComplete id) s = .next s) ∧
  (∀ (s : State) id, tfind s.walks id = none → exec (.pageWalkComplete id) s = .next s ∧ exec (.faultRecordWrite id) s = .next s) ∧
  (∀ (s : State) id k, tfind s.walks id = some k → k.state = .walking →
    (s.walk k.part k.va = .fault → ∃ t, exec (.pageWalkComplete id) s = .next t ∧
      t = { s with wgs := t.wgs, walks := tmodify s.walks id fun k => { k with state := .faulted } } ∧
      ∀ r w, s.warp? r = some w → t.warp? r = some (if .warp r ∈ k.joined then { w with waitAt := s.time } else w)) ∧
    (s.walk k.part k.va = .bad → ∃ t, exec (.pageWalkComplete id) s = .next t ∧ t = { s with wgs := t.wgs, cmds := t.cmds, walks := terase s.walks id } ∧
      ∀ r w ids, .warp r ∈ k.joined → s.warp? r = some w → w.wait = some (.walk ids) → id ∈ ids →
        t.warp? r = some { walked w id ids with tr := (k.va / 65536, .badPte) :: w.tr }) ∧
    (∀ bits e, s.walk k.part k.va = .page bits e → ∃ t, exec (.pageWalkComplete id) s = .next t ∧
      t = { s with wgs := t.wgs, cmds := t.cmds, cores := t.cores, clus := t.clus, fresh := t.fresh, walks := terase s.walks id } ∧
      ∀ r w, .warp r ∈ k.joined → s.warp? r = some w →
        t.tlbAt (s.wg r.wg).core k.part k.va = some (transOf bits e k.va) ∧
        (∀ ids, w.wait = some (.walk ids) → id ∈ ids → t.warp? r = some (walked w id ids)) ∧
        ((∀ ids, w.wait = some (.walk ids) → id ∉ ids) → t.warp? r = some w))) ∧
  (∀ (s : State) id k p, tfind s.walks id = some k → tfind s.parts k.part = some p →
    ((k.state ≠ .faulted ∨ ¬HasRoom s (some p) p.fq 32) → exec (.faultRecordWrite id) s = .next s) ∧
    (k.state = .faulted → HasRoom s (some p) p.fq 32 →
      exec (.faultRecordWrite id) s = .next { s.ringPut p.fq (toBytes 32 (k.va + 2 ^ 64 * k.kind + 2 ^ 72 * k.part + 2 ^ 80 * (k.joined.length % 2 ^ 16) +
          2 ^ 96 * (p.nextFid % 2 ^ 32) + 2 ^ 128 * k.core)) with
        walks := tmodify s.walks id fun k => { k with state := .parked p.nextFid }
        parts := tmodify s.parts k.part fun p => { p with nextFid := (p.nextFid + 1) % 2 ^ 32 } })) ∧
  (∀ (s : State) hdr rec, s.ringPut hdr rec =
    { (s.gWrite none (hdr + 32 + rec.length * (s.ownTail hdr % s.ringSize hdr)) rec).gWrite none hdr (toBytes 4 (s.ownTail hdr + 1)) with
      errs := { s.errs with tails := tput s.errs.tails hdr ((s.ownTail hdr + 1) % 2 ^ 32) } }) ∧
  (∀ (s : State) hdr, s.ownTail hdr = match tfind s.errs.tails hdr with | some n => n | none => s.ringTail hdr)
end Sys2Proof.Machine

/-- R352-R358: the page walk, what its end brings to the warps and commands that joined it, and the fault record; a queue that is full holds the
fault in its walker. -/
def Obligations.PageWalks : Prop := walkRule ∧ walkEndRule

namespace Sys2Proof.Machine
/-- The count of an item after a corrected error at TIME `t`, and whether the item is found lasting (R399). -/
def countError (c : Corr) (t : Nat) : Corr × Bool :=
  if c.count = 0 ∨ c.since + 2 ^ 32 ≤ t then ({ count := 1, since := t }, false)
  else if c.count + 1 = 3 then ({ count := 0, since := c.since }, true) else ({ count := c.count + 1, since := c.since }, false)
/-- An error record is written at TAIL of the error queue, or dropped and counted (R391). -/
def errRecordRule : Prop :=
  ∀ (s : State) (e : ErrRec), (tfind s.parts e.part = none → s.errRecord e = s) ∧
    ∀ p, tfind s.parts e.part = some p → let q := p.fq + 32 * (s.ringSize p.fq + 1); let d := tgetD 0 s.errs.dropped e.part
      (HasRoom s (some p) q 32 →
        let u := s.ringPut q (toBytes 32 (e.kind + 2 ^ 8 * (e.prov % 2 ^ 12) + 2 ^ 32 * (e.fid % 2 ^ 32) + 2 ^ 64 * (e.addr % 2 ^ 64) + 2 ^ 128 * (e.cause % 2 ^ 8) +
          2 ^ 136 * (e.core % 2 ^ 9) + 2 ^ 160 * (d % 2 ^ 16) + 2 ^ 192 * (e.time % 2 ^ 64)))
        s.errRecord e = { u with errs := { u.errs with dropped := terase s.errs.dropped e.part } }) ∧
      (¬HasRoom s (some p) q 32 → s.errRecord e = { s with errs := { s.errs with dropped := tput s.errs.dropped e.part (d + 1) } })
/-- The classes of the units whose data in HBM space may be lost (R389). -/
def sectorUnits : List (ErrUnit × Nat) := [(.hbm, 0), (.homeCache, 1), (.clusterCache, 2), (.chl, 8), (.fabric, 9)]
/-- Uncorrectable errors (R389, R392). -/
def uncorrectedRule : Prop :=
  (∀ (s : State) part p cls, tfind s.parts part = some p → s.newTag part cls = cls * 256 + s.ownTail (p.fq + 32 * (s.ringSize p.fq + 1)) % 256) ∧
  (∀ (s : State) pa part p u cls, (u, cls) ∈ sectorUnits → tfind s.parts part = some p → pa / 2 ^ 21 ∈ p.frames → (∀ q ∈ s.parts, pa / 2 ^ 21 ∈ q.2.frames → q.1 = part) →
    (part, p) ∈ s.parts → ∃ t, exec (.uncorrectableError (.sector pa u)) s = .next t ∧
      t = { s.errRecord { part, kind := 1, prov := s.newTag part cls, fid := 0, addr := pa, cause := 0, core := 0x1FF, time := s.time } with gmeta := t.gmeta } ∧
      (∀ k, k ≠ pa / 32 → tfind t.gmeta.poison k = tfind (s.errRecord
        { part, kind := 1, prov := s.newTag part cls, fid := 0, addr := pa, cause := 0, core := 0x1FF, time := s.time }).gmeta.poison k) ∧
      ∃ tag, tfind t.gmeta.poison (pa / 32) = some (tag, 0) ∧ tag ≤ s.newTag part cls) ∧
  (∀ (s : State) core mat g, let tag := s.newTag (s.partOfClu (core / 8)) 6
    exec (.uncorrectableError (.slot core mat g)) s = .next ((s.coreRecord core 1 tag (2 ^ 24 * mat + 2 ^ 12 * (g / 3) + 1280 * (g % 3))).modCore core fun k =>
      { k with slotTag := tput k.slotTag (mat * 11520 + g) (match tfind k.slotTag (mat * 11520 + g) with | some old => min old (tag + 1) | none => tag + 1) })) ∧
  (∀ (s : State) core mat axis line, let tag := s.newTag (s.partOfClu (core / 8)) 7
    exec (.uncorrectableError (.atticLine core mat axis line)) s =
      .next ((s.coreRecord core 1 tag (2 ^ 24 * mat + if axis = 0 then 0xF00 + line else 2 ^ 12 * (0xF00 + line))).modAttic core mat axis fun a =>
        { a with poison := tput a.poison line (match tfind a.poison line with | some old => min old (tag + 1) | none => tag + 1) })) ∧
  (∀ (s : State) core addr, (∀ x ∈ s.wgs, x.2.core = core → x.2.place = .resident → x.2.share = none → addr < x.2.aOff ∨ x.2.aOff + x.2.aSize ≤ addr) →
    exec (.uncorrectableError (.aWord core addr)) s = .next s) ∧
  (∀ (s : State) core addr g wg, (g, wg) ∈ s.wgs → wg.core = core → wg.place = .resident → wg.share = none → wg.aOff ≤ addr → addr < wg.aOff + wg.aSize →
    (∀ x ∈ s.wgs, x.1 ≠ g → x.2.core = core → x.2.place = .resident → x.2.share = none → addr < x.2.aOff ∨ x.2.aOff + x.2.aSize ≤ addr) →
    (∀ x ∈ s.wgs, x.1 = g → x.2 = wg) → exec (.uncorrectableError (.aWord core addr)) s = .next (s.kill g 0xB5 (addr - wg.aOff))) ∧
  (∀ (s : State) r w, s.warp? r = some w → exec (.uncorrectableError (.register r)) s =
    .next (if w.retired = true ∨ (s.wg r.wg).place = .saved then s else s.kill r.wg 0xB6 w.pc.toNat)) ∧
  (∀ (s : State) core row col, let tag := s.newTag (s.partOfClu (core / 8)) 5
    exec (.uncorrectableError (.cElem core row col)) s = .next ((s.coreRecord core 1 tag (256 * row + col)).modCore core fun k =>
      { k with cTag := tput k.cTag (128 * row + col) (match tfind k.cTag (128 * row + col) with | some old => min old (tag + 1) | none => tag + 1) })) ∧
  (∀ (s : State) id c d ds, tfind s.cmds id = some c → c.status = 0 → c.out = d :: ds → let tag := s.newTag c.part 10
    exec (.uncorrectableError (.buffer id)) s = .next ((s.coreRecord c.core 1 tag d.pa).modCmd id fun c => { c with
      prov := lowerTag c.prov (some tag), out := c.out.map fun d => { d with tag := lowerTag d.tag (some tag) } })) ∧
  (∀ (s : State) id n, tfind s.trees id = some n → let tag := s.newTag n.part 11
    exec (.uncorrectableError (.tree id)) s = .next { s.paRecord n.base 1 tag with
      trees := tmodify (s.paRecord n.base 1 tag).trees id fun n => { n with poison := lowerTag n.poison (some tag) } })
/-- Corrected errors, and sparing (R399, R400). -/
def correctedRule : Prop :=
  (∀ (s : State) core mat g flips, let i := mat * 11520 + g; exec (.correctedError (.slot core mat g) flips) s =
    .next (s.modCore core fun k => { k with flips := tsetD 0 k.flips i (tgetD 0 k.flips i ^^^ flips) })) ∧
  (∀ (s : State) core item, let r := countError (tgetD { count := 0, since := 0 } (s.core core).corr item) s.time
    s.countCorr core item = (s.modCore core fun k => { k with
      corr := tput k.corr item r.1, lasting := if r.2 = true then tput k.lasting item true else k.lasting }, r.2)) ∧
  (∀ (s : State) core mat axis p flips, let r := s.countCorr core (2 ^ 24 + (mat * 2 + axis) * 256 + p)
    exec (.correctedError (.atticLine core mat axis p) flips) s =
      .next (if r.2 = true then r.1.modAttic core mat axis fun a => { a with lasting := tput a.lasting p true } else r.1)) ∧
  (∀ (s : State) core row flips, let r := s.countCorr core (2 ^ 25 + row); let used := tgetD 0 (s.core core).spares 160
    (r.2 = false → exec (.correctedError (.aRow core row) flips) s = .next r.1) ∧
    (r.2 = true → 16 ≤ used → exec (.correctedError (.aRow core row) flips) s = .next (r.1.coreRecord core 5 (3 * 256) (row * 128))) ∧
    (r.2 = true → used < 16 → exec (.correctedError (.aRow core row) flips) s =
      .next ((r.1.modCore core fun k => { k with spares := tput k.spares 160 (used + 1), lasting := terase k.lasting (2 ^ 25 + row) }).coreRecord core 4 (3 * 256) (row * 128)))) ∧
  (∀ (s : State) core group flips, let r := s.countCorr core (2 ^ 26 + group)
    let used := tgetD 0 (s.core core).spares 161
    let idle := ∀ x ∈ s.wgs, x.2.core = core → x.2.place ≠ .saved → ∀ w ∈ x.2.warps, w.retired = true
    (r.2 = false → exec (.correctedError (.regGroup core group) flips) s = .next r.1) ∧
    (r.2 = true → (s.core core).worn = [] → idle → used < Config.spareGroups → exec (.correctedError (.regGroup core group) flips) s =
      .next ((r.1.modCore core fun k => { k with spares := tput k.spares 161 (used + 1), lasting := terase k.lasting (2 ^ 26 + group) }).coreRecord core 4 (4 * 256) group)) ∧
    (r.2 = true → (s.core core).worn = [] → idle → Config.spareGroups ≤ used → exec (.correctedError (.regGroup core group) flips) s =
      .next (r.1.coreRecord core 5 (4 * 256) group)) ∧
    (r.2 = true → (s.core core).worn = [] → ∃ t, exec (.correctedError (.regGroup core group) flips) s = .next t ∧
      ((t.core core).worn = [] ∨ (t.core core).worn = [group]))) ∧
  (∀ (s : State) row flips, let r := countError (tgetD { count := 0, since := 0 } s.errs.hbmCorr row) s.time
    let s1 : State := { s with errs := { s.errs with hbmCorr := tput s.errs.hbmCorr row r.1 } }
    (r.2 = false → exec (.correctedError (.hbmRow row) flips) s = .next s1) ∧
    (∀ part p, r.2 = true → (part, p) ∈ s.parts → row / 2 ^ 21 ∈ p.frames → (∀ q ∈ s.parts, row / 2 ^ 21 ∈ q.2.frames → q.1 = part) →
      exec (.correctedError (.hbmRow row) flips) s =
        .next (s1.errRecord { part, kind := 4, prov := 0, fid := 0, addr := row, cause := 0, core := 0x1FF, time := s.time })))
/-- PARK records (R390, R391). -/
def parkRule : Prop :=
  (∀ (s : State) part, (tfind s.parts part = none ∨ ∀ x ∈ s.errs.parks, x.1.part ≠ part) → exec (.errorQueueRecordWrite part) s = .next s) ∧
  ∀ (s : State) part p e w, tfind s.parts part = some p → s.errs.parks.find? (fun x => x.1.part = part) = some (e, w) →
    let q := p.fq + 32 * (s.ringSize p.fq + 1)
    (¬HasRoom s (some p) q 32 → exec (.errorQueueRecordWrite part) s = .next s) ∧
    (HasRoom s (some p) q 32 → exec (.errorQueueRecordWrite part) s = .next { s.errRecord e with
      errs := { (s.errRecord e).errs with parks := s.errs.parks.erase (e, w), parked := s.errs.parked ++ [(part, e.fid, w)] } })
end Sys2Proof.Machine

/-- R389-R392, R399, R400: error records, poison, the kills of uncorrectable errors, the counts of corrected ones and the sparing of what lasts. -/
def Obligations.Errors : Prop := errRecordRule ∧ uncorrectedRule ∧ correctedRule ∧ parkRule

/-! Control queues and partitions -/

namespace Sys2Proof.Machine
/-- The record due in control queue `q` stands at `pa` and holds the number `r` (R361). -/
def Due (s : State) (q pa r : Nat) : Prop :=
  ∃ hdr k, s.ctrlHead q = some (hdr, k) ∧ k.head ≠ s.ringTail hdr ∧ pa = hdr + 32 + 64 * (k.head % k.size) ∧ r = ofBytes (s.view none pa 64)
/-- The state with STATUS of the due record written, and then HEAD advanced (R361). -/
def State.reported (s : State) (q hdr : Nat) (k : Ring) (pa status : Nat) : State :=
  let head := (k.head + 1) % 2 ^ 32
  { (s.gWrite none (pa + 4) (toBytes 4 status)).gWrite none (hdr + 4) (toBytes 4 head) with
    jobs := { s.jobs with ring := tput s.jobs.ring (64 + q) { k with head } } }
/-- A record of command `cmd` is due, and sets no bit outside its fields, given with their lowest bits and lengths (R361, R362). -/
structure Asked (s : State) (q cmd : Nat) (fields : List (Nat × Nat)) (pa r : Nat) : Prop where
  due   : Due s q pa r
  named : r % 2 ^ 8 = cmd
  clean : r / 2 ^ 8 % 2 ^ 8 = 0
  args  : ∀ i, 64 ≤ i → i < 512 → r.testBit i = true → ∃ x ∈ fields, x.1 ≤ i ∧ i < x.1 + x.2
/-- The order of a command: `i` executes it with the fields of R362, reporting 4 where a bit outside them is set. -/
def queueFrame (i : Instr) (q cmd : Nat) (fields : List (Nat × Nat)) : Prop :=
  ∀ s, ((∀ pa r, ¬Due s q pa r) → exec i s = .next s) ∧
    ∀ pa r, Due s q pa r → (r % 2 ^ 8 ≠ cmd → exec i s = .next s) ∧
      (r % 2 ^ 8 = cmd → ¬Asked s q cmd fields pa r → exec i s = .next (s.ctrlDone q 4))
/-- How every record is served (R361, R362, R414). -/
def queueRules : Prop :=
  (∀ (s : State), s.ctrlHead 8 = (tfind s.jobs.ring 72).map fun k => (Config.moduleQueue, k)) ∧
  (∀ (s : State) q p, q < 8 → tfind s.parts q = some p → s.ctrlHead q = (tfind s.jobs.ring (64 + q)).map fun k => (p.cq, k)) ∧
  (∀ (s : State) q hdr k pa r st, Due s q pa r → s.ctrlHead q = some (hdr, k) → s.ctrlDone q st = s.reported q hdr k pa st) ∧
  (∀ q, queueFrame (.inval q) q 1 [(64, 64), (128, 32)] ∧ queueFrame (.resolve q) q 2 [(64, 32), (96, 1)] ∧ queueFrame (.keyload q) q 3 [(64, 8), (128, 64)] ∧
    queueFrame (.keyclr q) q 4 [(64, 8)] ∧ queueFrame (.attest q) q 5 [(64, 64), (128, 64)]) ∧
  queueFrame .partcfg 8 0x10 [(64, 64)] ∧ queueFrame .capset 8 0x11 [(64, 32)] ∧
  (∀ (s : State) q pa r, Due s q pa r → runAct (.ctrl q) s = .next
    (if (q = 8 ∧ r % 2 ^ 8 ∉ [0x10, 0x11]) ∨ (q ≠ 8 ∧ r % 2 ^ 8 ∉ [1, 2, 3, 4, 5]) then s.ctrlDone q 4 else s))
/-- INVAL and RESOLVE (R359, R360, R390). -/
def mappingRules : Prop :=
  (∀ (s : State) q pa r, Asked s q 1 [(64, 64), (128, 32)] pa r →
    let n := r / 2 ^ 128 % 2 ^ 32
    let lo := if n = 0 then 0 else r / 2 ^ 64 % 2 ^ 64 / 65536 * 65536
    let hi := if n = 0 then 2 ^ 57 else lo + n * 65536
    let hit (t : Tlb) : Bool := decide (t.part = q ∧ t.va < hi ∧ lo < t.va + 2 ^ t.bits)
    ∃ s1 : State, s1 = { s with cores := s1.cores, clus := s1.clus } ∧
      (∀ core, s1.core core = { s.core core with tlb := (s.core core).tlb.filter fun t => !hit t }) ∧
      (∀ clu, s1.cluster clu = { s.cluster clu with tlb := (s.cluster clu).tlb.filter fun t => !hit t }) ∧
      let top := (hi + 2 ^ 21 - 1) / 2 ^ 21 * 2 ^ 21
      let low := lo / 2 ^ 21 * 2 ^ 21
      let busy := ∃ g ∈ s.wgs, g.2.part = q ∧ ∃ w ∈ g.2.warps, (∃ a ∈ w.accs, a.space = .g ∧ a.va < top ∧ low < a.va + a.bytes) ∨
        ∃ ls, w.wait = some (.lanes ls) ∧ ∃ l ∈ ls, l.finished = false ∧ l.va < top ∧ low < l.va + 32 ∧
          ((∃ n m c e, l.kind = .waita n m c e) ∨ l.kind = .qwait)
      (busy → exec (.inval q) s = .next s1) ∧ (¬busy → exec (.inval q) s = .next (s1.ctrlDone q 1))) ∧
  (∀ (s : State) q pa r, Asked s q 2 [(64, 32), (96, 1)] pa r →
    let fid := r / 2 ^ 64 % 2 ^ 32
    let refuse := r.testBit 96
    (∀ id k, s.walks.find? (fun x => x.2.part = q && x.2.state = .parked fid) = some (id, k) →
      (refuse = false → exec (.resolve q) s = .next ({ s with walks := tmodify s.walks id fun k => { k with state := .walking } }.ctrlDone q 1)) ∧
      (refuse = true → ∃ s1 : State, exec (.resolve q) s = .next (s1.ctrlDone q 1) ∧ s1 = { s with wgs := s1.wgs, cmds := s1.cmds, walks := terase s.walks id } ∧
        ∀ u w ids, .warp u ∈ k.joined → s.warp? u = some w → w.wait = some (.walk ids) → id ∈ ids →
          s1.warp? u = some { walked w id ids with tr := (k.va / 65536, .refused) :: w.tr })) ∧
    ((∀ x ∈ s.walks, x.2.part = q → x.2.state ≠ .parked fid) → (∀ x ∈ s.errs.parked, x.1 = q → x.2.1 ≠ fid) →
      exec (.resolve q) s = .next (s.ctrlDone q 4)) ∧
    (∀ u w n keys, (keys ≠ [] ∨ refuse = false) → (s.core (s.wg u.wg).core).reads = [] → (∀ x ∈ s.walks, x.2.part = q → x.2.state ≠ .parked fid) → s.errs.parked.filter (fun x => x.1 = q && x.2.1 = fid) = [(q, fid, u)] →
      s.warp? u = some w → w.wait = some (.poison n keys) →
      exec (.resolve q) s = .next (({ s with errs := { s.errs with parked := s.errs.parked.filter fun x => !(x.1 = q && x.2.1 = fid) } }.setWarp u
        { w with wait := none, tr := if refuse then keys.map (fun x => (x, TrOutcome.refused)) ++ w.tr else w.tr }).ctrlDone q 1)))
/-- Keys, reports and caps (R365, R366, R368). -/
def keyRules : Prop :=
  (∀ (s : State) q pa r p, Asked s q 3 [(64, 8), (128, 64)] pa r → tfind s.parts q = some p →
    let slot := r / 2 ^ 64 % 2 ^ 8
    let src := r / 2 ^ 128 % 2 ^ 64
    let ok := p.kslot0 ≤ slot ∧ slot < p.kslot0 + p.kslotN ∧ inFrames p src 72
    (¬ok → exec (.keyload q) s = .next (s.ctrlDone q 4)) ∧
    (ok → keyUnwrap (toBytes 32 p.kek.toNat) (s.view none src 72) = none → exec (.keyload q) s = .next (s.ctrlDone q 7)) ∧
    (∀ k, ok → keyUnwrap (toBytes 32 p.kek.toNat) (s.view none src 72) = some k →
      exec (.keyload q) s = .next ({ s with keys := tsetD 0 s.keys slot (BitVec.ofNat 512 (ofBytes k)) }.ctrlDone q 1))) ∧
  (∀ (s : State) q pa r p, Asked s q 4 [(64, 8)] pa r → tfind s.parts q = some p →
    let slot := r / 2 ^ 64 % 2 ^ 8
    let ok := p.kslot0 ≤ slot ∧ slot < p.kslot0 + p.kslotN
    (¬ok → exec (.keyclr q) s = .next (s.ctrlDone q 4)) ∧ (ok → exec (.keyclr q) s = .next ({ s with keys := terase s.keys slot }.ctrlDone q 1))) ∧
  (∀ (s : State) q pa r p, q < 8 → Asked s q 5 [(64, 64), (128, 64)] pa r → tfind s.parts q = some p →
    let nonce := r / 2 ^ 64 % 2 ^ 64
    let dest := r / 2 ^ 128 % 2 ^ 64
    let ok := inFrames p nonce 48 ∧ inFrames p dest 512 ∧ dest % 64 = 0
    (¬ok → exec (.attest q) s = .next (s.ctrlDone q 4)) ∧
    (ok → ∃ body sig, exec (.attest q) s = .next ((s.gWrite none dest (body ++ sig)).ctrlDone q 1) ∧
      body = toBytes 4 1 ++ toBytes 4 0xB1 ++ toBytes 8 Config.moduleSerial.toNat ++ toBytes 1 q ++ List.replicate 15 0 ++ toBytes 48 s.boot.mboot.toNat ++
        toBytes 48 s.boot.mfirm.toNat ++ toBytes 48 p.hashCfg.toNat ++ sha384 (p.frames.flatMap (toBytes 4)) ++ s.view none nonce 48 ++ toBytes 8 s.time ++
        List.replicate 136 0 ∧
      ∃ k, 0 < k ∧ k < curveN ∧ ∀ rs, rs = ecdsaSign (Config.identityKey.toNat % curveN) k (ofBytes (sha384 body).reverse) →
        sig = (toBytes 48 rs.1).reverse ++ (toBytes 48 rs.2).reverse)) ∧
  (∀ (s : State) pa r, Asked s 8 0x11 [(64, 32)] pa r → let c := r / 2 ^ 64 % 2 ^ 32
    (c < (s.parts.map (·.2.floor)).sum → exec .capset s = .next (s.ctrlDone 8 3)) ∧
    ((s.parts.map (·.2.floor)).sum ≤ c → exec .capset s = .next
      ({ s with power := { s.power with req := c } }.ctrlDone 8 (if min 2000000 (max c s.power.idle) = c then 1 else 2))))
end Sys2Proof.Machine

/-- R359-R363, R365, R366, R368: records of the control queues are executed in ring order; each command's effect and the STATUS it reports. -/
def Obligations.ControlQueues : Prop := queueRules ∧ mappingRules ∧ keyRules

namespace Sys2Proof.Machine
/-- A descriptor meets the conditions of R349, its frames those of R387. -/
structure Lawful (s : State) (part : Nat) (p : Partition) : Prop where
  slots   : p.kslot0 + p.kslotN ≤ 256
  alone   : ∀ x ∈ s.parts, x.1 ≠ part → p.clmask &&& x.2.clmask = 0 ∧ p.qmask &&& x.2.qmask = 0 ∧ p.tmask &&& x.2.tmask = 0 ∧
    (∀ f ∈ p.frames, f ∉ x.2.frames) ∧ (p.kslotN = 0 ∨ x.2.kslotN = 0 ∨ p.kslot0 + p.kslotN ≤ x.2.kslot0 ∨ x.2.kslot0 + x.2.kslotN ≤ p.kslot0)
  waits   : ((s.parts.filter fun x => x.1 ≠ part).map fun x => x.2.wshare).sum + p.wshare ≤ 512
  floors  : ((s.parts.filter fun x => x.1 ≠ part).map fun x => x.2.floor).sum + p.floor ≤ s.power.req
  frames  : ∀ f ∈ p.frames, f < 0x3F800
  aligned : p.ctxroot % 32768 = 0 ∧ p.fq % 32 = 0 ∧ p.cq % 32 = 0
  owned   : inFrames p p.ctxroot 32768 ∧ inFrames p p.fq 32 ∧ inFrames p p.cq 32
/-- The partition that descriptor `d` describes (R349). -/
def described (s : State) (d fid : Nat) (hash : BitVec 384) : Partition :=
  { clmask := BitVec.ofNat 48 (d / 2 ^ 16), qmask := BitVec.ofNat 64 (d / 2 ^ 64), kslot0 := d / 2 ^ 224 % 2 ^ 8, kslotN := d / 2 ^ 232 % 2 ^ 9
    frames := (List.range (d / 2 ^ 192 % 2 ^ 32)).map fun i => (s.word none (d / 2 ^ 128 % 2 ^ 64 + 4 * i)).toNat
    wshare := d / 2 ^ 256 % 2 ^ 16, floor := d / 2 ^ 288 % 2 ^ 32, ctxroot := d / 2 ^ 320 % 2 ^ 64, fq := d / 2 ^ 384 % 2 ^ 64, cq := d / 2 ^ 448 % 2 ^ 64
    kek := BitVec.ofNat 256 (d / 2 ^ 512), tmask := BitVec.ofNat 64 (d / 2 ^ 768), hashCfg := hash, nextFid := fid }
/-- What has happened to the holdings that `old` had and `new` has not (R349). -/
def GivenUp (s t : State) (part : Nat) (old new : Partition) : Prop :=
  (∀ core, (t.core core).tlb = (s.core core).tlb.filter fun x => !(x.part = part && decide (x.va < 2 ^ 57) && decide (0 < x.va + 2 ^ x.bits))) ∧
  (∀ core, old.clmask.getLsbD (core / 8) = true → new.clmask.getLsbD (core / 8) = false →
    (t.core core).c = [] ∧ (t.core core).cTag = [] ∧ (t.core core).attic = []) ∧
  (∀ core, ¬(old.clmask.getLsbD (core / 8) = true ∧ new.clmask.getLsbD (core / 8) = false) → t.core core = { s.core core with tlb := (t.core core).tlb }) ∧
  (∀ k, tfind t.keys k = if old.kslot0 ≤ k ∧ k < old.kslot0 + old.kslotN ∧ ¬(new.kslot0 ≤ k ∧ k < new.kslot0 + new.kslotN) then none else tfind s.keys k) ∧
  (∀ x, x ∈ t.trees ↔ x ∈ s.trees ∧ ¬(old.tmask.getLsbD x.1 = true ∧ new.tmask.getLsbD x.1 = false))
/-- The ring with the header at `hdr` has a SIZE of `2^k`, `k` at most `top`, and lies with its entries of `n` bytes in the frames (R349, R416). -/
def RingFits (s : State) (p : Partition) (hdr top n : Nat) : Prop := (∃ k ≤ top, s.ringSize hdr = 2 ^ k) ∧ inFrames p hdr (32 + n * s.ringSize hdr)
/-- The state after the deletion of a partition (R349). -/
structure Deleted (s t : State) (pa part : Nat) : Prop where
  gone   : tsorted s.parts = true → tfind t.parts part = none
  others : ∀ k, k ≠ part → tsorted s.parts = true → tfind t.parts k = tfind s.parts k
  mem    : t.mem = s.mem
  given  : ∀ o, tfind s.parts part = some o → tsorted s.keys = true → GivenUp s t part o { o with clmask := 0, kslotN := 0, tmask := 0 }
/-- The state `u` in which a descriptor at `pa` has taken effect and its KEK has been overwritten, `t` before that (R349, R365, R416). -/
structure TookEffect (s t u : State) (pa part : Nat) (p : Partition) : Prop where
  rest   : u = { t.gWrite none (pa + 64) (List.replicate 32 0) with jobs := u.jobs }
  here   : tfind t.parts part = some p
  others : ∀ k, k ≠ part → tfind t.parts k = tfind s.parts k
  mem    : t.mem = s.mem
  given  : ∀ o, tfind s.parts part = some o → tsorted s.keys = true → GivenUp s t part o p
  fresh  : tfind s.parts part = none → t.cores = s.cores ∧ t.keys = s.keys ∧ t.trees = s.trees
  queues : ∀ q < 64, p.qmask.getLsbD q = true → let hdr := p.cq + 0x10000 + 0x1000 * q
    RingFits u p hdr 7 16 → tfind u.jobs.ring q = some { size := u.ringSize hdr, head := u.ringHead hdr, seen := u.ringTail hdr }
  ctrl   : RingFits u p p.cq 16 64 → tfind u.jobs.ring (64 + part) = some { size := u.ringSize p.cq, head := u.ringHead p.cq, seen := u.ringTail p.cq }
  kept   : ∀ q, q ≠ 64 + part → (q < 64 → p.qmask.getLsbD q = false) → (∀ o, tfind s.parts part = some o → q < 64 → o.qmask.getLsbD q = false) →
    tsorted s.jobs.ring = true → tfind u.jobs.ring q = tfind s.jobs.ring q
/-- PARTCFG (R349, R365, R416). -/
def partitionRules : Prop :=
  (∀ (s : State) at_ r, Asked s 8 0x10 [(64, 64)] at_ r → let pa := r / 2 ^ 64 % 2 ^ 64
    ((pa % 128 ≠ 0 ∨ 2 ^ 56 ≤ pa ∨ pa / 2 ^ 54 = 3) → exec .partcfg s = .next (s.ctrlDone 8 4)) ∧
    (pa % 128 = 0 → pa < 2 ^ 56 → pa / 2 ^ 54 ≠ 3 → exec .partcfg s = .next ((s.configure pa).2.ctrlDone 8 (s.configure pa).1))) ∧
  ∀ (s : State) pa, let d := ofBytes (s.view none pa 128)
    let named := ∃ at_ r, Asked s 8 0x10 [(64, 64)] at_ r ∧ r / 2 ^ 64 % 2 ^ 64 = pa ∧ pa % 128 = 0 ∧ pa < 2 ^ 56 ∧ pa / 2 ^ 54 ≠ 3
    let part := d % 2 ^ 8
    let bad := 7 < part ∨ d / 2 ^ 8 % 2 ^ 8 ≠ 0 ∨ d / 2 ^ 241 % 2 ^ 15 ≠ 0 ∨ d / 2 ^ 272 % 2 ^ 16 ≠ 0 ∨ 2 ^ 832 ≤ d
    let live := (∃ l ∈ s.levels, l.2.part = part) ∨ ∃ g ∈ s.wgs, g.2.part = part
    let zeroed := (s.view none pa 128).take 64 ++ List.replicate 32 0 ++ (s.view none pa 128).drop 96
    let p := described s d (((tfind s.parts part).map (·.nextFid)).getD 0) (BitVec.ofNat 384 (ofBytes (sha384 zeroed)))
    (bad → s.configure pa = (5, s)) ∧ (¬bad → live → s.configure pa = (6, s)) ∧
    (¬bad → ¬live → p.clmask = 0 → ∃ t, s.configure pa = (1, t.gWrite none (pa + 64) (List.replicate 32 0)) ∧ Deleted s t pa part) ∧
    (named → ¬bad → ¬live → p.clmask = 0 → ∃ t, exec .partcfg s = .next ((t.gWrite none (pa + 64) (List.replicate 32 0)).ctrlDone 8 1) ∧ Deleted s t pa part) ∧
    (named → ¬bad → ¬live → p.clmask ≠ 0 → Lawful s part p → ∃ t u, exec .partcfg s = .next (u.ctrlDone 8 1) ∧ TookEffect s t u pa part p) ∧
    (¬bad → ¬live → p.clmask ≠ 0 → ¬Lawful s part p → s.configure pa = (5, s)) ∧
    (¬bad → ¬live → p.clmask ≠ 0 → Lawful s part p → ∃ t u, s.configure pa = (1, u) ∧ TookEffect s t u pa part p)
end Sys2Proof.Machine

/-- R349, R365, R387, R416: PARTCFG refuses a descriptor that breaks a condition or names a partition with a live job; an accepted one takes effect,
its KEK is overwritten, what the partition gives up is cleared, and its rings of lawful SIZE are enabled. -/
def Obligations.Partitions : Prop := partitionRules

/-! The device around the cores -/

namespace Sys2Proof.Machine
/-- One entry of a submission ring is taken (R416): TAIL is read when the entries seen are used up; STAT is written, then HEAD. -/
def ringRule : Prop :=
  (∀ (s : State) q, (tfind s.jobs.ring q = none ∨ ∀ p ∈ s.parts, p.2.qmask.getLsbD q = false) → exec (.submissionRingService q) s = .next s) ∧
  ∀ (s : State) q part p ring, s.parts.find? (fun x => x.2.qmask.getLsbD q) = some (part, p) → tfind s.jobs.ring q = some ring → q < 64 →
    let hdr := p.cq + 0x10000 + 0x1000 * q
    let head := ring.head
    let upTo := if head = ring.seen then s.ringTail hdr else ring.seen
    (head = upTo → exec (.submissionRingService q) s = .next s) ∧
    (head ≠ upTo → let pa := hdr + 32 + 16 * (head % ring.size)
      let rec_ := ofBytes (s.view none pa 8)
      let s1 : State := { s with jobs := { s.jobs with ring := tput s.jobs.ring q { ring with head := (head + 1) % 2 ^ 32, seen := upTo } } }
      let ends (s2 : State) (st : DWord) : Prop := exec (.submissionRingService q) s =
        .next ((s2.gWrite none (pa + 8) (toBytes 8 st.toNat)).gWrite none (hdr + 4) (toBytes 4 ((head + 1) % 2 ^ 32)))
      (2 ^ 57 ≤ rec_ ∨ rec_ % 128 ≠ 0 → ends s1 (statusOf 4 0xA2 0 10 0)) ∧
      (rec_ < 2 ^ 57 → rec_ % 128 = 0 → ∀ va, s1.acceptLaunch part [] rec_ = .miss va → ends s1 (statusOf 4 0xA2 0 10 0)) ∧
      (rec_ < 2 ^ 57 → rec_ % 128 = 0 → ∀ stat cause prov count s2, s1.acceptLaunch part [] rec_ = .done stat cause prov count s2 →
        ends s2 (statusOf stat cause prov 10 count)))
/-- A record of the module event queue (R370). -/
def eventRule : Prop :=
  ∀ (s : State) value status args, let q := Config.eventQueue
    (HasRoom s none q 64 → s.event value status args = { s.ringPut q (toBytes 64 (value + 2 ^ 16 * s.power.evSeq + 2 ^ 32 * status + 2 ^ 64 * args +
        2 ^ 496 * s.power.evDrop)) with power := { s.power with evSeq := (s.power.evSeq + 1) % 2 ^ 16, evDrop := 0 } }) ∧
    (¬HasRoom s none q 64 → s.event value status args = { s with power := { s.power with evDrop := min (s.power.evDrop + 1) 0xFFFF } })
/-- CHL carries accesses (R414, R415). -/
def linked (s : State) : Prop := s.boot.chl ≠ none ∧ (s.boot.stage = .trained ∨ s.boot.stage = .running)
/-- The frames a binding may reach: those of its partition, or for the module manager those of none; the save pool's are nobody's (R369, R387). -/
def reachable (s : State) (binding pa n : Nat) : Prop :=
  (binding = 8 ∧ pa + n ≤ 2 ^ 39 ∧ ∀ f, pa / 2 ^ 21 ≤ f → f ≤ (pa + n - 1) / 2 ^ 21 → ¬(0x3F800 ≤ f ∧ f ≤ 0x3FFFF) ∧ ∀ p ∈ s.parts, f ∉ p.2.frames) ∨
  (binding ≠ 8 ∧ ∃ p, tfind s.parts binding = some p ∧ ∀ f, pa / 2 ^ 21 ≤ f → f ≤ (pa + n - 1) / 2 ^ 21 → f ∈ p.frames)
/-- No byte of a range is in the save pool while that holds encrypted records (R387). -/
def clearOfPool (s : State) (pa n : Nat) : Prop := s.boot.poolKey = none ∨ (pa + n - 1) / 2 ^ 21 < 0x3F800 ∨ 0x3FFFF < (pa + n - 1) / 2 ^ 21
/-- Accesses of the host and of peer modules (R167, R369, R370, R417). -/
def linkAccessRules : Prop :=
  (∀ (s : State) b op, ¬linked s → exec (.hostAccess b op) s = .next s) ∧
  (∀ (s : State) b pa data, linked s → data ≠ [] → (reachable s b pa data.length → exec (.hostAccess b (.write pa data)) s = .next (s.gWrite none pa data)) ∧
    (¬reachable s b pa data.length → exec (.hostAccess b (.write pa data)) s = .next (s.event 0x12 4 (pa % 2 ^ 64 + b * 2 ^ 64 + 2 ^ 72)))) ∧
  (∀ (s : State) b pa n, linked s → 0 < n → (¬reachable s b pa n → exec (.hostAccess b (.read pa n)) s =
      .next ({ s with replies := s.replies ++ [(b, List.replicate n 0xFF)] }.event 0x12 4 (pa % 2 ^ 64 + b * 2 ^ 64))) ∧
    (reachable s b pa n → ∃ t bs, exec (.hostAccess b (.read pa n)) s = .next t ∧ t = { s with replies := s.replies ++ [(b, bs)], fresh := t.fresh } ∧
      (s.poisonAt pa n = none → clearOfPool s pa n → bs = s.view none pa n ∧ t.fresh = s.fresh))) ∧
  (∀ (s : State) port op, tfind s.boot.ports port = none → exec (.peerAccess port op) s = .next s) ∧
  (∀ (s : State) port, tfind s.boot.ports port ≠ none →
    (∀ pa data, exec (.peerAccess port (.write pa data)) s = .next (if pa + data.length ≤ 2 ^ 39 then s.gWrite none pa data else s)) ∧
    ∀ pa n, (2 ^ 39 < pa + n → exec (.peerAccess port (.read pa n)) s = .next s) ∧
      (pa + n ≤ 2 ^ 39 → ∃ t bs, exec (.peerAccess port (.read pa n)) s = .next t ∧ t = { s with replies := s.replies ++ [(16 + port, bs)], fresh := t.fresh } ∧
        (s.poisonAt pa n = none → clearOfPool s pa n → bs = s.view none pa n ∧ t.fresh = s.fresh)))
/-- The setting that a link takes: the first that passes, 16, 8, 4 lanes at 224, then at 112, then at 56 Gb/s (R415). -/
def trained (passing : List (Nat × Nat)) : Option (Nat × Nat) :=
  [(16, 224), (8, 224), (4, 224), (16, 112), (8, 112), (4, 112), (16, 56), (8, 56), (4, 56)].find? fun x => x ∈ passing
/-- Training, and its loss (R415, R417). -/
def linkRules : Prop :=
  (∀ (s : State) passing, (trained passing = none → exec (.chlTrain passing) s = .next s) ∧ ∀ x, trained passing = some x →
    (s.boot.stage = .loaded → exec (.chlTrain passing) s =
      .next ({ s with boot := { s.boot with stage := .trained, chl := some x } }.gWrite none Config.certAddress Config.certificates)) ∧
    (s.boot.stage = .trained ∨ s.boot.stage = .running → exec (.chlTrain passing) s = .next { s with boot := { s.boot with chl := some x } }) ∧
    (s.boot.stage = .held ∨ (∃ n, s.boot.stage = .failed n) → exec (.chlTrain passing) s = .next s)) ∧
  (∀ (s : State) port passing, (trained passing = none ∨ s.boot.stage = .held → exec (.peerPortTrain port passing) s = .next s) ∧
    ∀ x, trained passing = some x → s.boot.stage ≠ .held →
      exec (.peerPortTrain port passing) s = .next { s with boot := { s.boot with ports := tput s.boot.ports port x } }) ∧
  (∀ (s : State) link, exec (.linkLevelReplay link) s =
    .next { s with boot := { s.boot with replays := tput s.boot.replays link (tgetD 0 s.boot.replays link + 1) } }) ∧
  (∀ (s : State) port, (∀ g ∈ s.wgs, ∀ w ∈ g.2.warps, (∀ a ∈ w.accs, a.space = .g → onPort port a.pa = false) ∧
      ∀ ls, w.wait = some (.lanes ls) → ∀ l ∈ ls, onPort port l.addr = false) →
    exec (.peerPortTrainingLoss port) s = .next { s with boot := { s.boot with ports := terase s.boot.ports port } }) ∧
  (∀ (s : State) port r w a, s.warp? r = some w → w.accs = [a] → a.space = .g → a.kind = .read → a.pa / 2 ^ 54 = 2 → a.pa / 2 ^ 51 % 8 = port → a.pa < 2 ^ 56 →
    (∀ ls, w.wait ≠ some (.lanes ls)) → w.retired = false → s.losePort port r = (s.setWarp r ({ w with accs := [] }.endPend a.pend)).takeTrap r w.startAt
      { cause := .gRefused, lane := a.lane, mask := laneMask [a.lane], ilen := s.lengthAt (s.wg r.wg).core (s.wg r.wg).part w.pc / 8
        info0 := BitVec.ofNat 32 a.va, info1 := BitVec.ofNat 32 (a.va / 2 ^ 32) })
end Sys2Proof.Machine

/-- R167, R369, R370, R415-R417: submission rings, events, the accesses of host and peers, training and its loss. -/
def Obligations.Links : Prop := ringRule ∧ eventRule ∧ linkAccessRules ∧ linkRules

namespace Sys2Proof.Machine
/-- What survives a reset whose attic cells count as `age` CLK ticks older, and what it clears (R147, R413). -/
structure Kept (s t : State) (age : Int) : Prop where
  cleared : t = { State.reset with fresh := s.fresh, mem := t.mem, gmeta := t.gmeta, replies := s.replies, cores := t.cores, errs := t.errs }
  cores   : ∀ c, (t.core c).c = [] ∧ (t.core c).tlb = [] ∧ (t.core c).chains = [] ∧ (t.core c).tasks = [] ∧ (t.core c).gated = false ∧
    (t.core c).band = (s.core c).band ∧ (t.core c).flips = (s.core c).flips ∧ (t.core c).slotTag = (s.core c).slotTag ∧ (t.core c).gates = (s.core c).gates ∧
    (t.core c).spares = (s.core c).spares ∧ (t.core c).worn = (s.core c).worn ∧ (t.core c).cTag = [] ∧ (t.core c).attic = (s.core c).attic.map fun x => (x.1, { x.2 with time := x.2.time - age })
  errors  : t.errs = { State.reset.errs with hbmLasting := s.errs.hbmLasting }
/-- Reset, power loss and boot (R413, R414). -/
def bootRules : Prop :=
  (∀ (s : State), ∃ t, exec .reset s = .next t ∧ Kept s t s.clock.clk ∧ t.mem = s.mem ∧ t.gmeta = { s.gmeta with hist := [] }) ∧
  (∀ (s : State), ∃ t, exec .powerLoss s = .next t ∧ Kept s t (s.clock.clk + 3000000000) ∧ t.gmeta.seals = [] ∧ t.gmeta.poison = [] ∧
    t.gmeta.lost = some (s.gmeta.losses + 1) ∧ t.gmeta.losses = s.gmeta.losses + 1 ∧ t.mem = s.mem.filter fun x => decide (2 ^ 54 ≤ x.1)) ∧
  (∀ (s : State) b, (s.boot.stage ≠ .held → exec (.resetRelease b) s = .next s) ∧ (s.boot.stage = .held → ∃ t, exec (.resetRelease b) s = .next t ∧
    t = { s with
      clock := State.reset.clock, fresh := t.fresh
      boot := { s.boot with mboot := b.firstHash, mfirm := if b.firstOk = true then b.firmHash else 0, poolKey := t.boot.poolKey
                            stage := if b.firstOk = true then (if b.firmOk = true then .loaded else .failed 2) else .failed 1 } } ∧
    (t.boot.poolKey.isSome ↔ t.boot.stage = .loaded)))
/-- TIME and its discipline (R10, R11, R419), and the cluster's pulses, power record and cap (R330, R368, R421, R422). -/
def clockPowerRules : Prop :=
  (∀ (s : State), (s.boot.stage = .held → runAct .tick s = .next s) ∧ (s.boot.stage ≠ .held → ∃ t, runAct .tick s = .next t ∧
    t = { s with clock := { s.clock with clk := (s.clock.clk + 1) % 2 ^ 64 }, cores := t.cores } ∧
    ∀ core, ∃ l, t.core core = { s.core core with sched := { (s.core core).sched with arrived := (s.core core).sched.arrived ++ l } })) ∧
  (∀ (s : State), s.clock.clk < 2 ^ 64 → 0 ≤ (s.clock.clk : Int) - s.clock.k → ((s.clock.clk : Int) - s.clock.k) / 3 < 2 ^ 64 →
    (s.time : Int) = ((s.clock.clk : Int) - s.clock.k) / 3) ∧
  (∀ (s : State) off grand, (¬linked s → exec (.ptpSyncMessage off grand) s = .next s) ∧ (linked s →
    let lost := s.clock.locked = true ∧ s.clock.lastSync + 1000000000 ≤ s.time
    let good := if |off| ≤ 50 then (if lost then 0 else s.clock.good) + 1 else 0
    ((s.clock.locked = true ∨ good < 16) → exec (.ptpSyncMessage off grand) s = .next { s with clock := { s.clock with
      good, lastSync := s.time, locked := s.clock.locked && !decide (s.clock.lastSync + 1000000000 ≤ s.time) } }) ∧
    (s.clock.locked = false → 16 ≤ good → s.clock.stepped = true →
      exec (.ptpSyncMessage off grand) s = .next { s with clock := { s.clock with good, locked := true, lastSync := s.time } }) ∧
    (s.clock.locked = false → 16 ≤ good → s.clock.stepped = false → ∃ t, exec (.ptpSyncMessage off grand) s = .next t ∧
      t = { s with clock := t.clock, boot := { s.boot with stage := .running }, jobs := { s.jobs with ring := t.jobs.ring } } ∧
      t.clock.clk = s.clock.clk ∧ t.clock.locked = true ∧ t.clock.stepped = true ∧
      t.clock.k = s.clock.clk - 3 * grand.toNat ∧ t.time = grand.toNat ∧ t.clock.lastSync = grand.toNat ∧
      let q := Config.moduleQueue
      ((∃ k ≤ 16, s.ringSize q = 2 ^ k) → tfind t.jobs.ring 72 = some { size := s.ringSize q, head := s.ringHead q, seen := s.ringTail q }) ∧
      ((¬∃ k ≤ 16, s.ringSize q = 2 ^ k) → t.jobs.ring = s.jobs.ring)))) ∧
  (∀ (s : State), (s.clock.locked = true → s.clock.lastSync + 1000000000 ≤ s.time →
      exec .syncHoldoverTimeout s = .next { s with clock := { s.clock with locked := false, good := 0 } }) ∧
    ((s.clock.locked = false ∨ s.time < s.clock.lastSync + 1000000000) → exec .syncHoldoverTimeout s = .next s)) ∧
  (∀ (s : State) clu flux idle, let cap := min 2000000 (max s.power.req idle)
    let s0 : State := { s with power := { s.power with idle, cap } }
    let s1 := if s.power.idle ≤ s.power.req ∧ s.power.req < idle then s0.event 0x11 2 cap else s0
    let k := s.cluster clu
    let record := Config.recordPower k.power
    let budget := s1.budget clu
    let d := if 200 < flux ∨ 9 * budget < 10 * record then max 1 (k.d - 1) else if flux < 190 ∧ 10 * record < 8 * budget then min 16 (k.d + 1) else k.d
    exec (.patternBoundary clu flux idle) s = .next (s1.modClu clu fun k => { k with d, record := k.power, power := 0, flux }) ∧ s1.power.cap ≤ 2000000 ∧
    ∀ p, s1.parts.find? (fun x => x.2.clmask.getLsbD clu) = some p → p.2.floor ≤ budget ∧
      let sum := (s1.parts.map (·.2.floor)).sum
      (sum ≠ 0 → budget = max (Config.budgetShare clu (p.2.floor + (s1.power.cap - s1.power.idle - sum) * p.2.floor / sum)) p.2.floor)) ∧
  (∀ (s : State), (s.time / 1000000 = s.clock.dumped → exec .markerCounterDump s = .next s) ∧ (s.time / 1000000 ≠ s.clock.dumped → ∃ bytes,
    exec .markerCounterDump s = .next ({ s with clock := { s.clock with dumped := s.time / 1000000 } }.gWrite none Config.markerBlock bytes) ∧
    bytes.length = 3072 ∧ ∀ c < 48, ∀ k < 8, (bytes.drop (64 * c + 8 * k)).take 8 = toBytes 8 (tgetD 0 (s.cluster c).marks k).toNat))
/-- Master cycles and the pulses that clusters take from them (R418): of each sixteen, d are delivered, and the boundary comes first. -/
def pulseRules : Prop :=
  (∀ (s : State) die, (s.boot.stage = .held → runAct (.master die) s = .next s) ∧ (s.boot.stage ≠ .held → ∃ t, runAct (.master die) s = .next t ∧
    let n := tgetD 0 s.clock.masters die
    t = { s with clock := { s.clock with masters := tput s.clock.masters die (n + 1) }, agenda := t.agenda, fresh := t.fresh } ∧
    ((n = 0 ∨ n % 16 ≠ 0) → t.agenda = s.agenda ++ [.pulse die (n % 16)] ∧ t.fresh = s.fresh) ∧
    (n ≠ 0 → n % 16 = 0 → ∃ flux idle : Nat → Nat, t.agenda = s.agenda ++
      (List.range 24).map (fun c => .row (.patternBoundary (24 * die + c) (flux c) (idle c))) ++ [.pulse die 0]))) ∧
  (∀ (s : State) die slot, slot < 16 → ∃ l : List Nat, runAct (.pulse die slot) s = .next { s with agenda := s.agenda ++ l.map fun k => .row (.laneCycleSchedule k) } ∧
    l.Nodup ∧ ∀ core, core ∈ l ↔ core / 192 = die ∧ s.coreWarps core ≠ [] ∧ let d := (s.cluster (core / 8)).d; slot * d / 16 < (slot + 1) * d / 16) ∧
  ∀ d, 1 ≤ d → d ≤ 16 → ((List.range 16).filter fun n => n * d / 16 < (n + 1) * d / 16).length = d
end Sys2Proof.Machine

/-- R10, R11, R147, R368, R413, R414, R418, R419, R421, R422: reset and boot, CLK and TIME and their discipline, the delivered pulses, the cap and the
marker block. -/
def Obligations.DeviceSteps : Prop := bootRules ∧ clockPowerRules ∧ pulseRules

/-! Encoding, steps and what every step keeps -/

/-- R35, R36, R55: decoding the bytes of a well-formed instruction gives it back, with every operand, and leaves the bytes after it; whatever decodes
has just those bytes; and an instruction is as long as its opcode and tail say. -/
def Obligations.RoundTrip : Prop :=
  (∀ i ws rest, wellFormed i = true → encode i = some ws → decode (ws.flatMap dwordBytes ++ rest) = .ok (i, rest)) ∧
  (∀ bs i rest, decode bs = .ok (i, rest) → ∃ ws, encode i = some ws ∧ bs = ws.flatMap dwordBytes ++ rest) ∧
  (∀ i op v f, opcodeOf i = some (op, v, f) → ∃ ws, encode i = some ws ∧
    8 * ws.length = 8 + (if hasExt op then 8 else 0) + (if f.sp then 8 else 0))

namespace Sys2Proof.Machine
/-- The fields of an unguarded instruction without tail, extension or live mask. -/
def plain (d a b c : Code9) (m : BitVec 3) : Fields :=
  { sp := false, gap := 0, wm := 0, gp := 7, gn := false, d, a, b, c, m, ext := 0, live := 0 }
end Sys2Proof.Machine

/-- R35, R85, R190, R226, R256, R291, R378: instruction words that the manual writes out decode to the instructions they stand for. -/
def Obligations.DecodeWords : Prop :=
  decodeWords 0x00071280_80308003 [] = .ok (.perm (plain 0x002 0x001 0x108 0x000 3)) ∧
  decodeWords 0x00074101_21002001 [0x0000005D_00000040] = .ok (.ldg { plain 0x004 0x108 0x002 0x000 1 with ext := 0x0000005D_00000040 }) ∧
  decodeWords 0x00075060_6110A860 [0x00000000_2000A954] = .ok (.copy { plain 0x181 0x108 0x10A 0x10C 0 with ext := 0x00000000_2000A954 }) ∧
  decodeWords 0x00073000_C0302F28 [] = .ok (.lxch (plain 0x003 0x001 0x102 0x1E5 0)) ∧
  decodeWords 0x40073008_4410AF28 [] = .ok (.lxch { plain 0x021 0x020 0x10A 0x1E5 0 with gap := 8 }) ∧
  decodeWords 0x000721A0_04621400 [] = .ok (.fma (plain 0x080 0x023 0x021 0x080 0)) ∧
  decodeWords 0x00010080_00000001 [0x00000030_00000028] = .ok (.br { plain 0 0 0 0 1 with gp := 1, ext := 0x00000030_00000028 }) ∧
  decodeWords 0x00070580_00000000 [] = .ok (.exit (plain 0 0 0 0 0)) ∧
  decodeWords 0x00077040_3C000001 [] = .ok (.srdFrame (plain 0x100 0x1E0 0 0 1)) ∧
  decodeWords 0x00077180_00000001 [] = .ok (.trapretKill (plain 0 0 0 0 1)) ∧
  decodeWords 0x000758E0_E0905830 [] = .ok (.mma (plain 0x183 0x104 0x105 0x106 0))

namespace Sys2Proof.Machine
/-- The words at an address and after it are fetched one after the other, and leave the state `t`. -/
def FetchesWords (r : WarpRef) (w : Warp) : State → Nat → List DWord → State → Prop
  | s, _, [], t => s = t
  | s, va, d :: ds, t => ∃ s1, s.fetchDword r w va = .got d s1 ∧ FetchesWords r w s1 (va + 8) ds t
/-- It is the turn of warp `r`: an instruction placed from outside, or the scheduler's choice while nothing else is due. -/
def Turn (s : State) (r : WarpRef) (rest : List Act) : Prop := s.agenda = .issue r :: rest ∨ s.agenda = .turn r :: rest ∧ s.urgent = []
/-- A warp whose turn it is may issue (R46, R325, R384). -/
structure MayIssue (s : State) (r : WarpRef) (w : Warp) : Prop where
  here     : s.warp? r = some w
  alive    : w.retired = false ∧ w.stopped = false
  present  : w.present ≠ 0
  resident : (s.wg r.wg).place = .resident
  free     : s.mustStop r w = false
end Sys2Proof.Machine

/-- R36, R46, R299: in its turn a warp executes the instruction that decodes from the words at its PC, or goes on with the one it is in; words that
nothing has rewritten since the last CODEFENCE are those in memory; a row of the device is executed as it stands. -/
def Obligations.StepRunsDecoded : Prop :=
  (∀ (s : State) rest r w i ws s1, Turn s r rest → let s0 : State := { s with agenda := rest }
    MayIssue s0 r w → inProgress w.wait = false → FetchesWords r w s0 w.pc.toNat ws s1 → decode (ws.flatMap dwordBytes) = .ok (i, []) →
    step s = exec i { s1.modWarp r (fun v => { v with slot := some i }) with cur := r }) ∧
  (∀ (s : State) rest r w i, Turn s r rest → let s0 : State := { s with agenda := rest }
    MayIssue s0 r w → inProgress w.wait = true → w.slot = some i → step s = exec i { s0 with cur := r }) ∧
  (∀ (s : State) rest i, s.urgent = [] → s.agenda = .row i :: rest → step s = exec i { s with agenda := rest }) ∧
  (∀ (s : State) a l, s.urgent = a :: l → (∀ r rest, s.agenda ≠ .issue r :: rest) → step s = runAct a s) ∧
  (∀ (s : State), s.agenda = [] → s.urgent = [] → ∃ a s1, step s = runAct a s1 ∧ s1 = { s with fresh := s1.fresh } ∧
    (a ∈ s.acts ∨ ∃ id n, a = .deposit id n ∧ .deposit id 0 ∈ s.acts)) ∧
  (∀ (s : State) r w va t, (w.tr.find? fun x => x.1 = va / 65536) = none → s.tlbAt (s.wg r.wg).core (s.wg r.wg).part va = some t → pteEx t.pte = true →
    s.portDown t.pa = false → s.poisonAt (t.pa / 8 * 8) 8 = none → s.gmeta.hist.length ≤ (s.core (s.wg r.wg).core).fence →
    s.fetchDword r w va = .got (s.dword (pteSlot t.pte) (8 * (t.pa / 8))) s) ∧
  (∀ nbits word i, decodeTableWord nbits word = some i → ∃ s1 w, step (State.reset.withFetchWord nbits word) = exec i s1 ∧
    s1.warp? s1.cur = some w ∧ w.present ≠ 0 ∧ w.wait = none ∧ w.slot = some i)

/-- R10, R11, R316, R368, R413, R414: what reset leaves, and that it meets the invariant. -/
def Obligations.ResetState : Prop :=
  let s := State.reset
  s.Inv ∧ s.boot.stage = .held ∧ s.clock.clk = 0 ∧ s.time = 0 ∧ s.power.cap = 2000000 ∧ s.power.req = 2000000 ∧
  (∀ core n, tgetD 0 (s.core core).c n = 0) ∧ (∀ core, (s.core core).tlb = []) ∧ (∀ clu, (s.cluster clu).tlb = []) ∧
  (∀ k, tgetD 0 s.keys k = 0) ∧ (∀ q, tgetD 0 s.jobs.prio q = 0) ∧ (∀ p, tfind s.parts p = none) ∧ (∀ id, s.level? id = none) ∧ (∀ g, tfind s.wgs g = none) ∧
  (∀ q, tfind s.jobs.ring q = none) ∧ s.trees = []

/-- R10, R11, R167, R368, R418, R421: every step keeps the invariant: memory, seals, A spaces and tables in canonical form, K = 0 until TIME is stepped, the cap
at most 2,000 W, and 1 to 16 delivered pulses in every cluster. -/
def Obligations.StepKeepsInv : Prop := ∀ s t, s.Inv → step s = .next t → t.Inv
end

