-- ==== Sys2Proof/Laws/Cells.lean ====
section
/-!
SUPPORT. Laws/Cells.lean: the laws of the sparse tables: reading after writing, and the canonical form.
-/
namespace Sys2Proof.Machine

variable {α : Type}

@[simp] theorem tfind_nil (k : Nat) : tfind ([] : Table α) k = none := rfl

theorem tfind_cons (j : Nat) (v : α) (t : Table α) (k : Nat) :
    tfind ((j, v) :: t) k = if j = k then some v else if k < j then none else tfind t k := rfl

theorem tput_cons (j : Nat) (w : α) (t : Table α) (k : Nat) (v : α) :
    tput ((j, w) :: t) k v =
      if k < j then (k, v) :: (j, w) :: t else if j = k then (k, v) :: t else (j, w) :: tput t k v := rfl

/-- What was put is found. -/
@[simp] theorem tfind_tput (t : Table α) (k : Nat) (v : α) : tfind (tput t k v) k = some v := by
  induction t with
  | nil => simp [tput, tfind_cons]
  | cons e t ih =>
    obtain ⟨j, w⟩ := e
    rw [tput_cons]
    split
    · simp [tfind_cons]
    · split
      · simp [tfind_cons]
      · rw [tfind_cons, if_neg ‹_›, if_neg ‹_›, ih]

/-- Nothing else changes. -/
theorem tfind_tput_ne (t : Table α) {k j : Nat} (v : α) (h : j ≠ k) : tfind (tput t k v) j = tfind t j := by
  induction t with
  | nil => simp [tput, tfind_cons, Ne.symm h]
  | cons e t ih =>
    obtain ⟨i, w⟩ := e
    rw [tput_cons]
    split
    · simp only [tfind_cons]
      repeat' split
      all_goals first | rfl | omega
    · split
      · simp only [tfind_cons]
        repeat' split
        all_goals first | rfl | omega
      · simp only [tfind_cons, ih]

theorem tfind_tput_eq (t : Table α) (k j : Nat) (v : α) : tfind (tput t k v) j = if j = k then some v else tfind t j := by
  split
  · subst j; exact tfind_tput t k v
  · exact tfind_tput_ne t v ‹_›

@[simp] theorem tgetD_nil (d : α) (k : Nat) : tgetD d [] k = d := rfl
@[simp] theorem tgetD_tput (d : α) (t : Table α) (k : Nat) (v : α) : tgetD d (tput t k v) k = v := by simp [tgetD]
theorem tgetD_tput_ne (d : α) (t : Table α) {k j : Nat} (v : α) (h : j ≠ k) : tgetD d (tput t k v) j = tgetD d t j := by
  simp [tgetD, tfind_tput_ne t v h]

theorem tmodify_cons (j : Nat) (w : α) (t : Table α) (k : Nat) (f : α → α) :
    tmodify ((j, w) :: t) k f = if j = k then (j, f w) :: t else (j, w) :: tmodify t k f := rfl

/-- A changed entry reads changed. -/
@[simp] theorem tfind_tmodify (t : Table α) (k : Nat) (f : α → α) : tfind (tmodify t k f) k = (tfind t k).map f := by
  induction t with
  | nil => rfl
  | cons e t ih =>
    obtain ⟨j, w⟩ := e
    rw [tmodify_cons]
    split
    · simp_all [tfind_cons]
    · simp only [tfind_cons, if_neg ‹¬j = k›]
      split
      · rfl
      · exact ih

/-- No other entry does. -/
theorem tfind_tmodify_ne (t : Table α) {k j : Nat} (f : α → α) (h : j ≠ k) : tfind (tmodify t k f) j = tfind t j := by
  induction t with
  | nil => rfl
  | cons e t ih =>
    obtain ⟨i, w⟩ := e
    rw [tmodify_cons]
    split
    · subst i; rw [tfind_cons, tfind_cons, if_neg (Ne.symm h), if_neg (Ne.symm h)]
    · rw [tfind_cons, tfind_cons, ih]

theorem tabove_mono {b c : Nat} (h : c ≤ b) : ∀ (t : Table α), tabove b t = true → tabove c t = true
  | [], _ => rfl
  | (j, v) :: t, hb => by
    simp only [tabove, Bool.and_eq_true, decide_eq_true_eq] at hb ⊢
    exact ⟨by omega, hb.2⟩

theorem tfind_of_tabove {b k : Nat} (t : Table α) (hb : tabove b t = true) (hk : k ≤ b) : tfind t k = none := by
  cases t with
  | nil => rfl
  | cons e t =>
    obtain ⟨j, v⟩ := e
    simp only [tabove, Bool.and_eq_true, decide_eq_true_eq] at hb
    rw [tfind_cons, if_neg (by omega), if_pos (by omega)]

theorem tabove_of_tsorted_cons {j : Nat} {v : α} {t : Table α} (h : tsorted ((j, v) :: t) = true) : tabove j t = true := h

theorem tsorted_of_tabove {b : Nat} : ∀ (t : Table α), tabove b t = true → tsorted t = true
  | [], _ => rfl
  | (_, _) :: _, h => by
    simp only [tabove, Bool.and_eq_true] at h
    exact h.2

theorem tabove_tput {b k : Nat} (v : α) (hk : b < k) : ∀ (t : Table α), tabove b t = true → tabove b (tput t k v) = true
  | [], _ => by simp [tput, tabove, hk]
  | (j, w) :: t, h => by
    simp only [tabove, Bool.and_eq_true, decide_eq_true_eq] at h
    rw [tput_cons]
    split
    · simp [tabove, hk, h.2, ‹k < j›]
    · split
      · subst j; simp [tabove, hk, h.2]
      · simp only [tabove, Bool.and_eq_true, decide_eq_true_eq]
        exact ⟨h.1, tabove_tput v (by omega) t h.2⟩

/-- Listing a value keeps the keys rising. -/
theorem tsorted_tput (t : Table α) (k : Nat) (v : α) (h : tsorted t = true) : tsorted (tput t k v) = true := by
  cases t with
  | nil => rfl
  | cons e t =>
    obtain ⟨j, w⟩ := e
    have ht : tabove j t = true := h
    rw [tput_cons]
    split
    · simp [tsorted, tabove, ‹k < j›, ht]
    · split
      · subst j; exact ht
      · exact tabove_tput v (by omega) t ht

theorem tabove_terase {b : Nat} (k : Nat) : ∀ (t : Table α), tabove b t = true → tabove b (terase t k) = true
  | [], _ => rfl
  | (j, w) :: t, h => by
    have h' := h
    simp only [tabove, Bool.and_eq_true, decide_eq_true_eq] at h'
    simp only [terase]
    split
    · exact tabove_mono (by omega) t h'.2
    · split
      · exact h
      · simp only [tabove, Bool.and_eq_true, decide_eq_true_eq]
        exact ⟨h'.1, tabove_terase k t h'.2⟩

/-- Dropping an entry keeps the keys rising. -/
theorem tsorted_terase (t : Table α) (k : Nat) (h : tsorted t = true) : tsorted (terase t k) = true := by
  cases t with
  | nil => rfl
  | cons e t =>
    obtain ⟨j, w⟩ := e
    have ht : tabove j t = true := h
    simp only [terase]
    split
    · exact tsorted_of_tabove t ht
    · split
      · exact h
      · exact tabove_terase k t ht

/-- A dropped entry is gone. -/
theorem tfind_terase (t : Table α) (k : Nat) (h : tsorted t = true) : tfind (terase t k) k = none := by
  induction t with
  | nil => rfl
  | cons e t ih =>
    obtain ⟨j, w⟩ := e
    have ht : tabove j t = true := h
    simp only [terase]
    split
    · subst j; exact tfind_of_tabove t ht (Nat.le_refl _)
    · split
      · rw [tfind_cons, if_neg ‹_›, if_pos ‹_›]
      · rw [tfind_cons, if_neg ‹_›, if_neg ‹_›]; exact ih (tsorted_of_tabove t ht)

theorem tfind_terase_ne (t : Table α) {k j : Nat} (h : tsorted t = true) (hj : j ≠ k) : tfind (terase t k) j = tfind t j := by
  induction t with
  | nil => rfl
  | cons e t ih =>
    obtain ⟨i, w⟩ := e
    have ht : tabove i t = true := h
    simp only [terase]
    split
    · subst i
      rw [tfind_cons, if_neg (Ne.symm hj)]
      split
      · exact tfind_of_tabove t ht (by omega)
      · rfl
    · split
      · rfl
      · rw [tfind_cons, tfind_cons, ih (tsorted_of_tabove t ht)]

theorem mem_tput {t : Table α} {k : Nat} {v : α} {e : Nat × α} (h : e ∈ tput t k v) : e = (k, v) ∨ e ∈ t := by
  induction t with
  | nil => simpa [tput] using h
  | cons x t ih =>
    obtain ⟨j, w⟩ := x
    rw [tput_cons] at h
    split at h
    · simpa using h
    · split at h
      · rcases List.mem_cons.1 h with h | h
        · exact .inl h
        · exact .inr (List.mem_cons_of_mem _ h)
      · rcases List.mem_cons.1 h with h | h
        · exact .inr (h ▸ List.mem_cons_self ..)
        · rcases ih h with h | h
          · exact .inl h
          · exact .inr (List.mem_cons_of_mem _ h)

theorem mem_terase {t : Table α} {k : Nat} {e : Nat × α} (h : e ∈ terase t k) : e ∈ t := by
  induction t with
  | nil => simp [terase] at h
  | cons x t ih =>
    obtain ⟨j, w⟩ := x
    simp only [terase] at h
    split at h
    · exact List.mem_cons_of_mem _ h
    · split at h
      · exact h
      · rcases List.mem_cons.1 h with h | h
        · exact h ▸ List.mem_cons_self ..
        · exact List.mem_cons_of_mem _ (ih h)

section canonical
variable [DecidableEq α]

/-- Reading back what was written, in the canonical form. -/
theorem tgetD_tsetD (d : α) (t : Table α) (k : Nat) (v : α) (h : tsorted t = true) : tgetD d (tsetD d t k v) k = v := by
  unfold tsetD
  split
  · subst v; simp [tgetD, tfind_terase t k h]
  · simp

theorem tgetD_tsetD_ne (d : α) (t : Table α) {k j : Nat} (v : α) (h : tsorted t = true) (hj : j ≠ k) :
    tgetD d (tsetD d t k v) j = tgetD d t j := by
  unfold tsetD
  split
  · simp [tgetD, tfind_terase_ne t h hj]
  · exact tgetD_tput_ne d t v hj

theorem tsorted_tsetD (d : α) (t : Table α) (k : Nat) (v : α) (h : tsorted t = true) : tsorted (tsetD d t k v) = true := by
  unfold tsetD
  split
  · exact tsorted_terase t k h
  · exact tsorted_tput t k v h

end canonical
end Sys2Proof.Machine
end

