-- ==== Sys2Proof/Laws/State.lean ====
section
/-!
SUPPORT. Laws/State.lean: what each named update of the state leaves alone, field by field.
-/
namespace Sys2Proof.Machine

variable (s : State)

@[simp] theorem State.modWg_agenda (g : Nat) (f : Workgroup → Workgroup) : (s.modWg g f).agenda = s.agenda := rfl
@[simp] theorem State.modWg_cur (g : Nat) (f : Workgroup → Workgroup) : (s.modWg g f).cur = s.cur := rfl
@[simp] theorem State.modWg_fresh (g : Nat) (f : Workgroup → Workgroup) : (s.modWg g f).fresh = s.fresh := rfl
@[simp] theorem State.modWg_clock (g : Nat) (f : Workgroup → Workgroup) : (s.modWg g f).clock = s.clock := rfl
@[simp] theorem State.modWg_boot (g : Nat) (f : Workgroup → Workgroup) : (s.modWg g f).boot = s.boot := rfl
@[simp] theorem State.modWg_mem (g : Nat) (f : Workgroup → Workgroup) : (s.modWg g f).mem = s.mem := rfl
@[simp] theorem State.modWg_gmeta (g : Nat) (f : Workgroup → Workgroup) : (s.modWg g f).gmeta = s.gmeta := rfl
@[simp] theorem State.modWg_parts (g : Nat) (f : Workgroup → Workgroup) : (s.modWg g f).parts = s.parts := rfl
@[simp] theorem State.modWg_keys (g : Nat) (f : Workgroup → Workgroup) : (s.modWg g f).keys = s.keys := rfl
@[simp] theorem State.modWg_walks (g : Nat) (f : Workgroup → Workgroup) : (s.modWg g f).walks = s.walks := rfl
@[simp] theorem State.modWg_waits (g : Nat) (f : Workgroup → Workgroup) : (s.modWg g f).waits = s.waits := rfl
@[simp] theorem State.modWg_queues (g : Nat) (f : Workgroup → Workgroup) : (s.modWg g f).queues = s.queues := rfl
@[simp] theorem State.modWg_levels (g : Nat) (f : Workgroup → Workgroup) : (s.modWg g f).levels = s.levels := rfl
@[simp] theorem State.modWg_jobs (g : Nat) (f : Workgroup → Workgroup) : (s.modWg g f).jobs = s.jobs := rfl
@[simp] theorem State.modWg_cores (g : Nat) (f : Workgroup → Workgroup) : (s.modWg g f).cores = s.cores := rfl
@[simp] theorem State.modWg_clus (g : Nat) (f : Workgroup → Workgroup) : (s.modWg g f).clus = s.clus := rfl
@[simp] theorem State.modWg_trees (g : Nat) (f : Workgroup → Workgroup) : (s.modWg g f).trees = s.trees := rfl
@[simp] theorem State.modWg_cmds (g : Nat) (f : Workgroup → Workgroup) : (s.modWg g f).cmds = s.cmds := rfl
@[simp] theorem State.modWg_errs (g : Nat) (f : Workgroup → Workgroup) : (s.modWg g f).errs = s.errs := rfl
@[simp] theorem State.modWg_power (g : Nat) (f : Workgroup → Workgroup) : (s.modWg g f).power = s.power := rfl
@[simp] theorem State.modWg_replies (g : Nat) (f : Workgroup → Workgroup) : (s.modWg g f).replies = s.replies := rfl
@[simp] theorem State.modWg_veil (g : Nat) (f : Workgroup → Workgroup) : (s.modWg g f).veil = s.veil := rfl

@[simp] theorem State.modA_agenda (g : Nat) (f : Workgroup → Workgroup) : (s.modA g f).agenda = s.agenda := rfl
@[simp] theorem State.modA_cur (g : Nat) (f : Workgroup → Workgroup) : (s.modA g f).cur = s.cur := rfl
@[simp] theorem State.modA_fresh (g : Nat) (f : Workgroup → Workgroup) : (s.modA g f).fresh = s.fresh := rfl
@[simp] theorem State.modA_clock (g : Nat) (f : Workgroup → Workgroup) : (s.modA g f).clock = s.clock := rfl
@[simp] theorem State.modA_boot (g : Nat) (f : Workgroup → Workgroup) : (s.modA g f).boot = s.boot := rfl
@[simp] theorem State.modA_mem (g : Nat) (f : Workgroup → Workgroup) : (s.modA g f).mem = s.mem := rfl
@[simp] theorem State.modA_gmeta (g : Nat) (f : Workgroup → Workgroup) : (s.modA g f).gmeta = s.gmeta := rfl
@[simp] theorem State.modA_parts (g : Nat) (f : Workgroup → Workgroup) : (s.modA g f).parts = s.parts := rfl
@[simp] theorem State.modA_keys (g : Nat) (f : Workgroup → Workgroup) : (s.modA g f).keys = s.keys := rfl
@[simp] theorem State.modA_walks (g : Nat) (f : Workgroup → Workgroup) : (s.modA g f).walks = s.walks := rfl
@[simp] theorem State.modA_waits (g : Nat) (f : Workgroup → Workgroup) : (s.modA g f).waits = s.waits := rfl
@[simp] theorem State.modA_queues (g : Nat) (f : Workgroup → Workgroup) : (s.modA g f).queues = s.queues := rfl
@[simp] theorem State.modA_levels (g : Nat) (f : Workgroup → Workgroup) : (s.modA g f).levels = s.levels := rfl
@[simp] theorem State.modA_jobs (g : Nat) (f : Workgroup → Workgroup) : (s.modA g f).jobs = s.jobs := rfl
@[simp] theorem State.modA_cores (g : Nat) (f : Workgroup → Workgroup) : (s.modA g f).cores = s.cores := rfl
@[simp] theorem State.modA_clus (g : Nat) (f : Workgroup → Workgroup) : (s.modA g f).clus = s.clus := rfl
@[simp] theorem State.modA_trees (g : Nat) (f : Workgroup → Workgroup) : (s.modA g f).trees = s.trees := rfl
@[simp] theorem State.modA_cmds (g : Nat) (f : Workgroup → Workgroup) : (s.modA g f).cmds = s.cmds := rfl
@[simp] theorem State.modA_errs (g : Nat) (f : Workgroup → Workgroup) : (s.modA g f).errs = s.errs := rfl
@[simp] theorem State.modA_power (g : Nat) (f : Workgroup → Workgroup) : (s.modA g f).power = s.power := rfl
@[simp] theorem State.modA_replies (g : Nat) (f : Workgroup → Workgroup) : (s.modA g f).replies = s.replies := rfl
@[simp] theorem State.modA_veil (g : Nat) (f : Workgroup → Workgroup) : (s.modA g f).veil = s.veil := rfl

@[simp] theorem State.modWarp_agenda (r : WarpRef) (f : Warp → Warp) : (s.modWarp r f).agenda = s.agenda := rfl
@[simp] theorem State.modWarp_cur (r : WarpRef) (f : Warp → Warp) : (s.modWarp r f).cur = s.cur := rfl
@[simp] theorem State.modWarp_fresh (r : WarpRef) (f : Warp → Warp) : (s.modWarp r f).fresh = s.fresh := rfl
@[simp] theorem State.modWarp_clock (r : WarpRef) (f : Warp → Warp) : (s.modWarp r f).clock = s.clock := rfl
@[simp] theorem State.modWarp_boot (r : WarpRef) (f : Warp → Warp) : (s.modWarp r f).boot = s.boot := rfl
@[simp] theorem State.modWarp_mem (r : WarpRef) (f : Warp → Warp) : (s.modWarp r f).mem = s.mem := rfl
@[simp] theorem State.modWarp_gmeta (r : WarpRef) (f : Warp → Warp) : (s.modWarp r f).gmeta = s.gmeta := rfl
@[simp] theorem State.modWarp_parts (r : WarpRef) (f : Warp → Warp) : (s.modWarp r f).parts = s.parts := rfl
@[simp] theorem State.modWarp_keys (r : WarpRef) (f : Warp → Warp) : (s.modWarp r f).keys = s.keys := rfl
@[simp] theorem State.modWarp_walks (r : WarpRef) (f : Warp → Warp) : (s.modWarp r f).walks = s.walks := rfl
@[simp] theorem State.modWarp_waits (r : WarpRef) (f : Warp → Warp) : (s.modWarp r f).waits = s.waits := rfl
@[simp] theorem State.modWarp_queues (r : WarpRef) (f : Warp → Warp) : (s.modWarp r f).queues = s.queues := rfl
@[simp] theorem State.modWarp_levels (r : WarpRef) (f : Warp → Warp) : (s.modWarp r f).levels = s.levels := rfl
@[simp] theorem State.modWarp_jobs (r : WarpRef) (f : Warp → Warp) : (s.modWarp r f).jobs = s.jobs := rfl
@[simp] theorem State.modWarp_cores (r : WarpRef) (f : Warp → Warp) : (s.modWarp r f).cores = s.cores := rfl
@[simp] theorem State.modWarp_clus (r : WarpRef) (f : Warp → Warp) : (s.modWarp r f).clus = s.clus := rfl
@[simp] theorem State.modWarp_trees (r : WarpRef) (f : Warp → Warp) : (s.modWarp r f).trees = s.trees := rfl
@[simp] theorem State.modWarp_cmds (r : WarpRef) (f : Warp → Warp) : (s.modWarp r f).cmds = s.cmds := rfl
@[simp] theorem State.modWarp_errs (r : WarpRef) (f : Warp → Warp) : (s.modWarp r f).errs = s.errs := rfl
@[simp] theorem State.modWarp_power (r : WarpRef) (f : Warp → Warp) : (s.modWarp r f).power = s.power := rfl
@[simp] theorem State.modWarp_replies (r : WarpRef) (f : Warp → Warp) : (s.modWarp r f).replies = s.replies := rfl
@[simp] theorem State.modWarp_veil (r : WarpRef) (f : Warp → Warp) : (s.modWarp r f).veil = s.veil := rfl

@[simp] theorem State.setWarp_agenda (r : WarpRef) (w : Warp) : (s.setWarp r w).agenda = s.agenda := rfl
@[simp] theorem State.setWarp_cur (r : WarpRef) (w : Warp) : (s.setWarp r w).cur = s.cur := rfl
@[simp] theorem State.setWarp_fresh (r : WarpRef) (w : Warp) : (s.setWarp r w).fresh = s.fresh := rfl
@[simp] theorem State.setWarp_clock (r : WarpRef) (w : Warp) : (s.setWarp r w).clock = s.clock := rfl
@[simp] theorem State.setWarp_boot (r : WarpRef) (w : Warp) : (s.setWarp r w).boot = s.boot := rfl
@[simp] theorem State.setWarp_mem (r : WarpRef) (w : Warp) : (s.setWarp r w).mem = s.mem := rfl
@[simp] theorem State.setWarp_gmeta (r : WarpRef) (w : Warp) : (s.setWarp r w).gmeta = s.gmeta := rfl
@[simp] theorem State.setWarp_parts (r : WarpRef) (w : Warp) : (s.setWarp r w).parts = s.parts := rfl
@[simp] theorem State.setWarp_keys (r : WarpRef) (w : Warp) : (s.setWarp r w).keys = s.keys := rfl
@[simp] theorem State.setWarp_walks (r : WarpRef) (w : Warp) : (s.setWarp r w).walks = s.walks := rfl
@[simp] theorem State.setWarp_waits (r : WarpRef) (w : Warp) : (s.setWarp r w).waits = s.waits := rfl
@[simp] theorem State.setWarp_queues (r : WarpRef) (w : Warp) : (s.setWarp r w).queues = s.queues := rfl
@[simp] theorem State.setWarp_levels (r : WarpRef) (w : Warp) : (s.setWarp r w).levels = s.levels := rfl
@[simp] theorem State.setWarp_jobs (r : WarpRef) (w : Warp) : (s.setWarp r w).jobs = s.jobs := rfl
@[simp] theorem State.setWarp_cores (r : WarpRef) (w : Warp) : (s.setWarp r w).cores = s.cores := rfl
@[simp] theorem State.setWarp_clus (r : WarpRef) (w : Warp) : (s.setWarp r w).clus = s.clus := rfl
@[simp] theorem State.setWarp_trees (r : WarpRef) (w : Warp) : (s.setWarp r w).trees = s.trees := rfl
@[simp] theorem State.setWarp_cmds (r : WarpRef) (w : Warp) : (s.setWarp r w).cmds = s.cmds := rfl
@[simp] theorem State.setWarp_errs (r : WarpRef) (w : Warp) : (s.setWarp r w).errs = s.errs := rfl
@[simp] theorem State.setWarp_power (r : WarpRef) (w : Warp) : (s.setWarp r w).power = s.power := rfl
@[simp] theorem State.setWarp_replies (r : WarpRef) (w : Warp) : (s.setWarp r w).replies = s.replies := rfl
@[simp] theorem State.setWarp_veil (r : WarpRef) (w : Warp) : (s.setWarp r w).veil = s.veil := rfl

@[simp] theorem State.modCore_agenda (c : Nat) (f : Core → Core) : (s.modCore c f).agenda = s.agenda := rfl
@[simp] theorem State.modCore_cur (c : Nat) (f : Core → Core) : (s.modCore c f).cur = s.cur := rfl
@[simp] theorem State.modCore_fresh (c : Nat) (f : Core → Core) : (s.modCore c f).fresh = s.fresh := rfl
@[simp] theorem State.modCore_clock (c : Nat) (f : Core → Core) : (s.modCore c f).clock = s.clock := rfl
@[simp] theorem State.modCore_boot (c : Nat) (f : Core → Core) : (s.modCore c f).boot = s.boot := rfl
@[simp] theorem State.modCore_mem (c : Nat) (f : Core → Core) : (s.modCore c f).mem = s.mem := rfl
@[simp] theorem State.modCore_gmeta (c : Nat) (f : Core → Core) : (s.modCore c f).gmeta = s.gmeta := rfl
@[simp] theorem State.modCore_parts (c : Nat) (f : Core → Core) : (s.modCore c f).parts = s.parts := rfl
@[simp] theorem State.modCore_keys (c : Nat) (f : Core → Core) : (s.modCore c f).keys = s.keys := rfl
@[simp] theorem State.modCore_walks (c : Nat) (f : Core → Core) : (s.modCore c f).walks = s.walks := rfl
@[simp] theorem State.modCore_waits (c : Nat) (f : Core → Core) : (s.modCore c f).waits = s.waits := rfl
@[simp] theorem State.modCore_queues (c : Nat) (f : Core → Core) : (s.modCore c f).queues = s.queues := rfl
@[simp] theorem State.modCore_levels (c : Nat) (f : Core → Core) : (s.modCore c f).levels = s.levels := rfl
@[simp] theorem State.modCore_jobs (c : Nat) (f : Core → Core) : (s.modCore c f).jobs = s.jobs := rfl
@[simp] theorem State.modCore_wgs (c : Nat) (f : Core → Core) : (s.modCore c f).wgs = s.wgs := rfl
@[simp] theorem State.modCore_clus (c : Nat) (f : Core → Core) : (s.modCore c f).clus = s.clus := rfl
@[simp] theorem State.modCore_trees (c : Nat) (f : Core → Core) : (s.modCore c f).trees = s.trees := rfl
@[simp] theorem State.modCore_cmds (c : Nat) (f : Core → Core) : (s.modCore c f).cmds = s.cmds := rfl
@[simp] theorem State.modCore_errs (c : Nat) (f : Core → Core) : (s.modCore c f).errs = s.errs := rfl
@[simp] theorem State.modCore_power (c : Nat) (f : Core → Core) : (s.modCore c f).power = s.power := rfl
@[simp] theorem State.modCore_replies (c : Nat) (f : Core → Core) : (s.modCore c f).replies = s.replies := rfl
@[simp] theorem State.modCore_veil (c : Nat) (f : Core → Core) : (s.modCore c f).veil = s.veil := rfl

@[simp] theorem State.modClu_agenda (c : Nat) (f : Cluster → Cluster) : (s.modClu c f).agenda = s.agenda := rfl
@[simp] theorem State.modClu_cur (c : Nat) (f : Cluster → Cluster) : (s.modClu c f).cur = s.cur := rfl
@[simp] theorem State.modClu_fresh (c : Nat) (f : Cluster → Cluster) : (s.modClu c f).fresh = s.fresh := rfl
@[simp] theorem State.modClu_clock (c : Nat) (f : Cluster → Cluster) : (s.modClu c f).clock = s.clock := rfl
@[simp] theorem State.modClu_boot (c : Nat) (f : Cluster → Cluster) : (s.modClu c f).boot = s.boot := rfl
@[simp] theorem State.modClu_mem (c : Nat) (f : Cluster → Cluster) : (s.modClu c f).mem = s.mem := rfl
@[simp] theorem State.modClu_gmeta (c : Nat) (f : Cluster → Cluster) : (s.modClu c f).gmeta = s.gmeta := rfl
@[simp] theorem State.modClu_parts (c : Nat) (f : Cluster → Cluster) : (s.modClu c f).parts = s.parts := rfl
@[simp] theorem State.modClu_keys (c : Nat) (f : Cluster → Cluster) : (s.modClu c f).keys = s.keys := rfl
@[simp] theorem State.modClu_walks (c : Nat) (f : Cluster → Cluster) : (s.modClu c f).walks = s.walks := rfl
@[simp] theorem State.modClu_waits (c : Nat) (f : Cluster → Cluster) : (s.modClu c f).waits = s.waits := rfl
@[simp] theorem State.modClu_queues (c : Nat) (f : Cluster → Cluster) : (s.modClu c f).queues = s.queues := rfl
@[simp] theorem State.modClu_levels (c : Nat) (f : Cluster → Cluster) : (s.modClu c f).levels = s.levels := rfl
@[simp] theorem State.modClu_jobs (c : Nat) (f : Cluster → Cluster) : (s.modClu c f).jobs = s.jobs := rfl
@[simp] theorem State.modClu_wgs (c : Nat) (f : Cluster → Cluster) : (s.modClu c f).wgs = s.wgs := rfl
@[simp] theorem State.modClu_cores (c : Nat) (f : Cluster → Cluster) : (s.modClu c f).cores = s.cores := rfl
@[simp] theorem State.modClu_trees (c : Nat) (f : Cluster → Cluster) : (s.modClu c f).trees = s.trees := rfl
@[simp] theorem State.modClu_cmds (c : Nat) (f : Cluster → Cluster) : (s.modClu c f).cmds = s.cmds := rfl
@[simp] theorem State.modClu_errs (c : Nat) (f : Cluster → Cluster) : (s.modClu c f).errs = s.errs := rfl
@[simp] theorem State.modClu_power (c : Nat) (f : Cluster → Cluster) : (s.modClu c f).power = s.power := rfl
@[simp] theorem State.modClu_replies (c : Nat) (f : Cluster → Cluster) : (s.modClu c f).replies = s.replies := rfl
@[simp] theorem State.modClu_veil (c : Nat) (f : Cluster → Cluster) : (s.modClu c f).veil = s.veil := rfl

@[simp] theorem State.modCmd_agenda (c : Nat) (f : Cmd → Cmd) : (s.modCmd c f).agenda = s.agenda := rfl
@[simp] theorem State.modCmd_cur (c : Nat) (f : Cmd → Cmd) : (s.modCmd c f).cur = s.cur := rfl
@[simp] theorem State.modCmd_fresh (c : Nat) (f : Cmd → Cmd) : (s.modCmd c f).fresh = s.fresh := rfl
@[simp] theorem State.modCmd_clock (c : Nat) (f : Cmd → Cmd) : (s.modCmd c f).clock = s.clock := rfl
@[simp] theorem State.modCmd_boot (c : Nat) (f : Cmd → Cmd) : (s.modCmd c f).boot = s.boot := rfl
@[simp] theorem State.modCmd_mem (c : Nat) (f : Cmd → Cmd) : (s.modCmd c f).mem = s.mem := rfl
@[simp] theorem State.modCmd_gmeta (c : Nat) (f : Cmd → Cmd) : (s.modCmd c f).gmeta = s.gmeta := rfl
@[simp] theorem State.modCmd_parts (c : Nat) (f : Cmd → Cmd) : (s.modCmd c f).parts = s.parts := rfl
@[simp] theorem State.modCmd_keys (c : Nat) (f : Cmd → Cmd) : (s.modCmd c f).keys = s.keys := rfl
@[simp] theorem State.modCmd_walks (c : Nat) (f : Cmd → Cmd) : (s.modCmd c f).walks = s.walks := rfl
@[simp] theorem State.modCmd_waits (c : Nat) (f : Cmd → Cmd) : (s.modCmd c f).waits = s.waits := rfl
@[simp] theorem State.modCmd_queues (c : Nat) (f : Cmd → Cmd) : (s.modCmd c f).queues = s.queues := rfl
@[simp] theorem State.modCmd_levels (c : Nat) (f : Cmd → Cmd) : (s.modCmd c f).levels = s.levels := rfl
@[simp] theorem State.modCmd_jobs (c : Nat) (f : Cmd → Cmd) : (s.modCmd c f).jobs = s.jobs := rfl
@[simp] theorem State.modCmd_wgs (c : Nat) (f : Cmd → Cmd) : (s.modCmd c f).wgs = s.wgs := rfl
@[simp] theorem State.modCmd_cores (c : Nat) (f : Cmd → Cmd) : (s.modCmd c f).cores = s.cores := rfl
@[simp] theorem State.modCmd_clus (c : Nat) (f : Cmd → Cmd) : (s.modCmd c f).clus = s.clus := rfl
@[simp] theorem State.modCmd_trees (c : Nat) (f : Cmd → Cmd) : (s.modCmd c f).trees = s.trees := rfl
@[simp] theorem State.modCmd_errs (c : Nat) (f : Cmd → Cmd) : (s.modCmd c f).errs = s.errs := rfl
@[simp] theorem State.modCmd_power (c : Nat) (f : Cmd → Cmd) : (s.modCmd c f).power = s.power := rfl
@[simp] theorem State.modCmd_replies (c : Nat) (f : Cmd → Cmd) : (s.modCmd c f).replies = s.replies := rfl
@[simp] theorem State.modCmd_veil (c : Nat) (f : Cmd → Cmd) : (s.modCmd c f).veil = s.veil := rfl

@[simp] theorem State.modLevel_agenda (i : Word) (f : Level → Level) : (s.modLevel i f).agenda = s.agenda := rfl
@[simp] theorem State.modLevel_cur (i : Word) (f : Level → Level) : (s.modLevel i f).cur = s.cur := rfl
@[simp] theorem State.modLevel_fresh (i : Word) (f : Level → Level) : (s.modLevel i f).fresh = s.fresh := rfl
@[simp] theorem State.modLevel_clock (i : Word) (f : Level → Level) : (s.modLevel i f).clock = s.clock := rfl
@[simp] theorem State.modLevel_boot (i : Word) (f : Level → Level) : (s.modLevel i f).boot = s.boot := rfl
@[simp] theorem State.modLevel_mem (i : Word) (f : Level → Level) : (s.modLevel i f).mem = s.mem := rfl
@[simp] theorem State.modLevel_gmeta (i : Word) (f : Level → Level) : (s.modLevel i f).gmeta = s.gmeta := rfl
@[simp] theorem State.modLevel_parts (i : Word) (f : Level → Level) : (s.modLevel i f).parts = s.parts := rfl
@[simp] theorem State.modLevel_keys (i : Word) (f : Level → Level) : (s.modLevel i f).keys = s.keys := rfl
@[simp] theorem State.modLevel_walks (i : Word) (f : Level → Level) : (s.modLevel i f).walks = s.walks := rfl
@[simp] theorem State.modLevel_waits (i : Word) (f : Level → Level) : (s.modLevel i f).waits = s.waits := rfl
@[simp] theorem State.modLevel_queues (i : Word) (f : Level → Level) : (s.modLevel i f).queues = s.queues := rfl
@[simp] theorem State.modLevel_jobs (i : Word) (f : Level → Level) : (s.modLevel i f).jobs = s.jobs := rfl
@[simp] theorem State.modLevel_wgs (i : Word) (f : Level → Level) : (s.modLevel i f).wgs = s.wgs := rfl
@[simp] theorem State.modLevel_cores (i : Word) (f : Level → Level) : (s.modLevel i f).cores = s.cores := rfl
@[simp] theorem State.modLevel_clus (i : Word) (f : Level → Level) : (s.modLevel i f).clus = s.clus := rfl
@[simp] theorem State.modLevel_trees (i : Word) (f : Level → Level) : (s.modLevel i f).trees = s.trees := rfl
@[simp] theorem State.modLevel_cmds (i : Word) (f : Level → Level) : (s.modLevel i f).cmds = s.cmds := rfl
@[simp] theorem State.modLevel_errs (i : Word) (f : Level → Level) : (s.modLevel i f).errs = s.errs := rfl
@[simp] theorem State.modLevel_power (i : Word) (f : Level → Level) : (s.modLevel i f).power = s.power := rfl
@[simp] theorem State.modLevel_replies (i : Word) (f : Level → Level) : (s.modLevel i f).replies = s.replies := rfl
@[simp] theorem State.modLevel_veil (i : Word) (f : Level → Level) : (s.modLevel i f).veil = s.veil := rfl

@[simp] theorem State.putByte_agenda (pa : Nat) (b : Byte) : (s.putByte pa b).agenda = s.agenda := rfl
@[simp] theorem State.putByte_cur (pa : Nat) (b : Byte) : (s.putByte pa b).cur = s.cur := rfl
@[simp] theorem State.putByte_fresh (pa : Nat) (b : Byte) : (s.putByte pa b).fresh = s.fresh := rfl
@[simp] theorem State.putByte_clock (pa : Nat) (b : Byte) : (s.putByte pa b).clock = s.clock := rfl
@[simp] theorem State.putByte_boot (pa : Nat) (b : Byte) : (s.putByte pa b).boot = s.boot := rfl
@[simp] theorem State.putByte_gmeta (pa : Nat) (b : Byte) : (s.putByte pa b).gmeta = s.gmeta := rfl
@[simp] theorem State.putByte_parts (pa : Nat) (b : Byte) : (s.putByte pa b).parts = s.parts := rfl
@[simp] theorem State.putByte_keys (pa : Nat) (b : Byte) : (s.putByte pa b).keys = s.keys := rfl
@[simp] theorem State.putByte_walks (pa : Nat) (b : Byte) : (s.putByte pa b).walks = s.walks := rfl
@[simp] theorem State.putByte_waits (pa : Nat) (b : Byte) : (s.putByte pa b).waits = s.waits := rfl
@[simp] theorem State.putByte_queues (pa : Nat) (b : Byte) : (s.putByte pa b).queues = s.queues := rfl
@[simp] theorem State.putByte_levels (pa : Nat) (b : Byte) : (s.putByte pa b).levels = s.levels := rfl
@[simp] theorem State.putByte_jobs (pa : Nat) (b : Byte) : (s.putByte pa b).jobs = s.jobs := rfl
@[simp] theorem State.putByte_wgs (pa : Nat) (b : Byte) : (s.putByte pa b).wgs = s.wgs := rfl
@[simp] theorem State.putByte_cores (pa : Nat) (b : Byte) : (s.putByte pa b).cores = s.cores := rfl
@[simp] theorem State.putByte_clus (pa : Nat) (b : Byte) : (s.putByte pa b).clus = s.clus := rfl
@[simp] theorem State.putByte_trees (pa : Nat) (b : Byte) : (s.putByte pa b).trees = s.trees := rfl
@[simp] theorem State.putByte_cmds (pa : Nat) (b : Byte) : (s.putByte pa b).cmds = s.cmds := rfl
@[simp] theorem State.putByte_errs (pa : Nat) (b : Byte) : (s.putByte pa b).errs = s.errs := rfl
@[simp] theorem State.putByte_power (pa : Nat) (b : Byte) : (s.putByte pa b).power = s.power := rfl
@[simp] theorem State.putByte_replies (pa : Nat) (b : Byte) : (s.putByte pa b).replies = s.replies := rfl
@[simp] theorem State.putByte_veil (pa : Nat) (b : Byte) : (s.putByte pa b).veil = s.veil := rfl

@[simp] theorem State.newId_agenda : s.newId.2.agenda = s.agenda := rfl
@[simp] theorem State.newId_cur : s.newId.2.cur = s.cur := rfl
@[simp] theorem State.newId_clock : s.newId.2.clock = s.clock := rfl
@[simp] theorem State.newId_boot : s.newId.2.boot = s.boot := rfl
@[simp] theorem State.newId_mem : s.newId.2.mem = s.mem := rfl
@[simp] theorem State.newId_gmeta : s.newId.2.gmeta = s.gmeta := rfl
@[simp] theorem State.newId_parts : s.newId.2.parts = s.parts := rfl
@[simp] theorem State.newId_keys : s.newId.2.keys = s.keys := rfl
@[simp] theorem State.newId_walks : s.newId.2.walks = s.walks := rfl
@[simp] theorem State.newId_waits : s.newId.2.waits = s.waits := rfl
@[simp] theorem State.newId_queues : s.newId.2.queues = s.queues := rfl
@[simp] theorem State.newId_levels : s.newId.2.levels = s.levels := rfl
@[simp] theorem State.newId_jobs : s.newId.2.jobs = s.jobs := rfl
@[simp] theorem State.newId_wgs : s.newId.2.wgs = s.wgs := rfl
@[simp] theorem State.newId_cores : s.newId.2.cores = s.cores := rfl
@[simp] theorem State.newId_clus : s.newId.2.clus = s.clus := rfl
@[simp] theorem State.newId_trees : s.newId.2.trees = s.trees := rfl
@[simp] theorem State.newId_cmds : s.newId.2.cmds = s.cmds := rfl
@[simp] theorem State.newId_errs : s.newId.2.errs = s.errs := rfl
@[simp] theorem State.newId_power : s.newId.2.power = s.power := rfl
@[simp] theorem State.newId_replies : s.newId.2.replies = s.replies := rfl
@[simp] theorem State.newId_veil : s.newId.2.veil = s.veil := rfl
@[simp] theorem State.newId_fresh : s.newId.2.fresh = s.fresh + 1 := rfl

@[simp] theorem State.freeWord_agenda : s.freeWord.2.agenda = s.agenda := rfl
@[simp] theorem State.freeWord_cur : s.freeWord.2.cur = s.cur := rfl
@[simp] theorem State.freeWord_clock : s.freeWord.2.clock = s.clock := rfl
@[simp] theorem State.freeWord_boot : s.freeWord.2.boot = s.boot := rfl
@[simp] theorem State.freeWord_mem : s.freeWord.2.mem = s.mem := rfl
@[simp] theorem State.freeWord_gmeta : s.freeWord.2.gmeta = s.gmeta := rfl
@[simp] theorem State.freeWord_parts : s.freeWord.2.parts = s.parts := rfl
@[simp] theorem State.freeWord_keys : s.freeWord.2.keys = s.keys := rfl
@[simp] theorem State.freeWord_walks : s.freeWord.2.walks = s.walks := rfl
@[simp] theorem State.freeWord_waits : s.freeWord.2.waits = s.waits := rfl
@[simp] theorem State.freeWord_queues : s.freeWord.2.queues = s.queues := rfl
@[simp] theorem State.freeWord_levels : s.freeWord.2.levels = s.levels := rfl
@[simp] theorem State.freeWord_jobs : s.freeWord.2.jobs = s.jobs := rfl
@[simp] theorem State.freeWord_wgs : s.freeWord.2.wgs = s.wgs := rfl
@[simp] theorem State.freeWord_cores : s.freeWord.2.cores = s.cores := rfl
@[simp] theorem State.freeWord_clus : s.freeWord.2.clus = s.clus := rfl
@[simp] theorem State.freeWord_trees : s.freeWord.2.trees = s.trees := rfl
@[simp] theorem State.freeWord_cmds : s.freeWord.2.cmds = s.cmds := rfl
@[simp] theorem State.freeWord_errs : s.freeWord.2.errs = s.errs := rfl
@[simp] theorem State.freeWord_power : s.freeWord.2.power = s.power := rfl
@[simp] theorem State.freeWord_replies : s.freeWord.2.replies = s.replies := rfl
@[simp] theorem State.freeWord_veil : s.freeWord.2.veil = s.veil := rfl
@[simp] theorem State.freeWord_fresh : s.freeWord.2.fresh = s.fresh + 1 := rfl

@[simp] theorem State.newId_fst : s.newId.1 = s.fresh := rfl

end Sys2Proof.Machine
end

