-- ==== Sys2Proof/Laws/Ops.lean ====
section
/-!
SUPPORT. Laws/Ops.lean: what the named operations on workgroups, warps, cores and clusters read back as, and what a warp
holds after a result is launched or lands.
-/
namespace Sys2Proof.Machine

/-! Workgroups and warps -/

theorem State.wg_modWg (s : State) (g j : Nat) (f : Workgroup → Workgroup) :
    tfind (s.modWg g f).wgs j = if j = g then (tfind s.wgs g).map f else tfind s.wgs j := by
  split
  · subst j; exact tfind_tmodify ..
  · exact tfind_tmodify_ne _ _ ‹_›

@[simp] theorem State.warp?_modWarp (s : State) (r : WarpRef) (f : Warp → Warp) :
    (s.modWarp r f).warp? r = (s.warp? r).map f := by
  simp only [State.warp?, State.modWarp, State.wg_modWg, if_true]
  cases tfind s.wgs r.wg with
  | none => rfl
  | some g => simp

theorem State.warp?_modWarp_ne (s : State) {r q : WarpRef} (f : Warp → Warp) (h : q ≠ r) :
    (s.modWarp r f).warp? q = s.warp? q := by
  simp only [State.warp?, State.modWarp, State.wg_modWg]
  split
  · rename_i hg
    have hx : r.wix ≠ q.wix := fun hx => h (by cases q; cases r; simp_all)
    rw [hg]
    cases tfind s.wgs r.wg with
    | none => rfl
    | some g => simp [hx]
  · rfl

theorem State.warp?_setWarp (s : State) (r : WarpRef) (w x : Warp) (h : s.warp? r = some x) : (s.setWarp r w).warp? r = some w := by
  simp [State.setWarp, h]

/-- The workgroup of a warp that is there. -/
theorem State.wg_of_warp? {s : State} {r : WarpRef} {w : Warp} (h : s.warp? r = some w) :
    ∃ g, tfind s.wgs r.wg = some g ∧ g.warps[r.wix]? = some w ∧ s.wg r.wg = g := by
  simp only [State.warp?, Option.bind_eq_some_iff] at h
  obtain ⟨g, hg, hw⟩ := h
  exact ⟨g, hg, hw, by simp [State.wg, hg]⟩

theorem State.wg_modWarp (s : State) (r : WarpRef) (f : Warp → Warp) (g : Nat) :
    (s.modWarp r f).wg g = if g = r.wg then { s.wg g with warps := (s.wg g).warps.modify r.wix f } else s.wg g := by
  simp only [State.wg, State.modWarp, State.wg_modWg]
  split
  · subst g
    cases tfind s.wgs r.wg with
    | none => simp [Workgroup.blank]
    | some x => rfl
  · rfl

/-- A field of a workgroup that a change to a warp does not touch. -/
theorem State.wg_modWarp_field {β : Type} (p : Workgroup → β) (hp : ∀ (g : Workgroup) ws, p { g with warps := ws } = p g)
    (s : State) (r : WarpRef) (f : Warp → Warp) (g : Nat) : p ((s.modWarp r f).wg g) = p (s.wg g) := by
  rw [State.wg_modWarp]
  split
  · exact hp _ _
  · rfl

@[simp] theorem State.wg_modCore (s : State) (c : Nat) (f : Core → Core) (g : Nat) : (s.modCore c f).wg g = s.wg g := rfl
@[simp] theorem State.wg_modClu (s : State) (c : Nat) (f : Cluster → Cluster) (g : Nat) : (s.modClu c f).wg g = s.wg g := rfl
@[simp] theorem State.wg_modCmd (s : State) (c : Nat) (f : Cmd → Cmd) (g : Nat) : (s.modCmd c f).wg g = s.wg g := rfl
@[simp] theorem State.warp?_modCore (s : State) (c : Nat) (f : Core → Core) (r : WarpRef) : (s.modCore c f).warp? r = s.warp? r := rfl
@[simp] theorem State.warp?_modClu (s : State) (c : Nat) (f : Cluster → Cluster) (r : WarpRef) : (s.modClu c f).warp? r = s.warp? r := rfl
@[simp] theorem State.warp?_modCmd (s : State) (c : Nat) (f : Cmd → Cmd) (r : WarpRef) : (s.modCmd c f).warp? r = s.warp? r := rfl
@[simp] theorem State.wg_newId (s : State) (g : Nat) : s.newId.2.wg g = s.wg g := rfl
@[simp] theorem State.warp?_newId (s : State) (r : WarpRef) : s.newId.2.warp? r = s.warp? r := rfl
theorem State.wg_congr {s t : State} (h : t.wgs = s.wgs) (g : Nat) : t.wg g = s.wg g := by simp [State.wg, h]
theorem State.warp?_congr {s t : State} (h : t.wgs = s.wgs) (r : WarpRef) : t.warp? r = s.warp? r := by simp [State.warp?, h]

@[simp] theorem State.core_modWarp (s : State) (r : WarpRef) (f : Warp → Warp) (c : Nat) : (s.modWarp r f).core c = s.core c := rfl
@[simp] theorem State.core_setWarp (s : State) (r : WarpRef) (w : Warp) (c : Nat) : (s.setWarp r w).core c = s.core c := rfl
@[simp] theorem State.core_modCore (s : State) (c : Nat) (f : Core → Core) : (s.modCore c f).core c = f (s.core c) := by
  simp [State.core, State.modCore]
theorem State.core_modCore_ne (s : State) {c d : Nat} (f : Core → Core) (h : d ≠ c) : (s.modCore c f).core d = s.core d := by
  simp [State.core, State.modCore, tgetD_tput_ne _ _ _ h]
@[simp] theorem State.cluster_modClu (s : State) (c : Nat) (f : Cluster → Cluster) : (s.modClu c f).cluster c = f (s.cluster c) := by
  simp [State.cluster, State.modClu]
theorem State.cluster_modClu_ne (s : State) {c d : Nat} (f : Cluster → Cluster) (h : d ≠ c) :
    (s.modClu c f).cluster d = s.cluster d := by
  simp [State.cluster, State.modClu, tgetD_tput_ne _ _ _ h]
@[simp] theorem State.cmd_modCmd (s : State) (c : Nat) (f : Cmd → Cmd) : tfind (s.modCmd c f).cmds c = (tfind s.cmds c).map f :=
  tfind_tmodify ..

/-- A flag of a launch record depends on the launch that the workgroup names and on the levels. -/
@[simp] theorem State.flag_modWarp (s : State) (r : WarpRef) (h : Warp → Warp) (g : Nat) (f : LaunchRec → Bool) :
    (s.modWarp r h).flag g f = s.flag g f := by
  by_cases hg : g = r.wg
  · subst hg
    simp only [State.flag, State.modWarp, State.wg_modWg, if_true]
    cases tfind s.wgs r.wg <;> rfl
  · simp only [State.flag, State.modWarp, State.wg_modWg, if_neg hg]
    rfl
@[simp] theorem State.flag_setWarp (s : State) (r : WarpRef) (w : Warp) (g : Nat) (f : LaunchRec → Bool) :
    (s.setWarp r w).flag g f = s.flag g f := State.flag_modWarp ..
@[simp] theorem State.time_modWarp (s : State) (r : WarpRef) (h : Warp → Warp) : (s.modWarp r h).time = s.time := rfl
@[simp] theorem State.time_setWarp (s : State) (r : WarpRef) (w : Warp) : (s.setWarp r w).time = s.time := rfl

/-! Registers (R18, R47-R50) -/

theorem Warp.store_status (w : Warp) (k : RegKey) (x : Word) : (w.store k x).status = w.status := by
  cases k <;> simp only [Warp.store] <;> first | rfl | (split <;> rfl)

/-- Storing changes registers and nothing else. -/
theorem Warp.store_frame (w : Warp) (k : RegKey) (x : Word) :
    w.store k x = { w with v := (w.store k x).v, s := (w.store k x).s, p := (w.store k x).p } := by
  cases k <;> simp only [Warp.store] <;> first | rfl | (split <;> rfl)

theorem Warp.foldr_store_frame (fs : List Flight) (w : Warp) (q : Flight → Bool) :
    ∃ v s p, fs.foldr (fun fl w => if q fl then w.store fl.key fl.val else w) w = { w with v := v, s := s, p := p } := by
  induction fs with
  | nil => exact ⟨w.v, w.s, w.p, rfl⟩
  | cons fl fs ih =>
    obtain ⟨v, s, p, h⟩ := ih
    simp only [List.foldr_cons, h]
    split
    · exact ⟨_, _, _, Warp.store_frame _ _ _⟩
    · exact ⟨v, s, p, rfl⟩

/-- What settling leaves alone (R47). -/
theorem Warp.settle_frame (w : Warp) (t : Nat) :
    ∃ v s p fl st fi, w.settle t = { w with v := v, s := s, p := p, flights := fl, status := st, flagsIn := fi } := by
  obtain ⟨v, s, p, h⟩ := Warp.foldr_store_frame w.flights w (fun fl => decide (fl.avail ≤ t))
  simp only [decide_eq_true_eq] at h
  exact ⟨v, s, p, (w.settle t).flights, (w.settle t).status, (w.settle t).flagsIn, by simp only [Warp.settle, h]⟩

/-- What a starting instruction finds unchanged. -/
theorem Warp.begun_only (w : Warp) :
    ∃ v s p fl st fi, w.begun =
      { w with v := v, s := s, p := p, flights := fl, status := st, flagsIn := fi, now := w.startAt, wait := none } := by
  obtain ⟨v, s, p, fl, st, fi, h⟩ := Warp.settle_frame w w.startAt
  exact ⟨v, s, p, fl, st, fi, by simp only [Warp.begun, h]⟩


@[simp] theorem Warp.begun_pc (w : Warp) : w.begun.pc = w.pc := by obtain ⟨_, _, _, _, _, _, h⟩ := w.begun_only; rw [h]
@[simp] theorem Warp.begun_never (w : Warp) : w.begun.never = w.never := by obtain ⟨_, _, _, _, _, _, h⟩ := w.begun_only; rw [h]
@[simp] theorem Warp.begun_exited (w : Warp) : w.begun.exited = w.exited := by obtain ⟨_, _, _, _, _, _, h⟩ := w.begun_only; rw [h]
@[simp] theorem Warp.begun_em (w : Warp) : w.begun.em = w.em := by obtain ⟨_, _, _, _, _, _, h⟩ := w.begun_only; rw [h]
@[simp] theorem Warp.begun_vAllot (w : Warp) : w.begun.vAllot = w.vAllot := by obtain ⟨_, _, _, _, _, _, h⟩ := w.begun_only; rw [h]
@[simp] theorem Warp.begun_sAllot (w : Warp) : w.begun.sAllot = w.sAllot := by obtain ⟨_, _, _, _, _, _, h⟩ := w.begun_only; rw [h]
@[simp] theorem Warp.begun_ltbase (w : Warp) : w.begun.ltbase = w.ltbase := by obtain ⟨_, _, _, _, _, _, h⟩ := w.begun_only; rw [h]
@[simp] theorem Warp.begun_h (w : Warp) : w.begun.h = w.h := by obtain ⟨_, _, _, _, _, _, h⟩ := w.begun_only; rw [h]
@[simp] theorem Warp.begun_tok (w : Warp) : w.begun.tok = w.tok := by obtain ⟨_, _, _, _, _, _, h⟩ := w.begun_only; rw [h]
@[simp] theorem Warp.begun_splits (w : Warp) : w.begun.splits = w.splits := by obtain ⟨_, _, _, _, _, _, h⟩ := w.begun_only; rw [h]
@[simp] theorem Warp.begun_kUsed (w : Warp) : w.begun.kUsed = w.kUsed := by obtain ⟨_, _, _, _, _, _, h⟩ := w.begun_only; rw [h]
@[simp] theorem Warp.begun_xi (w : Warp) : w.begun.xi = w.xi := by obtain ⟨_, _, _, _, _, _, h⟩ := w.begun_only; rw [h]
@[simp] theorem Warp.begun_tbase (w : Warp) : w.begun.tbase = w.tbase := by obtain ⟨_, _, _, _, _, _, h⟩ := w.begun_only; rw [h]
@[simp] theorem Warp.begun_cwb (w : Warp) : w.begun.cwb = w.cwb := by obtain ⟨_, _, _, _, _, _, h⟩ := w.begun_only; rw [h]
@[simp] theorem Warp.begun_cwl (w : Warp) : w.begun.cwl = w.cwl := by obtain ⟨_, _, _, _, _, _, h⟩ := w.begun_only; rw [h]
@[simp] theorem Warp.begun_pends (w : Warp) : w.begun.pends = w.pends := by obtain ⟨_, _, _, _, _, _, h⟩ := w.begun_only; rw [h]
@[simp] theorem Warp.begun_accs (w : Warp) : w.begun.accs = w.accs := by obtain ⟨_, _, _, _, _, _, h⟩ := w.begun_only; rw [h]
@[simp] theorem Warp.begun_waitAt (w : Warp) : w.begun.waitAt = w.waitAt := by obtain ⟨_, _, _, _, _, _, h⟩ := w.begun_only; rw [h]
@[simp] theorem Warp.begun_doneLanes (w : Warp) : w.begun.doneLanes = w.doneLanes := by obtain ⟨_, _, _, _, _, _, h⟩ := w.begun_only; rw [h]
@[simp] theorem Warp.begun_heldLanes (w : Warp) : w.begun.heldLanes = w.heldLanes := by obtain ⟨_, _, _, _, _, _, h⟩ := w.begun_only; rw [h]
@[simp] theorem Warp.begun_kept (w : Warp) : w.begun.kept = w.kept := by obtain ⟨_, _, _, _, _, _, h⟩ := w.begun_only; rw [h]
@[simp] theorem Warp.begun_heldKept (w : Warp) : w.begun.heldKept = w.heldKept := by obtain ⟨_, _, _, _, _, _, h⟩ := w.begun_only; rw [h]
@[simp] theorem Warp.begun_slot (w : Warp) : w.begun.slot = w.slot := by obtain ⟨_, _, _, _, _, _, h⟩ := w.begun_only; rw [h]
@[simp] theorem Warp.begun_tr (w : Warp) : w.begun.tr = w.tr := by obtain ⟨_, _, _, _, _, _, h⟩ := w.begun_only; rw [h]
@[simp] theorem Warp.begun_barPend (w : Warp) : w.begun.barPend = w.barPend := by obtain ⟨_, _, _, _, _, _, h⟩ := w.begun_only; rw [h]
@[simp] theorem Warp.begun_defers (w : Warp) : w.begun.defers = w.defers := by obtain ⟨_, _, _, _, _, _, h⟩ := w.begun_only; rw [h]
@[simp] theorem Warp.begun_frame (w : Warp) : w.begun.frame = w.frame := by obtain ⟨_, _, _, _, _, _, h⟩ := w.begun_only; rw [h]
@[simp] theorem Warp.begun_nCopy (w : Warp) : w.begun.nCopy = w.nCopy := by obtain ⟨_, _, _, _, _, _, h⟩ := w.begun_only; rw [h]
@[simp] theorem Warp.begun_mail (w : Warp) : w.begun.mail = w.mail := by obtain ⟨_, _, _, _, _, _, h⟩ := w.begun_only; rw [h]
@[simp] theorem Warp.begun_next (w : Warp) : w.begun.next = w.next := by obtain ⟨_, _, _, _, _, _, h⟩ := w.begun_only; rw [h]
@[simp] theorem Warp.begun_busy (w : Warp) : w.begun.busy = w.busy := by obtain ⟨_, _, _, _, _, _, h⟩ := w.begun_only; rw [h]
@[simp] theorem Warp.begun_draw (w : Warp) : w.begun.draw = w.draw := by obtain ⟨_, _, _, _, _, _, h⟩ := w.begun_only; rw [h]
@[simp] theorem Warp.begun_live (w : Warp) : w.begun.live = w.live := by obtain ⟨_, _, _, _, _, _, h⟩ := w.begun_only; rw [h]
@[simp] theorem Warp.begun_atSafe (w : Warp) : w.begun.atSafe = w.atSafe := by obtain ⟨_, _, _, _, _, _, h⟩ := w.begun_only; rw [h]
@[simp] theorem Warp.begun_stopped (w : Warp) : w.begun.stopped = w.stopped := by obtain ⟨_, _, _, _, _, _, h⟩ := w.begun_only; rw [h]
@[simp] theorem Warp.begun_retired (w : Warp) : w.begun.retired = w.retired := by obtain ⟨_, _, _, _, _, _, h⟩ := w.begun_only; rw [h]
@[simp] theorem Warp.begun_batonSeq (w : Warp) : w.begun.batonSeq = w.batonSeq := by obtain ⟨_, _, _, _, _, _, h⟩ := w.begun_only; rw [h]
@[simp] theorem Warp.begun_now (w : Warp) : w.begun.now = w.startAt := rfl
@[simp] theorem Warp.begun_wait (w : Warp) : w.begun.wait = none := rfl
@[simp] theorem Warp.begun_present (w : Warp) : w.begun.present = w.present := by simp [Warp.present]
@[simp] theorem Warp.begun_active (w : Warp) : w.begun.active = w.active := by simp [Warp.active]
@[simp] theorem Warp.begun_tokenBusy (w : Warp) (k : Nat) : w.begun.tokenBusy k = w.tokenBusy k := by simp [Warp.tokenBusy]
@[simp] theorem Warp.begun_isPending (w : Warp) (ks : List RegKey) : w.begun.isPending ks = w.isPending ks := by simp [Warp.isPending]
@[simp] theorem Warp.begun_slotLanes (w : Warp) : w.begun.slotLanes = w.slotLanes := by obtain ⟨_, _, _, _, _, _, h⟩ := w.begun_only; rw [h]
@[simp] theorem Warp.begun_path (w : Warp) : w.begun.path = w.path := by simp [Warp.path]
@[simp] theorem Warp.begun_earlier (w : Warp) : w.begun.earlier = w.earlier := by simp [Warp.earlier]
@[simp] theorem Warp.begun_held (w : Warp) (a : Access) : w.begun.held a = w.held a := by simp [Warp.held]
@[simp] theorem Warp.begun_releasedA (w : Warp) : w.begun.releasedA = w.releasedA := by simp [Warp.releasedA]
@[simp] theorem Warp.begun_releasedBy (w : Warp) (o : Scope) : w.begun.releasedBy o = w.releasedBy o := by simp [Warp.releasedBy]
@[simp] theorem Warp.begun_released (w : Warp) : w.begun.released = w.released := by simp [Warp.released]

end Sys2Proof.Machine
end

