-- ==== Sys2Proof/Laws/Issue.lean ====
section
/-!
SUPPORT. Laws/Issue.lean: what starting, finishing and computing do, once for every instruction.
-/
namespace Sys2Proof.Machine

/-! Starting -/

theorem mkCtx_fields (r : WarpRef) (w : Warp) (op : Nat) (f : Fields) (sg : Sig) (prev : Option Wait) (sb : Bool) :
    let c := (mkCtx r w op f sg prev sb).1
    c.w = r ∧ c.op = op ∧ c.f = f ∧ c.sg = sg ∧ c.start = w.now ∧ c.prev = prev ∧ c.len = lengthOf op f.sp ∧ c.sb = sb ∧
      c.uni = isUniform sg f ∧ c.early = [] := by
  simp only [mkCtx]
  split
  · split <;> simp_all
  · simp_all

section ctx
variable (op : Nat) (f : Fields) (s : State) (w : Warp)
@[simp] theorem ctxOf_w : (ctxOf op f s w).w = s.cur := (mkCtx_fields ..).1
@[simp] theorem ctxOf_op : (ctxOf op f s w).op = op := (mkCtx_fields ..).2.1
@[simp] theorem ctxOf_f : (ctxOf op f s w).f = f := (mkCtx_fields ..).2.2.1
@[simp] theorem ctxOf_sg : (ctxOf op f s w).sg = sigFor op f := (mkCtx_fields ..).2.2.2.1
@[simp] theorem ctxOf_start : (ctxOf op f s w).start = w.startAt := (mkCtx_fields ..).2.2.2.2.1
@[simp] theorem ctxOf_prev : (ctxOf op f s w).prev = w.wait := (mkCtx_fields ..).2.2.2.2.2.1
@[simp] theorem ctxOf_len : (ctxOf op f s w).len = lengthOf op f.sp := (mkCtx_fields ..).2.2.2.2.2.2.1
@[simp] theorem ctxOf_sb : (ctxOf op f s w).sb = s.flag s.cur.wg (·.sbcheck) := (mkCtx_fields ..).2.2.2.2.2.2.2.1
@[simp] theorem ctxOf_uni : (ctxOf op f s w).uni = isUniform (sigFor op f) f := (mkCtx_fields ..).2.2.2.2.2.2.2.2.1
@[simp] theorem ctxOf_early : (ctxOf op f s w).early = [] := (mkCtx_fields ..).2.2.2.2.2.2.2.2.2
end ctx

/-- The threads of an instruction that is ready are those that its guard names now. -/
theorem Ready.lanes {op : Nat} {f : Fields} {s : State} {w : Warp} (h : Ready op f s w) :
    (ctxOf op f s w).lanes = (startCtx op f s w).1.lanes := by simp [ctxOf, h.fresh]

/-- Those of one that goes on are those of its start (R42). -/
theorem Resumed.lanes {op : Nat} {f : Fields} {s : State} {w : Warp} (h : Resumed op f s w) :
    (ctxOf op f s w).lanes = w.slotLanes := by simp [ctxOf, h.inside]

/-- An instruction that is ready runs its effect (R377). -/
theorem issueLanes_ready {op : Nat} {f : Fields} {s : State} {w : Warp} (h : Ready op f s w) (body : Ctx → Warp → State → Res) :
    issueLanes op f s body = body (ctxOf op f s w) w.begun (s.setWarp s.cur w.begun) := by
  have he : (startCtx op f s w).1.early = [] := (mkCtx_fields ..).2.2.2.2.2.2.2.2.2
  have e : ({ (startCtx op f s w).1 with early := [] } : Ctx) = (startCtx op f s w).1 := by rw [← he]
  simp only [issueLanes, h.here, if_neg h.present, h.fresh, h.tokens, h.settled, h.clear, h.legal, h.onTime, ctxOf]
  simp [e]

/-- An instruction that goes on after a wait inside it goes straight to its body. -/
theorem issueLanes_resumed {op : Nat} {f : Fields} {s : State} {w : Warp} (h : Resumed op f s w) (body : Ctx → Warp → State → Res) :
    issueLanes op f s body = body (ctxOf op f s w) w.begun (s.setWarp s.cur w.begun) := by
  simp only [issueLanes, h.here, if_neg h.present, h.inside, ctxOf]
  simp

/-- An instruction that is ready runs its effect (R377). -/
theorem issue_ready {op : Nat} {f : Fields} {s : State} {w : Warp} (h : Ready op f s w) (body : Ctx → Warp → State → Res) :
    issue op f s body = body (ctxOf op f s w) w.begun (s.setWarp s.cur w.begun) := by
  rw [issue, issueLanes_ready h, ctxOf_early]

/-- An instruction that goes on after a wait inside it goes straight to its body. -/
theorem issue_resumed {op : Nat} {f : Fields} {s : State} {w : Warp} (h : Resumed op f s w) (body : Ctx → Warp → State → Res) :
    issue op f s body = body (ctxOf op f s w) w.begun (s.setWarp s.cur w.begun) := by
  rw [issue, issueLanes_resumed h, ctxOf_early]

/-! Only the warp changes -/

theorem OnlyWarp.refl (s : State) (r : WarpRef) : OnlyWarp s s r where
  rest := rfl
  group g := by
    cases h : tfind s.wgs g with
    | none => rfl
    | some k => simp [State.wg, h]
  warps _ _ := rfl
  core _ := rfl
  clu _ := rfl

theorem OnlyWarp.trans {s t u : State} {r : WarpRef} (h : OnlyWarp s t r) (k : OnlyWarp t u r) : OnlyWarp s u r where
  rest := by rw [k.rest, h.rest]
  group g := by
    rw [k.group g, h.group g]
    cases tfind s.wgs g <;> rfl
  warps q hq := (k.warps q hq).trans (h.warps q hq)
  core c := by rw [k.core c, h.core c]
  clu c := by rw [k.clu c, h.clu c]

theorem OnlyWarp.modWarp (s : State) (r : WarpRef) (f : Warp → Warp) : OnlyWarp s (s.modWarp r f) r where
  rest := rfl
  group g := by
    have := State.wg_modWg s r.wg g fun g => { g with warps := g.warps.modify r.wix f }
    simp only [State.modWarp] at this ⊢
    rw [this]
    split
    · rename_i hg
      subst hg
      cases h : tfind s.wgs r.wg with
      | none => rfl
      | some k => simp [State.wg, State.wg_modWg, h]
    · rename_i hg
      cases h : tfind s.wgs g with
      | none => rfl
      | some k => simp [State.wg, State.wg_modWg, hg, h]
  warps q hq := State.warp?_modWarp_ne s f hq
  core _ := rfl
  clu _ := rfl

theorem OnlyWarp.setWarp (s : State) (r : WarpRef) (w : Warp) : OnlyWarp s (s.setWarp r w) r := OnlyWarp.modWarp ..

theorem OnlyWarp.progress (s : State) (r : WarpRef) (c n : Nat) :
    OnlyWarp s (s.modCore c fun k => { k with progress := n }) r where
  rest := rfl
  group g := (OnlyWarp.refl s r).group g
  warps _ _ := rfl
  core d := by
    by_cases h : d = c
    · subst h; simp
    · rw [State.core_modCore_ne s _ h]
  clu _ := rfl

theorem OnlyWarp.power (s : State) (r : WarpRef) (c n : Nat) :
    OnlyWarp s (s.modClu c fun k => { k with power := k.power + n }) r where
  rest := rfl
  group g := (OnlyWarp.refl s r).group g
  warps _ _ := rfl
  core _ := rfl
  clu d := by
    by_cases h : d = c
    · subst h; simp
    · rw [State.cluster_modClu_ne s _ h]

theorem OnlyWarp.mem {s t : State} {r : WarpRef} (h : OnlyWarp s t r) : t.mem = s.mem := by rw [h.rest]
theorem OnlyWarp.cmds {s t : State} {r : WarpRef} (h : OnlyWarp s t r) : t.cmds = s.cmds := by rw [h.rest]
theorem OnlyWarp.cur {s t : State} {r : WarpRef} (h : OnlyWarp s t r) : t.cur = s.cur := by rw [h.rest]

/-- A field of a workgroup other than its warps. -/
theorem OnlyWarp.field {β : Type} {s t : State} {r : WarpRef} (h : OnlyWarp s t r) (p : Workgroup → β)
    (hp : ∀ (g : Workgroup) ws, p { g with warps := ws } = p g) (g : Nat) : p (t.wg g) = p (s.wg g) := by
  have := h.group g
  simp only [State.wg] at this ⊢
  cases hs : tfind s.wgs g with
  | none => rw [hs] at this; rw [this]; rfl
  | some k => rw [hs] at this; rw [this]; exact hp _ _

/-! Finishing (R36, R46) -/

theorem Ctx.charge_only (c : Ctx) (s : State) (extra : Nat) : OnlyWarp s (c.charge s extra) c.w :=
  (OnlyWarp.modWarp ..).trans (OnlyWarp.power ..)

theorem Ctx.charge_warp (c : Ctx) (s : State) (extra : Nat) :
    (c.charge s extra).warp? c.w =
      (s.warp? c.w).map fun w => { w with busy := c.start + max 1 c.n + extra, draw := weightOf c.op c.f * c.n } := by
  simp [Ctx.charge]

/-- The warp after its instruction has retired. -/
def Ctx.retired (c : Ctx) (w : Warp) (pc : GAddr) (flush : Bool) (extra : Nat) (stop : Bool) : Warp :=
  { w with
    busy := c.start + max 1 c.n + extra, draw := weightOf c.op c.f * c.n, pc := pc
    next := max (c.start + c.span + extra) (if flush then c.start + flushCycles else 0)
    wait := none, doneLanes := [], kept := none, tr := [], atSafe := c.f.sp, live := if c.f.sp then c.f.live else w.live
    stopped := stop || w.stopped }

theorem Ctx.advance_only (c : Ctx) (s : State) (pc : GAddr) (flush : Bool) (extra : Nat) : OnlyWarp s (c.advance s pc flush extra) c.w :=
  ((c.charge_only s extra).trans (OnlyWarp.progress ..)).trans (OnlyWarp.modWarp ..)

theorem Ctx.advance_warp (c : Ctx) (s : State) (pc : GAddr) (flush : Bool) (extra : Nat) :
    (c.advance s pc flush extra).warp? c.w = (s.warp? c.w).map fun w => c.retired w pc flush extra false := by
  simp only [Ctx.advance, State.warp?_modWarp, State.warp?_modCore, Ctx.charge_warp, Option.map_map]
  cases s.warp? c.w <;> simp [Ctx.retired]

/-- A safe point of a level that has not been cancelled stops the warp where its workgroup is to be pre-empted (R385). -/
theorem State.safePoint_calm {s : State} {r : WarpRef} (h : (s.wg r.wg).cancelled = false) :
    s.safePoint r = if (s.wg r.wg).preempt then s.modWarp r fun w => { w with stopped := true } else s := by
  simp [State.safePoint, h]

/-- Where the level has not been cancelled, finishing changes only the warp. -/
theorem Ctx.finish_only (c : Ctx) (s : State) (pc : GAddr) (flush : Bool) (extra : Nat)
    (h : c.f.sp = true → (s.wg c.w.wg).cancelled = false) : OnlyWarp s (c.finish s pc flush extra) c.w := by
  have h3 := c.advance_only s pc flush extra
  unfold Ctx.finish
  split
  · rename_i hsp
    rw [State.safePoint_calm ((h3.field (·.cancelled) (fun _ _ => rfl) _).trans (h hsp))]
    split
    · exact h3.trans (OnlyWarp.modWarp ..)
    · exact h3
  · exact h3

theorem Ctx.finish_warp (c : Ctx) (s : State) (pc : GAddr) (flush : Bool) (extra : Nat)
    (h : c.f.sp = true → (s.wg c.w.wg).cancelled = false) :
    (c.finish s pc flush extra).warp? c.w =
      (s.warp? c.w).map fun w => c.retired w pc flush extra (c.f.sp && (s.wg c.w.wg).preempt) := by
  have h3 := c.advance_only s pc flush extra
  unfold Ctx.finish
  split
  · rename_i hsp
    rw [State.safePoint_calm ((h3.field (·.cancelled) (fun _ _ => rfl) _).trans (h hsp)), h3.field (·.preempt) (fun _ _ => rfl)]
    split <;> simp_all [Ctx.advance_warp] <;> cases s.warp? c.w <;> simp [Ctx.retired]
  · simp_all [Ctx.advance_warp]

end Sys2Proof.Machine
end

