-- ==== Sys2Proof/Laws/Compute.lean ====
section
/-!
SUPPORT. Laws/Compute.lean: what the results of an instruction leave in the registers and in STATUS (R18, R25, R47-R50), and what
every computing instruction does.
-/
namespace Sys2Proof.Machine

theorem Warp.launch_only (w : Warp) (k : RegKey) (x : Word) (a : Nat) : ∃ fl, w.launch k x a = { w with flights := fl } := by
  simp only [Warp.launch]
  split
  · exact ⟨w.flights, rfl⟩
  · exact ⟨_, rfl⟩

/-- A launched result is what its register will hold; P7 discards it (R18, R50). -/
theorem Warp.final_launch (w : Warp) (k : RegKey) (x : Word) (a : Nat) (j : RegKey) :
    (w.launch k x a).final j = if j = k ∧ k.constant = false then x else w.final j := by
  cases hc : k.constant with
  | true => simp [Warp.launch, hc]
  | false =>
    by_cases hj : j = k
    · subst hj; simp [Warp.final, Warp.launch, hc]
    · have : ¬ k = j := fun h => hj h.symm
      simp [Warp.final, Warp.launch, hc, hj, this]
      cases j <;> simp [Warp.stored]

/-- A list of results launched in order. -/
def Warp.launches (w : Warp) (l : List (RegKey × Word × Nat)) : Warp := l.foldl (fun w x => w.launch x.1 x.2.1 x.2.2) w

theorem Warp.launches_only (l : List (RegKey × Word × Nat)) : ∀ w : Warp, ∃ fl, w.launches l = { w with flights := fl } := by
  induction l with
  | nil => intro w; exact ⟨w.flights, rfl⟩
  | cons x l ih =>
    intro w
    obtain ⟨fl, h⟩ := ih (w.launch x.1 x.2.1 x.2.2)
    obtain ⟨fk, hk⟩ := w.launch_only x.1 x.2.1 x.2.2
    refine ⟨fl, ?_⟩
    show (w.launch x.1 x.2.1 x.2.2).launches l = _
    rw [h, hk]

theorem Warp.final_launches_of_not_mem (l : List (RegKey × Word × Nat)) (k : RegKey) :
    ∀ w : Warp, k ∉ l.map (·.1) → (w.launches l).final k = w.final k := by
  induction l with
  | nil => intro w _; rfl
  | cons x l ih =>
    intro w h
    simp only [List.map_cons, List.mem_cons, not_or] at h
    have := ih (w.launch x.1 x.2.1 x.2.2) h.2
    rw [Warp.final_launch, if_neg (fun e => h.1 e.1)] at this
    simpa [Warp.launches] using this

/-- Where the registers differ, each will hold its result. -/
theorem Warp.final_launches (l : List (RegKey × Word × Nat)) (hn : (l.map (·.1)).Nodup) {k : RegKey} {v : Word} {a : Nat}
    (hk : k.constant = false) : ∀ w : Warp, (k, v, a) ∈ l → (w.launches l).final k = v := by
  induction l with
  | nil => intro w h; cases h
  | cons x l ih =>
    intro w h
    simp only [List.map_cons, List.nodup_cons] at hn
    show ((w.launch x.1 x.2.1 x.2.2).launches l).final k = v
    rcases List.mem_cons.1 h with h | h
    · subst h
      rw [Warp.final_launches_of_not_mem _ _ _ hn.1, Warp.final_launch, if_pos ⟨rfl, hk⟩]
    · exact ih hn.2 _ h

/-- The registers of a result and what each receives, low word first. -/
def resultWrites (keys : List RegKey) (v avail : Nat) : List (RegKey × Word × Nat) :=
  keys.zipIdx.map fun x => (x.1, BitVec.ofNat 32 (v >>> (32 * x.2)), avail)

theorem resultWrites_keys (keys : List RegKey) (v avail : Nat) : (resultWrites keys v avail).map (·.1) = keys := by
  simp [resultWrites, Function.comp_def]

theorem Warp.launches_append (w : Warp) (l m : List (RegKey × Word × Nat)) : w.launches (l ++ m) = (w.launches l).launches m := by
  simp [Warp.launches]

theorem Warp.launch_flagsIn (w : Warp) (fi : List FlagFlight) (k : RegKey) (x : Word) (a : Nat) :
    ({ w with flagsIn := fi } : Warp).launch k x a = { w.launch k x a with flagsIn := fi } := by
  simp only [Warp.launch]; split <;> rfl

theorem Warp.launches_flagsIn (l : List (RegKey × Word × Nat)) : ∀ (w : Warp) (fi : List FlagFlight),
    ({ w with flagsIn := fi } : Warp).launches l = { w.launches l with flagsIn := fi } := by
  induction l with
  | nil => intro w fi; rfl
  | cons x l ih =>
    intro w fi
    have := ih (w.launch x.1 x.2.1 x.2.2) fi
    simpa [Warp.launches, Warp.launch_flagsIn] using this

theorem Warp.finalStatus_cons (w : Warp) (fl : FlagFlight) :
    ({ w with flagsIn := fl :: w.flagsIn } : Warp).finalStatus = w.finalStatus ||| fl.flags := by
  have h : ∀ (l : List FlagFlight) (a b : Word),
      l.foldl (fun st fl => st ||| fl.flags) (a ||| b) = l.foldl (fun st fl => st ||| fl.flags) a ||| b := by
    intro l
    induction l with
    | nil => intro a b; rfl
    | cons x l ih =>
      intro a b
      simp only [List.foldl_cons]
      rw [← ih, BitVec.or_assoc, BitVec.or_comm b, ← BitVec.or_assoc]
  simp only [Warp.finalStatus, List.foldl_cons]
  exact h _ _ _

/-- One result joins those on their way (R25, R47). -/
theorem Warp.putResult_eq (w : Warp) (keys : List RegKey) (v : Nat) (flags : Word) (avail : Nat) :
    ∃ fi, w.putResult keys v flags avail = { w.launches (resultWrites keys v avail) with flagsIn := fi } ∧
      (w.putResult keys v flags avail).finalStatus = w.finalStatus ||| flags := by
  have hl : keys.zipIdx.foldl (fun (w : Warp) (x : RegKey × Nat) => w.launch x.1 (BitVec.ofNat 32 (v >>> (32 * x.2))) avail) w =
      w.launches (resultWrites keys v avail) := by
    simp [Warp.launches, resultWrites, List.foldl_map]
  obtain ⟨fl, h⟩ := Warp.launches_only (resultWrites keys v avail) w
  by_cases hf : flags = 0
  · subst hf
    exact ⟨w.flagsIn, by simp only [Warp.putResult, if_true, hl, h], by simp [Warp.putResult, hl, h, Warp.finalStatus]⟩
  · refine ⟨{ flags := flags, avail := avail } :: w.flagsIn, by simp only [Warp.putResult, if_neg hf, hl, h], ?_⟩
    simp only [Warp.putResult, if_neg hf, hl, h]
    exact Warp.finalStatus_cons w { flags := flags, avail := avail }

/-- The results of all lanes join those on their way. -/
theorem Warp.putResults_eq {β : Type} (keys : β → List RegKey) (v : β → Nat) (flags : β → Word) (avail : β → Nat) (l : List β) :
    ∀ w : Warp, ∃ fi, l.foldl (fun w x => w.putResult (keys x) (v x) (flags x) (avail x)) w =
        { w.launches (l.flatMap fun x => resultWrites (keys x) (v x) (avail x)) with flagsIn := fi } ∧
      (l.foldl (fun w x => w.putResult (keys x) (v x) (flags x) (avail x)) w).finalStatus = l.foldl (fun a x => a ||| flags x) w.finalStatus := by
  induction l with
  | nil => intro w; exact ⟨w.flagsIn, rfl, rfl⟩
  | cons x l ih =>
    intro w
    obtain ⟨fi, h1, h2⟩ := w.putResult_eq (keys x) (v x) (flags x) (avail x)
    obtain ⟨fj, h3, h4⟩ := ih (w.putResult (keys x) (v x) (flags x) (avail x))
    refine ⟨fj, ?_, ?_⟩
    · simp only [List.foldl_cons, List.flatMap_cons, Warp.launches_append]
      rw [h3, h1, Warp.launches_flagsIn]
    · simp only [List.foldl_cons]
      rw [h4, h2]

/-! Executing threads (R42, R43) -/

theorem maskLanes_nodup (m : Mask) : (maskLanes m).Nodup := List.nodup_range.filter _

theorem lanes_map_nodup {l : List Nat} (h : l.Nodup) (g : Nat → Nat → Bool × Bool) :
    (((l.zipIdx.map fun x => (x.1, x.2, g x.1 x.2)).filter fun x => x.2.2.1).map fun x => x.1).Nodup := by
  have : (l.zipIdx.map fun x => (x.1, x.2, g x.1 x.2)).map (fun x => x.1) = l := by
    simp [Function.comp_def]
  refine List.Nodup.sublist (List.Sublist.map _ List.filter_sublist) ?_
  rw [this]
  exact h

/-- The executing threads differ; a uniform instruction has at most one. -/
theorem mkCtx_lanes (r : WarpRef) (w : Warp) (op : Nat) (f : Fields) (sg : Sig) (prev : Option Wait) (sb : Bool) :
    ((mkCtx r w op f sg prev sb).1.lanes.map (·.1)).Nodup ∧
      (isUniform sg f = true → (mkCtx r w op f sg prev sb).1.lanes.length ≤ 1) := by
  simp only [mkCtx]
  split
  · split
    · simp
    · dsimp only; split <;> split <;> simp
  · refine ⟨?_, fun h => absurd h ‹_›⟩
    have h := lanes_map_nodup (maskLanes_nodup w.active) (fun t j => if f.gp = 7 then (!f.gn, false)
      else let x := w.readAt (.p f.gp.toNat t) (if isUniform sg f || (0x60 ≤ op && op ≤ 0x66) then w.now else w.now + j); (x.1.getLsbD 0 ^^ f.gn, x.2))
    simpa [List.map_map, Function.comp_def, Ctx.readTime] using h

theorem operandKeys_nodup (xi : Int) (code : Code9) (n t : Nat) : (operandKeys xi code n t).Nodup := by
  unfold operandKeys
  split
  · exact List.Nodup.map (fun a b h => by simpa using h) List.nodup_range
  · exact List.Nodup.map (fun a b h => by simpa using h) List.nodup_range
  · exact List.Nodup.map (fun a b h => by simpa using h) List.nodup_range
  · simp
  · simp

theorem slotKeys_nodup (xi : Int) (code : Code9) (sl : Slot) (t : Nat) : (slotKeys xi code sl t).Nodup := by
  unfold slotKeys
  split
  · split
    · simp
    · exact operandKeys_nodup ..
  · simp

/-- Different threads name different registers, unless the field is an S register. -/
theorem slotKeys_disjoint {xi : Int} {code : Code9} {sl : Slot} {t u : Nat} (h : t ≠ u) (hs : isS code = false) :
    List.Disjoint (slotKeys xi code sl t) (slotKeys xi code sl u) := by
  unfold slotKeys
  split
  · split
    · simp
    · unfold operandKeys
      unfold isS at hs
      split
      · intro k hk hk'
        simp only [List.mem_map] at hk hk'
        obtain ⟨i, _, rfl⟩ := hk
        obtain ⟨j, _, hj⟩ := hk'
        exact h (by simpa using (RegKey.v.injEq .. ▸ hj).2.symm)
      · intro k hk hk'
        simp only [List.mem_map] at hk hk'
        obtain ⟨i, _, rfl⟩ := hk
        obtain ⟨j, _, hj⟩ := hk'
        exact h (by simpa using (RegKey.v.injEq .. ▸ hj).2.symm)
      · simp_all
      · simp [List.Disjoint, h]
      · simp
  · simp

/-- The destinations of all executing threads differ. -/
theorem dests_nodup (r : WarpRef) (w : Warp) (op : Nat) (f : Fields) (sg : Sig) (prev : Option Wait) (sb : Bool) (xi : Int)
    (h : isS f.d = true → isUniform sg f = true) :
    ((mkCtx r w op f sg prev sb).1.lanes.flatMap fun x => slotKeys xi f.d sg.d x.1).Nodup := by
  obtain ⟨h1, h2⟩ := mkCtx_lanes r w op f sg prev sb
  rw [List.nodup_flatMap]
  refine ⟨fun x _ => slotKeys_nodup .., ?_⟩
  cases hs : isS f.d with
  | true =>
    have := h2 (h hs)
    match hl : (mkCtx r w op f sg prev sb).1.lanes with
    | [] => simp
    | [x] => simp
    | _ :: _ :: _ => rw [hl] at this; simp at this
  | false =>
    rw [List.nodup_iff_pairwise_ne] at h1
    rw [List.pairwise_map] at h1
    exact h1.imp fun hne => slotKeys_disjoint hne hs

/-- How an instruction ends: from the state that its effect leaves, only its warp changes. -/
theorem finish_spec {op : Nat} {f : Fields} {s : State} {w : Warp} (h : f.sp = true → (s.wg s.cur.wg).cancelled = false) (s1 : State)
    (w1 : Warp) (pc : GAddr) (flush : Bool) (extra : Nat) (hc : (s1.wg s.cur.wg).cancelled = (s.wg s.cur.wg).cancelled)
    (hw : s1.warp? s.cur = some w1) :
    ∃ w', OnlyWarp s1 ((ctxOf op f s w).finish s1 pc flush extra) s.cur ∧
      ((ctxOf op f s w).finish s1 pc flush extra).warp? s.cur = some w' ∧
      w' = (ctxOf op f s w).retired w1 pc flush extra (f.sp && (s1.wg s.cur.wg).preempt) := by
  have hcalm : (ctxOf op f s w).f.sp = true → (s1.wg (ctxOf op f s w).w.wg).cancelled = false := by
    rw [ctxOf_f, ctxOf_w, hc]; exact h
  have h1 := (ctxOf op f s w).finish_only s1 pc flush extra hcalm
  have h2 := (ctxOf op f s w).finish_warp s1 pc flush extra hcalm
  rw [ctxOf_w] at h1 h2
  rw [hw, ctxOf_f] at h2
  exact ⟨_, h1, h2, rfl⟩

/-- An instruction whose effect leaves `s2` ends there, whatever else of its warp `s1` leaves open. -/
theorem ends_finish {i : Instr} {op : Nat} {f : Fields} {s s1 s2 : State} {w w1 : Warp} {pc : GAddr} {flush : Bool} {extra : Nat}
    (he : exec i s = .next ((ctxOf op f s w).finish s2 pc flush extra)) (h : f.sp = true → (s.wg s.cur.wg).cancelled = false)
    (hc : (s2.wg s.cur.wg).cancelled = (s.wg s.cur.wg).cancelled) (ho : OnlyWarp s1 s2 s.cur) (hw : s2.warp? s.cur = some w1) :
    Ends i f s s1 w1 pc := by
  obtain ⟨w', h1, h2, h3⟩ := finish_spec (op := op) (w := w) h s2 w1 pc flush extra hc hw
  refine ⟨_, w', he, ho.trans h1, h2, ?_⟩
  rw [h3]
  simp [Ctx.retired]

/-- Between the state in which a ready instruction is found and the state after a change to its warp. -/
theorem begun_cancelled (s : State) (r : WarpRef) (w w1 : Warp) :
    (((s.setWarp r w).setWarp r w1).wg r.wg).cancelled = (s.wg r.wg).cancelled :=
  ((OnlyWarp.setWarp s r w).trans (OnlyWarp.setWarp _ r w1)).field (·.cancelled) (fun _ _ => rfl) _

/-- What every computing instruction does. -/
theorem compute_spec {i : Instr} {op : Nat} {f : Fields} {val : Ctx → Warp → Nat × Nat → Nat × Word} {fn : Ctx → Warp → Nat × Nat → Val}
    (he : ∀ s, exec i s = compute op f s fn) (hu : ∀ w, decodeFault w op f = none → (sigFor op f).u = .byDest)
    (hv : ∀ s w x, Ready op f s w → x ∈ (ctxOf op f s w).lanes →
      fn (ctxOf op f s w) w.begun x = { v := (val (ctxOf op f s w) w.begun x).1, flags := (val (ctxOf op f s w) w.begun x).2 }) :
    Computes i op f val := by
  intro s w h
  rw [he, compute, issue_ready h]
  generalize hc : ctxOf op f s w = c
  have hw : c.w = s.cur := by rw [← hc]; simp
  have hf : c.f = f := by rw [← hc]; simp
  have hwarp : (s.setWarp s.cur w.begun).warp? s.cur = some w.begun := State.warp?_setWarp _ _ _ _ h.here
  obtain ⟨fi, h1, h2⟩ := Warp.putResults_eq (fun x => c.dest w.begun x.1) (fun x => (fn c w.begun x).v) (fun x => (fn c w.begun x).flags)
    (fun x => c.readTime x.2 + (latency op).getD 0) c.lanes w.begun
  obtain ⟨fl, h3⟩ := Warp.launches_only (c.lanes.flatMap fun x =>
    resultWrites (c.dest w.begun x.1) (fn c w.begun x).v (c.readTime x.2 + (latency op).getD 0)) w.begun
  simp only [Ctx.done]
  generalize hr : c.lanes.foldl (fun acc x => acc.putResult (c.dest w.begun x.1) (fn c w.begun x).v (fn c w.begun x).flags
    (c.readTime x.2 + (latency op).getD 0)) w.begun = w1 at h1 h2 ⊢
  rw [hw]
  obtain ⟨w', honly, hfin, hw'⟩ := finish_spec h.calm ((s.setWarp s.cur w.begun).setWarp s.cur w1) w1 (c.fall w.begun) false 0
    (begun_cancelled ..) (State.warp?_setWarp _ _ _ _ hwarp)
  rw [hc] at honly hfin hw'
  have hlen : c.fall w.begun = nextPc op f w := by rw [← hc]; simp [Ctx.fall, nextPc]
  have hval : ∀ x ∈ c.lanes, (fn c w.begun x).v = (val c w.begun x).1 ∧ (fn c w.begun x).flags = (val c w.begun x).2 := by
    intro x hx
    have := hv s w x h (by rw [hc]; exact hx)
    rw [hc] at this
    simp [this]
  have hnd : ((c.lanes.flatMap fun x => resultWrites (c.dest w.begun x.1) (fn c w.begun x).v (c.readTime x.2 + (latency op).getD 0)).map (·.1)).Nodup := by
    rw [List.map_flatMap]
    simp only [resultWrites_keys]
    have := dests_nodup s.cur w.begun op f (sigFor op f) w.wait (s.flag s.cur.wg (·.sbcheck)) w.begun.xi.toInt (by
      intro hs
      simp [isUniform, hu _ h.legal, hs])
    rw [← hc]
    simp only [Ctx.dest, ctxOf_f, ctxOf_sg, h.lanes]
    exact this
  have hfinal : ∀ k, w'.final k = (w.begun.launches (c.lanes.flatMap fun x =>
      resultWrites (c.dest w.begun x.1) (fn c w.begun x).v (c.readTime x.2 + (latency op).getD 0))).final k := by
    intro k
    rw [hw', h1]
    simp only [Warp.final, Ctx.retired]
    cases k <;> rfl
  refine ⟨_, w', rfl, ((OnlyWarp.setWarp ..).trans (OnlyWarp.setWarp ..)).trans honly, hfin, ?_, ?_, ?_, ?_⟩
  · rw [hw', h1, h3, ← hlen]
    simp [Retired, Ctx.retired, hf]
  · intro x hx k n hk hconst
    rw [hfinal, ← (hval x hx).1]
    refine Warp.final_launches _ hnd hconst _ (a := c.readTime x.2 + (latency op).getD 0) ?_
    exact List.mem_flatMap.2 ⟨x, hx, List.mem_map.2 ⟨(k, n), hk, rfl⟩⟩
  · intro k hk
    rw [hfinal]
    refine Warp.final_launches_of_not_mem _ _ _ ?_
    rw [List.map_flatMap]
    simp only [resultWrites_keys, List.mem_flatMap, not_exists, not_and]
    exact hk
  · rw [hw']
    show w1.finalStatus = _
    rw [h2]
    have hl : ∀ (l : List (Nat × Nat)) (a : Word), (∀ x ∈ l, x ∈ c.lanes) →
        l.foldl (fun a x => a ||| (fn c w.begun x).flags) a = l.foldl (fun a x => a ||| (val c w.begun x).2) a := by
      intro l
      induction l with
      | nil => intro a _; rfl
      | cons x l ih =>
        intro a hm
        simp only [List.foldl_cons]
        rw [(hval x (hm x (List.mem_cons_self ..))).2, ih _ fun y hy => hm y (List.mem_cons_of_mem _ hy)]
    exact hl _ _ fun _ h => h

/-- An instruction without a decode-time fault has the signature of its opcode. -/
theorem sigOf_of_legal {w : Warp} {op : Nat} {f : Fields} (h : decodeFault w op f = none) : sigOf op f = some (sigFor op f) := by
  unfold decodeFault at h
  split at h
  · simp at h
  · split at h <;> try simp at h
    split at h
    · simp at h
    · rename_i h2
      simp [sigFor, h2]

theorem sigInt_byDest (op : Nat) (f : Fields) (h : 0x10 ≤ op) (h2 : op < 0x40) : (sigOf op f).elim True (fun g => g.u = .byDest) := by
  simp only [sigOf, h2, ↓reduceIte]
  unfold sigControlInt
  split
  all_goals first | omega | skip
  all_goals dsimp only
  all_goals repeat' split
  all_goals simp_all

theorem sigFloat_byDest (op : Nat) (f : Fields) (h : 0x40 ≤ op) (h2 : op < 0x60) : (sigOf op f).elim True (fun g => g.u = .byDest) := by
  simp only [sigOf, show ¬ op < 0x40 by omega, show op < 0x70 by omega, ↓reduceIte]
  unfold sigFloatLane
  split
  all_goals first | omega | skip
  all_goals dsimp only
  all_goals repeat' split
  all_goals simp_all

/-- The computing instructions execute once where D is an S register (R78). -/
theorem compute_byDest {op : Nat} (h : 0x10 ≤ op ∧ op < 0x60) {f : Fields} {w : Warp} (hl : decodeFault w op f = none) :
    (sigFor op f).u = .byDest := by
  have h3 := sigOf_of_legal hl
  by_cases h2 : op < 0x40
  · simpa [h3] using sigInt_byDest op f h.1 h2
  · simpa [h3] using sigFloat_byDest op f (by omega) h.2

end Sys2Proof.Machine
end

