-- ==== Sys2Proof/Laws/Dispatch.lean ====
section
/-!
SUPPORT. Dispatch.lean: the meaning of each instruction and event, by its own name.
-/
namespace Sys2Proof.Machine

variable (s : State)

@[simp] theorem exec_nop (f : Fields) : exec (.nop f) s = execNop f s := rfl
@[simp] theorem exec_br (f : Fields) : exec (.br f) s = execBr f s := rfl
@[simp] theorem exec_bru (f : Fields) : exec (.bru f) s = execBru f s := rfl
@[simp] theorem exec_brx (f : Fields) : exec (.brx f) s = execBrx f s := rfl
@[simp] theorem exec_join (f : Fields) : exec (.join f) s = execJoin f s := rfl
@[simp] theorem exec_call (f : Fields) : exec (.call f) s = execCall f s := rfl
@[simp] theorem exec_calli (f : Fields) : exec (.calli f) s = execCalli f s := rfl
@[simp] theorem exec_ret (f : Fields) : exec (.ret f) s = execRet f s := rfl
@[simp] theorem exec_yield (f : Fields) : exec (.yield f) s = execYield f s := rfl
@[simp] theorem exec_sleep (f : Fields) : exec (.sleep f) s = execSleep f s := rfl
@[simp] theorem exec_sleept (f : Fields) : exec (.sleept f) s = execSleept f s := rfl
@[simp] theorem exec_exit (f : Fields) : exec (.exit f) s = execExit f s := rfl
@[simp] theorem exec_mov (f : Fields) : exec (.mov f) s = execMov f s := rfl
@[simp] theorem exec_movi (f : Fields) : exec (.movi f) s = execMovi f s := rfl
@[simp] theorem exec_add (f : Fields) : exec (.add f) s = execAdd f s := rfl
@[simp] theorem exec_sub (f : Fields) : exec (.sub f) s = execSub f s := rfl
@[simp] theorem exec_mul (f : Fields) : exec (.mul f) s = execMul f s := rfl
@[simp] theorem exec_mulh (f : Fields) : exec (.mulh f) s = execMulh f s := rfl
@[simp] theorem exec_mad (f : Fields) : exec (.mad f) s = execMad f s := rfl
@[simp] theorem exec_madw (f : Fields) : exec (.madw f) s = execMadw f s := rfl
@[simp] theorem exec_and (f : Fields) : exec (.and f) s = execAnd f s := rfl
@[simp] theorem exec_or (f : Fields) : exec (.or f) s = execOr f s := rfl
@[simp] theorem exec_xor (f : Fields) : exec (.xor f) s = execXor f s := rfl
@[simp] theorem exec_not (f : Fields) : exec (.not f) s = execNot f s := rfl
@[simp] theorem exec_shl (f : Fields) : exec (.shl f) s = execShl f s := rfl
@[simp] theorem exec_shr (f : Fields) : exec (.shr f) s = execShr f s := rfl
@[simp] theorem exec_sar (f : Fields) : exec (.sar f) s = execSar f s := rfl
@[simp] theorem exec_rotl (f : Fields) : exec (.rotl f) s = execRotl f s := rfl
@[simp] theorem exec_bfe (f : Fields) : exec (.bfe f) s = execBfe f s := rfl
@[simp] theorem exec_bfi (f : Fields) : exec (.bfi f) s = execBfi f s := rfl
@[simp] theorem exec_popc (f : Fields) : exec (.popc f) s = execPopc f s := rfl
@[simp] theorem exec_clz (f : Fields) : exec (.clz f) s = execClz f s := rfl
@[simp] theorem exec_brev (f : Fields) : exec (.brev f) s = execBrev f s := rfl
@[simp] theorem exec_perm (f : Fields) : exec (.perm f) s = execPerm f s := rfl
@[simp] theorem exec_min (f : Fields) : exec (.min f) s = execMin f s := rfl
@[simp] theorem exec_max (f : Fields) : exec (.max f) s = execMax f s := rfl
@[simp] theorem exec_abs (f : Fields) : exec (.abs f) s = execAbs f s := rfl
@[simp] theorem exec_sel (f : Fields) : exec (.sel f) s = execSel f s := rfl
@[simp] theorem exec_setp (f : Fields) : exec (.setp f) s = execSetp f s := rfl
@[simp] theorem exec_lea (f : Fields) : exec (.lea f) s = execLea f s := rfl
@[simp] theorem exec_leaPc (f : Fields) : exec (.leaPc f) s = execLeaPc f s := rfl
@[simp] theorem exec_fadd (f : Fields) : exec (.fadd f) s = execFadd f s := rfl
@[simp] theorem exec_fsub (f : Fields) : exec (.fsub f) s = execFsub f s := rfl
@[simp] theorem exec_fmul (f : Fields) : exec (.fmul f) s = execFmul f s := rfl
@[simp] theorem exec_fma (f : Fields) : exec (.fma f) s = execFma f s := rfl
@[simp] theorem exec_fmin (f : Fields) : exec (.fmin f) s = execFmin f s := rfl
@[simp] theorem exec_fmax (f : Fields) : exec (.fmax f) s = execFmax f s := rfl
@[simp] theorem exec_rcp (f : Fields) : exec (.rcp f) s = execRcp f s := rfl
@[simp] theorem exec_rsq (f : Fields) : exec (.rsq f) s = execRsq f s := rfl
@[simp] theorem exec_sqrt (f : Fields) : exec (.sqrt f) s = execSqrt f s := rfl
@[simp] theorem exec_exp2 (f : Fields) : exec (.exp2 f) s = execExp2 f s := rfl
@[simp] theorem exec_log2 (f : Fields) : exec (.log2 f) s = execLog2 f s := rfl
@[simp] theorem exec_fsetp (f : Fields) : exec (.fsetp f) s = execFsetp f s := rfl
@[simp] theorem exec_fkey (f : Fields) : exec (.fkey f) s = execFkey f s := rfl
@[simp] theorem exec_cvt (f : Fields) : exec (.cvt f) s = execCvt f s := rfl
@[simp] theorem exec_narrow (f : Fields) : exec (.narrow f) s = execNarrow f s := rfl
@[simp] theorem exec_widen (f : Fields) : exec (.widen f) s = execWiden f s := rfl
@[simp] theorem exec_pkadd (f : Fields) : exec (.pkadd f) s = execPkadd f s := rfl
@[simp] theorem exec_pkmul (f : Fields) : exec (.pkmul f) s = execPkmul f s := rfl
@[simp] theorem exec_pkfma (f : Fields) : exec (.pkfma f) s = execPkfma f s := rfl
@[simp] theorem exec_lxch (f : Fields) : exec (.lxch f) s = execLxch f s := rfl
@[simp] theorem exec_lpoll (f : Fields) : exec (.lpoll f) s = execLpoll f s := rfl
@[simp] theorem exec_lmask (f : Fields) : exec (.lmask f) s = execLmask f s := rfl
@[simp] theorem exec_lfirst (f : Fields) : exec (.lfirst f) s = execLfirst f s := rfl
@[simp] theorem exec_lpeer (f : Fields) : exec (.lpeer f) s = execLpeer f s := rfl
@[simp] theorem exec_lfold (f : Fields) : exec (.lfold f) s = execLfold f s := rfl
@[simp] theorem exec_lscan (f : Fields) : exec (.lscan f) s = execLscan f s := rfl
@[simp] theorem exec_bara (f : Fields) : exec (.bara f) s = execBara f s := rfl
@[simp] theorem exec_barw (f : Fields) : exec (.barw f) s = execBarw f s := rfl
@[simp] theorem exec_bar (f : Fields) : exec (.bar f) s = execBar f s := rfl
@[simp] theorem exec_fence (f : Fields) : exec (.fence f) s = execFence f s := rfl
@[simp] theorem exec_waita (f : Fields) : exec (.waita f) s = execWaita f s := rfl
@[simp] theorem exec_qwait (f : Fields) : exec (.qwait f) s = execQwait f s := rfl
@[simp] theorem exec_qwakeBank (f : Fields) : exec (.qwakeBank f) s = execQwakeBank f s := rfl
@[simp] theorem exec_qwakeDrop (f : Fields) : exec (.qwakeDrop f) s = execQwakeDrop f s := rfl
@[simp] theorem exec_starr (f : Fields) : exec (.starr f) s = execStarr f s := rfl
@[simp] theorem exec_lda (f : Fields) : exec (.lda f) s = execLda f s := rfl
@[simp] theorem exec_sta (f : Fields) : exec (.sta f) s = execSta f s := rfl
@[simp] theorem exec_ldg (f : Fields) : exec (.ldg f) s = execLdg f s := rfl
@[simp] theorem exec_stg (f : Fields) : exec (.stg f) s = execStg f s := rfl
@[simp] theorem exec_ldi (f : Fields) : exec (.ldi f) s = execLdi f s := rfl
@[simp] theorem exec_ldw (f : Fields) : exec (.ldw f) s = execLdw f s := rfl
@[simp] theorem exec_ldc (f : Fields) : exec (.ldc f) s = execLdc f s := rfl
@[simp] theorem exec_stc (f : Fields) : exec (.stc f) s = execStc f s := rfl
@[simp] theorem exec_ldtf (f : Fields) : exec (.ldtf f) s = execLdtf f s := rfl
@[simp] theorem exec_stte (f : Fields) : exec (.stte f) s = execStte f s := rfl
@[simp] theorem exec_tagsetEmpty (f : Fields) : exec (.tagsetEmpty f) s = execTagsetEmpty f s := rfl
@[simp] theorem exec_tagsetFull (f : Fields) : exec (.tagsetFull f) s = execTagsetFull f s := rfl
@[simp] theorem exec_atom (f : Fields) : exec (.atom f) s = execAtom f s := rfl
@[simp] theorem exec_cas (f : Fields) : exec (.cas f) s = execCas f s := rfl
@[simp] theorem exec_copy (f : Fields) : exec (.copy f) s = execCopy f s := rfl
@[simp] theorem exec_copyv (f : Fields) : exec (.copyv f) s = execCopyv f s := rfl
@[simp] theorem exec_gather (f : Fields) : exec (.gather f) s = execGather f s := rfl
@[simp] theorem exec_redcopy (f : Fields) : exec (.redcopy f) s = execRedcopy f s := rfl
@[simp] theorem exec_subscribeOn (f : Fields) : exec (.subscribeOn f) s = execSubscribeOn f s := rfl
@[simp] theorem exec_subscribeOff (f : Fields) : exec (.subscribeOff f) s = execSubscribeOff f s := rfl
@[simp] theorem exec_publish (f : Fields) : exec (.publish f) s = execPublish f s := rfl
@[simp] theorem exec_waitf (f : Fields) : exec (.waitf f) s = execWaitf f s := rfl
@[simp] theorem exec_testfStat (f : Fields) : exec (.testfStat f) s = execTestfStat f s := rfl
@[simp] theorem exec_testfName (f : Fields) : exec (.testfName f) s = execTestfName f s := rfl
@[simp] theorem exec_cancf (f : Fields) : exec (.cancf f) s = execCancf f s := rfl
@[simp] theorem exec_mbegin (f : Fields) : exec (.mbegin f) s = execMbegin f s := rfl
@[simp] theorem exec_mma (f : Fields) : exec (.mma f) s = execMma f s := rfl
@[simp] theorem exec_mend (f : Fields) : exec (.mend f) s = execMend f s := rfl
@[simp] theorem exec_mwin (f : Fields) : exec (.mwin f) s = execMwin f s := rfl
@[simp] theorem exec_cread (f : Fields) : exec (.cread f) s = execCread f s := rfl
@[simp] theorem exec_cclr (f : Fields) : exec (.cclr f) s = execCclr f s := rfl
@[simp] theorem exec_batonTake (f : Fields) : exec (.batonTake f) s = execBatonTake f s := rfl
@[simp] theorem exec_batonPass (f : Fields) : exec (.batonPass f) s = execBatonPass f s := rfl
@[simp] theorem exec_wstore (f : Fields) : exec (.wstore f) s = execWstore f s := rfl
@[simp] theorem exec_wscrubCheck (f : Fields) : exec (.wscrubCheck f) s = execWscrubCheck f s := rfl
@[simp] theorem exec_wscrubFix (f : Fields) : exec (.wscrubFix f) s = execWscrubFix f s := rfl
@[simp] theorem exec_grun (f : Fields) : exec (.grun f) s = execGrun f s := rfl
@[simp] theorem exec_gstop (f : Fields) : exec (.gstop f) s = execGstop f s := rfl
@[simp] theorem exec_gration (f : Fields) : exec (.gration f) s = execGration f s := rfl
@[simp] theorem exec_gread (f : Fields) : exec (.gread f) s = execGread f s := rfl
@[simp] theorem exec_gwrite (f : Fields) : exec (.gwrite f) s = execGwrite f s := rfl
@[simp] theorem exec_gmap (f : Fields) : exec (.gmap f) s = execGmap f s := rfl
@[simp] theorem exec_gwear (f : Fields) : exec (.gwear f) s = execGwear f s := rfl
@[simp] theorem exec_treecfgOn (f : Fields) : exec (.treecfgOn f) s = execTreecfgOn f s := rfl
@[simp] theorem exec_treecfgOff (f : Fields) : exec (.treecfgOff f) s = execTreecfgOff f s := rfl
@[simp] theorem exec_treecfgBeta (f : Fields) : exec (.treecfgBeta f) s = execTreecfgBeta f s := rfl
@[simp] theorem exec_treesetSet (f : Fields) : exec (.treesetSet f) s = execTreesetSet f s := rfl
@[simp] theorem exec_treesetInval (f : Fields) : exec (.treesetInval f) s = execTreesetInval f s := rfl
@[simp] theorem exec_treeupd (f : Fields) : exec (.treeupd f) s = execTreeupd f s := rfl
@[simp] theorem exec_treedraw (f : Fields) : exec (.treedraw f) s = execTreedraw f s := rfl
@[simp] theorem exec_treesumRoot (f : Fields) : exec (.treesumRoot f) s = execTreesumRoot f s := rfl
@[simp] theorem exec_treesumLeaf (f : Fields) : exec (.treesumLeaf f) s = execTreesumLeaf f s := rfl
@[simp] theorem exec_treeclr (f : Fields) : exec (.treeclr f) s = execTreeclr f s := rfl
@[simp] theorem exec_launchRun (f : Fields) : exec (.launchRun f) s = execLaunchRun f s := rfl
@[simp] theorem exec_launchGraph (f : Fields) : exec (.launchGraph f) s = execLaunchGraph f s := rfl
@[simp] theorem exec_launchPhase (f : Fields) : exec (.launchPhase f) s = execLaunchPhase f s := rfl
@[simp] theorem exec_launchJob (f : Fields) : exec (.launchJob f) s = execLaunchJob f s := rfl
@[simp] theorem exec_launchQprio (f : Fields) : exec (.launchQprio f) s = execLaunchQprio f s := rfl
@[simp] theorem exec_spawn (f : Fields) : exec (.spawn f) s = execSpawn f s := rfl
@[simp] theorem exec_taskend (f : Fields) : exec (.taskend f) s = execTaskend f s := rfl
@[simp] theorem exec_fetchw (f : Fields) : exec (.fetchw f) s = execFetchw f s := rfl
@[simp] theorem exec_migrateCore (f : Fields) : exec (.migrateCore f) s = execMigrateCore f s := rfl
@[simp] theorem exec_migrateNear (f : Fields) : exec (.migrateNear f) s = execMigrateNear f s := rfl
@[simp] theorem exec_lvlcancel (f : Fields) : exec (.lvlcancel f) s = execLvlcancel f s := rfl
@[simp] theorem exec_cntrd (f : Fields) : exec (.cntrd f) s = execCntrd f s := rfl
@[simp] theorem exec_runrec (f : Fields) : exec (.runrec f) s = execRunrec f s := rfl
@[simp] theorem exec_csacc (f : Fields) : exec (.csacc f) s = execCsacc f s := rfl
@[simp] theorem exec_check (f : Fields) : exec (.check f) s = execCheck f s := rfl
@[simp] theorem exec_srd (f : Fields) : exec (.srd f) s = execSrd f s := rfl
@[simp] theorem exec_srdFrame (f : Fields) : exec (.srdFrame f) s = execSrdFrame f s := rfl
@[simp] theorem exec_swr (f : Fields) : exec (.swr f) s = execSwr f s := rfl
@[simp] theorem exec_swrFrame (f : Fields) : exec (.swrFrame f) s = execSwrFrame f s := rfl
@[simp] theorem exec_trap (f : Fields) : exec (.trap f) s = execTrap f s := rfl
@[simp] theorem exec_trapretResume (f : Fields) : exec (.trapretResume f) s = execTrapretResume f s := rfl
@[simp] theorem exec_trapretKill (f : Fields) : exec (.trapretKill f) s = execTrapretKill f s := rfl
@[simp] theorem exec_brk (f : Fields) : exec (.brk f) s = execBrk f s := rfl
@[simp] theorem exec_codefence (f : Fields) : exec (.codefence f) s = execCodefence f s := rfl
@[simp] theorem exec_pmark (f : Fields) : exec (.pmark f) s = execPmark f s := rfl
@[simp] theorem exec_workgroupRetire (wg : Nat) : exec (.workgroupRetire wg) s = execWorkgroupRetire wg s := rfl
@[simp] theorem exec_loadResultLand (w : WarpRef) (pend : Nat) : exec (.loadResultLand w pend) s = execLoadResultLand w pend s := rfl
@[simp] theorem exec_gAccessPerform (w : WarpRef) (acc : Nat) : exec (.gAccessPerform w acc) s = execGAccessPerform w acc s := rfl
@[simp] theorem exec_tagConditionMet (w : WarpRef) (lane : Nat) : exec (.tagConditionMet w lane) s = execTagConditionMet w lane s := rfl
@[simp] theorem exec_instrWaitLimit (w : WarpRef) : exec (.instrWaitLimit w) s = execInstrWaitLimit w s := rfl
@[simp] theorem exec_pollRead (w : WarpRef) (lane : Nat) : exec (.pollRead w lane) s = execPollRead w lane s := rfl
@[simp] theorem exec_sleepEnd (w : WarpRef) : exec (.sleepEnd w) s = execSleepEnd w s := rfl
@[simp] theorem exec_promiseMissed (w : WarpRef) : exec (.promiseMissed w) s = execPromiseMissed w s := rfl
@[simp] theorem exec_pageWalkComplete (walk : Nat) : exec (.pageWalkComplete walk) s = execPageWalkComplete walk s := rfl
@[simp] theorem exec_faultRecordWrite (walk : Nat) : exec (.faultRecordWrite walk) s = execFaultRecordWrite walk s := rfl
@[simp] theorem exec_copyComplete (cmd : Nat) : exec (.copyComplete cmd) s = execCopyComplete cmd s := rfl
@[simp] theorem exec_roundaboutIntake (cmd : Nat) : exec (.roundaboutIntake cmd) s = execRoundaboutIntake cmd s := rfl
@[simp] theorem exec_roundaboutDelivery (clu stream wg : Nat) : exec (.roundaboutDelivery clu stream wg) s = execRoundaboutDelivery clu stream wg s := rfl
@[simp] theorem exec_leaveGrant (clu : Nat) : exec (.leaveGrant clu) s = execLeaveGrant clu s := rfl
@[simp] theorem exec_mmaStepRetire (cmd : Nat) : exec (.mmaStepRetire cmd) s = execMmaStepRetire cmd s := rfl
@[simp] theorem exec_chainCommit (core : Nat) : exec (.chainCommit core) s = execChainCommit core s := rfl
@[simp] theorem exec_cclrComplete (w : WarpRef) : exec (.cclrComplete w) s = execCclrComplete w s := rfl
@[simp] theorem exec_wstoreSlotWrite (cmd : Nat) (fails : Nat) : exec (.wstoreSlotWrite cmd fails) s = execWstoreSlotWrite cmd fails s := rfl
@[simp] theorem exec_wscrubSlotRead (cmd : Nat) : exec (.wscrubSlotRead cmd) s = execWscrubSlotRead cmd s := rfl
@[simp] theorem exec_gateStep (cmd : Nat) (fails : List (Nat × Nat)) : exec (.gateStep cmd fails) s = execGateStep cmd fails s := rfl
@[simp] theorem exec_gateReadServe (cmd : Nat) : exec (.gateReadServe cmd) s = execGateReadServe cmd s := rfl
@[simp] theorem exec_gateSnapshot (cmd : Nat) : exec (.gateSnapshot cmd) s = execGateSnapshot cmd s := rfl
@[simp] theorem exec_treeAccept (cmd : Nat) : exec (.treeAccept cmd) s = execTreeAccept cmd s := rfl
@[simp] theorem exec_treeComplete (cmd : Nat) : exec (.treeComplete cmd) s = execTreeComplete cmd s := rfl
@[simp] theorem exec_runrecAccept (cmd : Nat) : exec (.runrecAccept cmd) s = execRunrecAccept cmd s := rfl
@[simp] theorem exec_routineTaskEnd (cmd slot : Nat) : exec (.routineTaskEnd cmd slot) s = execRoutineTaskEnd cmd slot s := rfl
@[simp] theorem exec_taskPush (cmd : Nat) : exec (.taskPush cmd) s = execTaskPush cmd s := rfl
@[simp] theorem exec_waveForm (core : Nat) : exec (.waveForm core) s = execWaveForm core s := rfl
@[simp] theorem exec_waveWaitExpiry (core : Nat) : exec (.waveWaitExpiry core) s = execWaveWaitExpiry core s := rfl
@[simp] theorem exec_launchAccept (cmd : Nat) : exec (.launchAccept cmd) s = execLaunchAccept cmd s := rfl
@[simp] theorem exec_levelCancelApply (cmd : Nat) : exec (.levelCancelApply cmd) s = execLevelCancelApply cmd s := rfl
@[simp] theorem exec_placementDecision (die : Nat) : exec (.placementDecision die) s = execPlacementDecision die s := rfl
@[simp] theorem exec_passedOverTimeout (die : Nat) : exec (.passedOverTimeout die) s = execPassedOverTimeout die s := rfl
@[simp] theorem exec_fetchwDelivery (req : Nat) : exec (.fetchwDelivery req) s = execFetchwDelivery req s := rfl
@[simp] theorem exec_migrateArrival (wg : Nat) : exec (.migrateArrival wg) s = execMigrateArrival wg s := rfl
@[simp] theorem exec_laneCycleSchedule (core : Nat) : exec (.laneCycleSchedule core) s = execLaneCycleSchedule core s := rfl
@[simp] theorem exec_forcedSwap (core : Nat) : exec (.forcedSwap core) s = execForcedSwap core s := rfl
@[simp] theorem exec_clockGate (core : Nat) : exec (.clockGate core) s = execClockGate core s := rfl
@[simp] theorem exec_coreWake (core : Nat) : exec (.coreWake core) s = execCoreWake core s := rfl
@[simp] theorem exec_progressStall (core : Nat) : exec (.progressStall core) s = execProgressStall core s := rfl
@[simp] theorem exec_waitLimit (core : Nat) (launch : Word) : exec (.waitLimit core launch) s = execWaitLimit core launch s := rfl
@[simp] theorem exec_preemptionTrigger (die : Nat) : exec (.preemptionTrigger die) s = execPreemptionTrigger die s := rfl
@[simp] theorem exec_preemptSave (wg : Nat) : exec (.preemptSave wg) s = execPreemptSave wg s := rfl
@[simp] theorem exec_workgroupRestore (wg : Nat) (fails : List (Nat × Nat)) : exec (.workgroupRestore wg fails) s = execWorkgroupRestore wg fails s := rfl
@[simp] theorem exec_uncorrectableError (site : ErrSite) : exec (.uncorrectableError site) s = execUncorrectableError site s := rfl
@[simp] theorem exec_correctedError (item : ErrItem) (flips : BitVec 1280) : exec (.correctedError item flips) s = execCorrectedError item flips s := rfl
@[simp] theorem exec_submissionRingService (queue : Nat) : exec (.submissionRingService queue) s = execSubmissionRingService queue s := rfl
@[simp] theorem exec_inval (part : Nat) : exec (.inval part) s = execInval part s := rfl
@[simp] theorem exec_resolve (part : Nat) : exec (.resolve part) s = execResolve part s := rfl
@[simp] theorem exec_keyload (part : Nat) : exec (.keyload part) s = execKeyload part s := rfl
@[simp] theorem exec_keyclr (part : Nat) : exec (.keyclr part) s = execKeyclr part s := rfl
@[simp] theorem exec_attest (part : Nat) : exec (.attest part) s = execAttest part s := rfl
@[simp] theorem exec_partcfg : exec (.partcfg) s = execPartcfg s := rfl
@[simp] theorem exec_capset : exec (.capset) s = execCapset s := rfl
@[simp] theorem exec_hostAccess (binding : Nat) (op : ExtAccess) : exec (.hostAccess binding op) s = execHostAccess binding op s := rfl
@[simp] theorem exec_peerAccess (port : Nat) (op : ExtAccess) : exec (.peerAccess port op) s = execPeerAccess port op s := rfl
@[simp] theorem exec_resetRelease (b : BootImage) : exec (.resetRelease b) s = execResetRelease b s := rfl
@[simp] theorem exec_chlTrain (passing : List (Nat × Nat)) : exec (.chlTrain passing) s = execChlTrain passing s := rfl
@[simp] theorem exec_peerPortTrainingLoss (port : Nat) : exec (.peerPortTrainingLoss port) s = execPeerPortTrainingLoss port s := rfl
@[simp] theorem exec_ptpSyncMessage (offset : Int) (grand : DWord) : exec (.ptpSyncMessage offset grand) s = execPtpSyncMessage offset grand s := rfl
@[simp] theorem exec_syncHoldoverTimeout : exec (.syncHoldoverTimeout) s = execSyncHoldoverTimeout s := rfl
@[simp] theorem exec_patternBoundary (clu flux idle : Nat) : exec (.patternBoundary clu flux idle) s = execPatternBoundary clu flux idle s := rfl
@[simp] theorem exec_markerCounterDump : exec (.markerCounterDump) s = execMarkerCounterDump s := rfl
@[simp] theorem exec_unassignedOpcode (w : DWord) : exec (.unassignedOpcode w) s = execUnassignedOpcode w s := rfl
@[simp] theorem exec_reset : exec (.reset) s = execReset s := rfl
@[simp] theorem exec_powerLoss : exec (.powerLoss) s = execPowerLoss s := rfl
@[simp] theorem exec_peerPortTrain (port : Nat) (passing : List (Nat × Nat)) : exec (.peerPortTrain port passing) s = execPeerPortTrain port passing s := rfl
@[simp] theorem exec_linkLevelReplay (link : Nat) : exec (.linkLevelReplay link) s = execLinkLevelReplay link s := rfl
@[simp] theorem exec_errorQueueRecordWrite (part : Nat) : exec (.errorQueueRecordWrite part) s = execErrorQueueRecordWrite part s := rfl
@[simp] theorem exec_atticRetentionExpiry (core key : Nat) : exec (.atticRetentionExpiry core key) s = execAtticRetentionExpiry core key s := rfl

end Sys2Proof.Machine
end

