-- ==== Sys2Proof/Laws/Access.lean ====
section
/-!
SUPPORT. Access.lean: what the checks and the translation of accesses do where they pass, what issuing, performing and landing
them does (R49, R166, R192, R193, R356).
-/
namespace Sys2Proof.Machine

/-- The checks of an A access that passes them. -/
theorem aFault_ok {s : State} {r : WarpRef} {w : Warp} {addr align n : Nat} {write : Bool} (lane : Nat) (hw : s.warp? r = some w)
    (h : AOk s r w addr align n write) : s.aFault r lane addr align n write = none := by
  have h1 := h.fits
  simp only [State.aFault, State.aFaultUsed, hw, Option.bind_some, h.noted, h.free]
  simp [h.aligned, show ¬ (s.wg r.wg).aSize < addr + n by omega]

/-- The translation of a G access that passes its checks. -/
theorem gTarget_ok {s : State} {r : WarpRef} {w : Warp} {addr align n : Nat} {write needWr unitOk : Bool} {t : Trans} (lane : Nat)
    (h : GOk s r w addr align n write needWr unitOk t) : s.gTarget r w lane addr align n write needWr unitOk = .ok (some t) := by
  have h1 := h.canonical
  have h2 := h.allowed
  have h3 : (!unitOk && decide (paSpace t.pa ≠ 0)) = false := by rcases h.unit with h | h <;> simp [h]
  simp only [State.gTarget, if_neg (show ¬ addr ≥ 2 ^ 57 by omega), h.aligned, h.noted, h.cached, h.port, h.free, h3]
  cases needWr <;> simp_all

/-- Lanes whose accesses to A space pass their checks go on. -/
theorem aLanes_ok {c : Ctx} {s : State} {w : Warp} {ls : List LaneAddr} {align n : Nat} {write load : Bool} (k : Unit → Res)
    (hc : c.early = []) (hw : s.warp? c.w = some w) (h : ∀ x ∈ ls, AOk s c.w w x.2.2 align n write)
    (hp : load = true → ∀ x ∈ ls, (s.asp c.w.wg).aTag x.2.2 n = none) : aLanes c s ls align n write load k = k () := by
  have h1 : ls.filterMap (fun x => s.aFault c.w x.1 x.2.2 align n write) = [] := by
    rw [List.filterMap_eq_nil_iff]
    exact fun x hx => aFault_ok _ hw (h x hx)
  have h2 : (ls.filter fun x => load && ((s.asp c.w.wg).aTag x.2.2 n).isSome) = [] := by
    rw [List.filter_eq_nil_iff]
    intro x hx
    cases load
    · simp
    · simp [hp rfl x hx]
  simp [aLanes, Ctx.faults, hc, h1, h2]

/-- Lanes whose accesses to G space are translated and pass their checks go on with their translations. -/
theorem gLanes_ok {c : Ctx} {w : Warp} {s : State} {early : Nat → Option Cause} {ls : List LaneAddr} {align n : Nat}
    {write needWr unitOk load : Bool} (tr : LaneAddr → Trans) (k : List (LaneAddr × Trans) → Res)
    (hc : c.early = []) (he : ∀ x ∈ ls, early x.1 = none) (h : ∀ x ∈ ls, GOk s c.w w x.2.2 align n write needWr unitOk (tr x))
    (hp : load = true → ∀ x ∈ ls, s.poisonAt (tr x).pa n = none) :
    gLanes c w s early ls align n write needWr unitOk load k = k (ls.map fun x => (x, tr x)) := by
  have h0 : ∀ x ∈ ls, laneTrans c w s early align n write needWr unitOk x = .ok (some (tr x)) := by
    intro x hx
    simp only [laneTrans, he x hx]
    exact gTarget_ok _ (h x hx)
  have h1 : (ls.filter fun x => (laneTrans c w s early align n write needWr unitOk x).missed) = [] := by
    rw [List.filter_eq_nil_iff]
    intro x hx
    simp [h0 x hx, Target.missed]
  have h2 : (ls.filterMap fun x => (laneTrans c w s early align n write needWr unitOk x).fault?) = [] := by
    rw [List.filterMap_eq_nil_iff]
    intro x hx
    simp [h0 x hx, Target.fault?]
  have h3 : (ls.filterMap fun x => (laneTrans c w s early align n write needWr unitOk x).trans?.map fun t => (x, t)) =
      ls.map fun x => (x, tr x) := by
    rw [← List.filterMap_eq_map]
    refine List.filterMap_congr fun x hx => ?_
    simp [h0 x hx, Target.trans?]
  have h4 : ((ls.map fun x => (x, tr x)).filter fun x => load && (s.poisonAt x.2.pa n).isSome) = [] := by
    rw [List.filter_eq_nil_iff]
    intro x hx
    obtain ⟨y, hy, rfl⟩ := List.mem_map.1 hx
    cases load
    · simp
    · simp [hp rfl y hy]
  simp only [gLanes, Ctx.faults, hc, h1, h2, h3, h4]
  simp

end Sys2Proof.Machine
end

