-- ==== Sys2Proof/Laws/CrossLane.lean ====
section
/-!
SUPPORT. CrossLane.lean: what every cross-lane instruction does (R254-R260).
-/
namespace Sys2Proof.Machine

/-- An S register is the same destination for every thread. -/
theorem slotKeys_same {xi : Int} {code : Code9} {sl : Slot} (h : isS code = true) (t u : Nat) :
    slotKeys xi code sl t = slotKeys xi code sl u := by
  unfold slotKeys
  split
  · split
    · rfl
    · unfold operandKeys
      unfold isS at h
      split at h
      · rename_i hh; simp [hh]
      · simp at h
  · rfl

/-- What every cross-lane instruction does. -/
theorem crossLane_spec {i : Instr} {op : Nat} {f : Fields} {early : Ctx → Warp → Nat → Bool} {fn : Ctx → Warp → List Nat → List (Nat × Nat × Word)}
    (he : ∀ s, exec i s = crossLane op f s early fn)
    (ht : ∀ s w, Ready op f s w → (fn (ctxOf op f s w) w.begun ((ctxOf op f s w).lanes.map (·.1))).map (·.1) = (ctxOf op f s w).lanes.map (·.1))
    (hs : ∀ s w, Ready op f s w → isS f.d = true → ∀ r ∈ fn (ctxOf op f s w) w.begun ((ctxOf op f s w).lanes.map (·.1)),
      ∀ q ∈ fn (ctxOf op f s w) w.begun ((ctxOf op f s w).lanes.map (·.1)), r.2.1 = q.2.1) :
    ComputesAcross i op f early fn := by
  intro s w h
  dsimp only
  intro hearly
  have hbad : ((List.range 32).filter fun t => (ctxOf op f s w).early.contains t ||
      (ctxOf op f s w).sb && ((ctxOf op f s w).lanes.map (·.1)).contains t && early (ctxOf op f s w) w.begun t) = [] := by
    rw [List.filter_eq_nil_iff]
    intro j _
    simp only [ctxOf_early, List.contains_nil, Bool.false_or, Bool.and_eq_true, List.contains_iff_mem, not_and, Bool.not_eq_true]
    exact fun h => hearly h.1 j h.2
  rw [he, crossLane, issueLanes_ready h]
  have ht := ht s w h
  have hs := hs s w h
  dsimp only
  rw [hbad]
  simp only [List.isEmpty_nil, Bool.not_true, Bool.false_eq_true, ↓reduceIte, Ctx.done]
  have hnd0 := (mkCtx_lanes s.cur w.begun op f (sigFor op f) w.wait (s.flag s.cur.wg (·.sbcheck))).1
  have hnd0 : ((ctxOf op f s w).lanes.map (·.1)).Nodup := by rw [h.lanes]; exact hnd0
  generalize hrs : fn (ctxOf op f s w) w.begun ((ctxOf op f s w).lanes.map (·.1)) = rs at *
  generalize hc : ctxOf op f s w = c at *
  have hw : c.w = s.cur := by rw [← hc]; simp
  have hf : c.f = f := by rw [← hc]; simp
  have hwarp : (s.setWarp s.cur w.begun).warp? s.cur = some w.begun := State.warp?_setWarp _ _ _ _ h.here
  have hlen : c.fall w.begun = nextPc op f w := by rw [← hc]; simp [Ctx.fall, nextPc]
  -- the warp with its results
  have key : ∃ fi l, (if isS f.d then
          match rs with
          | [] => w.begun
          | r :: _ => w.begun.putResult (c.dest w.begun r.1) r.2.1 (rs.foldl (fun a x => a ||| x.2.2) 0) (c.start + 8)
        else rs.foldl (fun acc r => acc.putResult (c.dest w.begun r.1) r.2.1 r.2.2 (c.start + (match c.lanes.find? fun x => x.1 = r.1 with | some x => x.2 | none => 0) + 8)) w.begun)
        = { w.begun.launches l with flagsIn := fi } ∧
      (l.map (·.1)).Nodup ∧ (∀ r ∈ rs, ∀ k n, (k, n) ∈ (c.dest w.begun r.1).zipIdx → ∃ a, (k, BitVec.ofNat 32 (r.2.1 >>> (32 * n)), a) ∈ l) ∧
      (∀ k, (∀ j ∈ c.lanes.map (·.1), k ∉ c.dest w.begun j) → k ∉ l.map (·.1)) ∧
      ({ w.begun.launches l with flagsIn := fi } : Warp).finalStatus = rs.foldl (fun st r => st ||| r.2.2) w.begun.finalStatus := by
    have hmem : ∀ r ∈ rs, r.1 ∈ c.lanes.map (·.1) := fun r hr => ht ▸ List.mem_map_of_mem hr
    split
    · rename_i hS
      obtain _ | ⟨r, rest⟩ := rs
      · exact ⟨w.begun.flagsIn, [], rfl, by simp, by simp, by simp, rfl⟩
      · obtain ⟨fi, h1, h2⟩ := w.begun.putResult_eq (c.dest w.begun r.1) r.2.1 ((r :: rest).foldl (fun a x => a ||| x.2.2) 0) (c.start + 8)
        refine ⟨fi, _, h1, ?_, ?_, ?_, ?_⟩
        · rw [resultWrites_keys]; exact slotKeys_nodup ..
        · intro q hq k n hk
          refine ⟨c.start + 8, List.mem_map.2 ⟨(k, n), ?_, ?_⟩⟩
          · rw [Ctx.dest, slotKeys_same (by rw [hf]; exact hS) r.1 q.1]; exact hk
          · simp only [Prod.mk.injEq, true_and, and_true]
            rw [hs hS r (by simp) q hq]
        · intro k hk
          rw [resultWrites_keys]
          exact hk r.1 (hmem r (by simp))
        · rw [← h1, h2]
          have : ∀ (l : List (Nat × Nat × Word)) (a b : Word), l.foldl (fun a x => a ||| x.2.2) (a ||| b) = a ||| l.foldl (fun a x => a ||| x.2.2) b := by
            intro l
            induction l with
            | nil => intro a b; rfl
            | cons x l ih => intro a b; simp only [List.foldl_cons, BitVec.or_assoc, ih]
          have h0 := this (r :: rest) w.begun.finalStatus 0
          rw [show w.begun.finalStatus ||| 0 = w.begun.finalStatus from by simp] at h0
          exact h0.symm
    · rename_i hS
      obtain ⟨fi, h1, h2⟩ := Warp.putResults_eq (fun r : Nat × Nat × Word => c.dest w.begun r.1) (fun r => r.2.1) (fun r => r.2.2)
        (fun r => c.start + (match c.lanes.find? fun x => x.1 = r.1 with | some x => x.2 | none => 0) + 8) rs w.begun
      refine ⟨fi, _, h1, ?_, ?_, ?_, ?_⟩
      · rw [List.map_flatMap]
        simp only [resultWrites_keys]
        rw [List.nodup_flatMap]
        refine ⟨fun x _ => slotKeys_nodup .., ?_⟩
        rw [← ht, List.nodup_iff_pairwise_ne, List.pairwise_map] at hnd0
        exact hnd0.imp fun hne => slotKeys_disjoint hne (by rw [hf]; simpa using hS)
      · intro r hr k n hk
        exact ⟨_, List.mem_flatMap.2 ⟨r, hr, List.mem_map.2 ⟨(k, n), hk, rfl⟩⟩⟩
      · intro k hk
        rw [List.map_flatMap]
        simp only [resultWrites_keys, List.mem_flatMap, not_exists, not_and]
        exact fun r hr => hk r.1 (hmem r hr)
      · rw [← h1, h2]
  obtain ⟨fi, l, h1, hnd, hin, hout, hst⟩ := key
  generalize hw1 : (if isS f.d = true then _ else _ : Warp) = w1
  have h1 := hw1.symm.trans h1
  rw [h1, hw]
  obtain ⟨fl, h3⟩ := Warp.launches_only l w.begun
  obtain ⟨w', honly, hfin, hw'⟩ := finish_spec (op := op) (f := f) (w := w) h.calm ((s.setWarp s.cur w.begun).setWarp s.cur { w.begun.launches l with flagsIn := fi }) _ (c.fall w.begun) false 0
    (begun_cancelled ..) (State.warp?_setWarp _ _ _ _ hwarp)
  rw [hc] at honly hfin hw'
  have hfinal : ∀ k, w'.final k = (w.begun.launches l).final k := by
    intro k
    rw [hw']
    simp only [Warp.final, Ctx.retired]
    cases k <;> rfl
  refine ⟨_, w', rfl, ((OnlyWarp.setWarp ..).trans (OnlyWarp.setWarp ..)).trans honly, hfin, ?_, ?_, ?_, ?_⟩
  · rw [hw', h3, ← hlen]
    simp [Retired, Ctx.retired, hf]
  · intro r hr k n hk hconst
    rw [hfinal]
    obtain ⟨a, ha⟩ := hin r hr k n hk
    exact Warp.final_launches _ hnd hconst _ ha
  · intro k hk
    rw [hfinal]
    exact Warp.final_launches_of_not_mem _ _ _ (hout k hk)
  · rw [hw']
    exact hst

end Sys2Proof.Machine
end

