-- ==== Sys2Proof/Laws/Legal.lean ====
section
/-!
SUPPORT. Legal.lean: what the absence of a decode-time fault says of the fields of an instruction (R37, R40, R41, R44, R51).
-/
namespace Sys2Proof.Machine

/-- Every decode-time check has passed. -/
structure Legal (w : Warp) (op : Nat) (f : Fields) : Prop where
  assigned : assigned op = true
  sig      : sigOf op f = some (sigFor op f)
  words    : wordsBad op f = false
  unused   : unusedBad f.d (sigFor op f).d = false ∧ unusedBad f.a (sigFor op f).a = false ∧
    unusedBad f.b (sigFor op f).b = false ∧ unusedBad f.c (sigFor op f).c = false
  sel      : selBad f.d (sigFor op f).d = false ∧ selBad f.a (sigFor op f).a = false ∧
    selBad f.b (sigFor op f).b = false ∧ selBad f.c (sigFor op f).c = false
  kind     : kindBad (some w.xi.toInt) f.d (sigFor op f).d = false ∧ kindBad (some w.xi.toInt) f.a (sigFor op f).a = false ∧
    kindBad (some w.xi.toInt) f.b (sigFor op f).b = false ∧ kindBad (some w.xi.toInt) f.c (sigFor op f).c = false
  mix      : mixBad op (sigFor op f) f = false
  promise  : prsBad op f = false
  bounds   : boundsBad w f.d (sigFor op f).d = false ∧ boundsBad w f.a (sigFor op f).a = false ∧
    boundsBad w f.b (sigFor op f).b = false ∧ boundsBad w f.c (sigFor op f).c = false
  handle   : handleBad w (sigFor op f) f = false
  token    : tokenBad w op f = false

theorem legal_of_decode {w : Warp} {op : Nat} {f : Fields} (h : decodeFault w op f = none) : Legal w op f := by
  have hs := sigOf_of_legal h
  unfold decodeFault at h
  split at h
  · simp at h
  · rename_i ha
    rw [hs] at h
    unfold wordFault at h
    rw [hs] at h
    dsimp only at h
    generalize h1 : (wordsBad op f || unusedBad f.d (sigFor op f).d || unusedBad f.a (sigFor op f).a || unusedBad f.b (sigFor op f).b ||
      unusedBad f.c (sigFor op f).c) = b1 at h
    generalize h2 : (selBad f.d (sigFor op f).d || selBad f.a (sigFor op f).a || selBad f.b (sigFor op f).b ||
      selBad f.c (sigFor op f).c) = b2 at h
    generalize h3 : (kindBad (some w.xi.toInt) f.d (sigFor op f).d || kindBad (some w.xi.toInt) f.a (sigFor op f).a ||
      kindBad (some w.xi.toInt) f.b (sigFor op f).b || kindBad (some w.xi.toInt) f.c (sigFor op f).c ||
      mixBad op (sigFor op f) f || prsBad op f) = b3 at h
    generalize h4 : (boundsBad w f.d (sigFor op f).d || boundsBad w f.a (sigFor op f).a || boundsBad w f.b (sigFor op f).b ||
      boundsBad w f.c (sigFor op f).c || prsBounds w op f) = b4 at h
    cases b1 <;> cases b2 <;> cases b3 <;> cases b4 <;> simp at h
    simp only [Bool.or_eq_false_iff] at h1 h2 h3 h4
    exact {
      assigned := by simpa using ha, sig := hs, words := h1.1.1.1.1
      unused := ⟨h1.1.1.1.2, h1.1.1.2, h1.1.2, h1.2⟩
      sel := ⟨h2.1.1.1, h2.1.1.2, h2.1.2, h2.2⟩
      kind := ⟨h3.1.1.1.1.1, h3.1.1.1.1.2, h3.1.1.1.2, h3.1.1.2⟩
      mix := h3.1.2, promise := h3.2
      bounds := ⟨h4.1.1.1.1, h4.1.1.1.2, h4.1.1.2, h4.1.2⟩
      handle := by by_cases hh : handleBad w (sigFor op f) f = true <;> simp_all
      token := by by_cases hh : handleBad w (sigFor op f) f = true <;> by_cases ht : tokenBad w op f = true <;> simp_all }

end Sys2Proof.Machine
end

