-- ==== Sys2Proof/Laws/Memory.lean ====
section
/-!
SUPPORT. Laws/Memory.lean: every operation on memory keeps its canonical form, and a byte written reads back (R4, R166).
-/
namespace Sys2Proof.Machine

/-! Tables -/

theorem twf_iff {α : Type} [DecidableEq α] (d : α) (t : Table α) : twf d t = true ↔ tsorted t = true ∧ ∀ e ∈ t, e.2 ≠ d := by
  simp [twf]

theorem mem_tsetD {α : Type} [DecidableEq α] {d : α} {t : Table α} {k : Nat} {v : α} {e : Nat × α} (h : e ∈ tsetD d t k v) :
    e = (k, v) ∧ v ≠ d ∨ e ∈ t := by
  unfold tsetD at h
  split at h
  · exact .inr (mem_terase h)
  · exact (mem_tput h).imp (⟨·, ‹_›⟩) id

/-- Writing a value keeps a table canonical. -/
theorem twf_tsetD {α : Type} [DecidableEq α] {d : α} {t : Table α} (k : Nat) (v : α) (h : twf d t = true) : twf d (tsetD d t k v) = true := by
  rw [twf_iff] at h ⊢
  refine ⟨tsorted_tsetD d t k v h.1, fun e he => ?_⟩
  rcases mem_tsetD he with ⟨rfl, hv⟩ | he
  · exact hv
  · exact h.2 e he

theorem twf_tsetRange {α : Type} [DecidableEq α] {d : α} : ∀ (vs : List α) {t : Table α} (k : Nat), twf d t = true → twf d (tsetRange d t k vs) = true
  | [], _, _, h => h
  | v :: vs, _, k, h => twf_tsetRange vs (k + 1) (twf_tsetD k v h)

/-! A space -/

/-- Bytes written to A space keep its canonical form. -/
theorem Workgroup.aPut_wf (g : Workgroup) (addr : Nat) (bs : List Byte) (h : twf (0 : Byte) g.a = true) : twf (0 : Byte) (g.aPut addr bs).a = true :=
  twf_tsetRange bs addr h

/-- A tag written keeps the tags canonical. -/
theorem Workgroup.setTag_wf (g : Workgroup) (addr : Nat) (b : Bool) (h : twf false g.tags = true) : twf false (g.setTag addr b).tags = true :=
  twf_tsetD _ b h

/-! Memory by physical address -/

theorem Memory.wf_iff (lost : Option Nat) (m : Memory) :
    Memory.wf lost m = true ↔ tsorted m = true ∧ ∀ e ∈ m, e.2 ≠ Memory.unlisted lost e.1 := by
  simp [Memory.wf]

/-- A byte written keeps memory canonical. -/
theorem State.putByte_ok {s : State} (pa : Nat) (b : Byte) (h : s.memoryOk = true) : (s.putByte pa b).memoryOk = true := by
  simp only [State.memoryOk, State.putByte, Memory.wf_iff] at h ⊢
  refine ⟨tsorted_tsetD _ _ _ _ h.1, fun e he => ?_⟩
  rcases mem_tsetD he with ⟨rfl, hv⟩ | he
  · exact hv
  · exact h.2 e he

/-- A byte written reads back. -/
theorem State.rawByte_putByte {s : State} (pa : Nat) (b : Byte) (h : s.memoryOk = true) : (s.putByte pa b).rawByte pa = b := by
  rw [State.memoryOk, Memory.wf_iff] at h
  exact tgetD_tsetD _ _ _ _ h.1

/-- No other byte changes. -/
theorem State.rawByte_putByte_ne {s : State} {pa qa : Nat} (b : Byte) (h : s.memoryOk = true) (hq : qa ≠ pa) :
    (s.putByte pa b).rawByte qa = s.rawByte qa := by
  rw [State.memoryOk, Memory.wf_iff] at h
  unfold State.rawByte
  rw [State.putByte_gmeta]
  simp only [State.putByte, tgetD, tsetD]
  split
  · rw [tfind_terase_ne _ h.1 hq]
  · rw [tfind_tput_ne _ _ hq]

/-- What keeps memory canonical one step at a time keeps it so over a list. -/
theorem State.foldl_ok {β : Type} {f : State → β → State} (hf : ∀ s b, s.memoryOk = true → (f s b).memoryOk = true) :
    ∀ (l : List β) {s : State}, s.memoryOk = true → (l.foldl f s).memoryOk = true
  | [], _, h => h
  | b :: l, _, h => State.foldl_ok hf l (hf _ b h)

/-- Storing a granule under another key keeps memory canonical (R364). -/
theorem State.reseal_ok {s : State} (k : Option (BitVec 512)) (g : Nat) (h : s.memoryOk = true) : (s.reseal k g).memoryOk = true := by
  unfold State.reseal
  split
  · exact h
  · have h1 := State.foldl_ok (f := fun s' i => s'.putByte (32 * g + i) (byteAt (s.viewGranule k g) i)) (fun s' i hs => State.putByte_ok _ _ hs) (List.range 32) h
    dsimp only
    generalize List.foldl _ _ _ = s1 at h1 ⊢
    exact h1

theorem GMeta.wrote_lost (m : GMeta) (pa : Nat) : (m.wrote pa).lost = m.lost := by
  unfold GMeta.wrote
  split
  · rfl
  · dsimp only
    split <;> rfl

/-- Bytes written at a physical address keep memory canonical. -/
theorem State.writeBytes_ok {s : State} (slot : Option Nat) (pa : Nat) (bs : List Byte) (h : s.memoryOk = true) :
    (s.writeBytes slot pa bs).memoryOk = true := by
  unfold State.writeBytes
  refine State.foldl_ok (fun s' x hs => ?_) bs.zipIdx h
  have h2 := State.putByte_ok (pa + x.2) x.1 (State.reseal_ok (s.keyOf slot) ((pa + x.2) / 32) hs)
  simp only [State.memoryOk, GMeta.wrote_lost] at h2 ⊢
  exact h2

/-- What a performed write wakes leaves memory alone (R213). -/
theorem State.wakeWaits_mem (s : State) (pa n : Nat) : (s.wakeWaits pa n).mem = s.mem ∧ (s.wakeWaits pa n).gmeta = s.gmeta := by
  unfold State.wakeWaits
  refine List.foldlRecOn (motive := fun t : State => t.mem = s.mem ∧ t.gmeta = s.gmeta) _ _ ⟨rfl, rfl⟩ fun t ht e _ => ?_
  dsimp only
  repeat' split
  all_goals exact ht

theorem State.taintTrees_mem (s : State) (pa n : Nat) : (s.taintTrees pa n).mem = s.mem ∧ (s.taintTrees pa n).gmeta = s.gmeta := by
  unfold State.taintTrees
  split <;> exact ⟨rfl, rfl⟩

/-- A write of a home slice keeps memory canonical (R167). -/
theorem State.gWrite_ok {s : State} (slot : Option Nat) (pa : Nat) (bs : List Byte) (h : s.memoryOk = true) :
    (s.gWrite slot pa bs).memoryOk = true := by
  have h1 := State.writeBytes_ok slot pa bs h
  unfold State.gWrite State.memoryOk
  rw [(State.taintTrees_mem _ _ _).1, (State.taintTrees_mem _ _ _).2, (State.wakeWaits_mem _ _ _).1, (State.wakeWaits_mem _ _ _).2]
  exact h1

/-- Code placed from outside keeps memory canonical. -/
theorem State.putCode_ok {s : State} (bytes : List Byte) (h : s.memoryOk = true) : (s.putCode bytes).memoryOk = true :=
  State.foldl_ok (fun _ x hs => State.putByte_ok x.2 x.1 hs) bytes.zipIdx h

theorem State.withFetchWord_ok {s : State} (nbits w : Nat) (h : s.memoryOk = true) : (s.withFetchWord nbits w).memoryOk = true :=
  State.putCode_ok (s := s.newId.2) _ h

/-! Reset and power loss (R413) -/

/-- Memory is canonical after reset. -/
theorem reset_memoryOk : State.reset.memoryOk = true := rfl

theorem tabove_filter {α : Type} (q : Nat × α → Bool) {b : Nat} : ∀ (t : Table α), tabove b t = true → tabove b (t.filter q) = true
  | [], _ => rfl
  | (j, v) :: t, h => by
    simp only [tabove, Bool.and_eq_true, decide_eq_true_eq] at h
    simp only [List.filter_cons]
    split
    · simp only [tabove, Bool.and_eq_true, decide_eq_true_eq]
      exact ⟨h.1, tabove_filter q t h.2⟩
    · exact tabove_mono (by omega) _ (tabove_filter q t h.2)

theorem tsorted_filter {α : Type} (q : Nat × α → Bool) (t : Table α) (h : tsorted t = true) : tsorted (t.filter q) = true := by
  cases t with
  | nil => rfl
  | cons e t =>
    simp only [List.filter_cons]
    split
    · exact tabove_filter q t h
    · exact tsorted_of_tabove _ (tabove_filter q t h)

/-- A reset keeps memory as it is. -/
theorem execReset_ok {s t : State} (h : s.memoryOk = true) (ht : execReset s = .next t) : t.memoryOk = true := by
  cases ht
  exact h

/-- After a power loss the memory outside HBM is as it was, and HBM lists nothing. -/
theorem execPowerLoss_ok {s t : State} (h : s.memoryOk = true) (ht : execPowerLoss s = .next t) : t.memoryOk = true := by
  cases ht
  simp only [State.memoryOk, Memory.wf_iff] at h ⊢
  refine ⟨tsorted_filter _ _ h.1, fun e he => ?_⟩
  have hm : e ∈ s.mem ∧ 2 ^ 54 ≤ e.1 := by simpa [State.afterReset] using he
  have hn := h.2 e hm.1
  have hu : ∀ lost, Memory.unlisted lost e.1 = 0 := by
    intro lost
    cases lost with
    | none => rfl
    | some n => exact if_neg (by omega)
  rw [hu] at hn ⊢
  exact hn

end Sys2Proof.Machine
end

