-- ==== Sys2Proof/Laws/Outcome.lean ====
section
/-!
SUPPORT. Laws/Outcome.lean: how an instruction that is ready comes out, once for every instruction: it ends (R36, R46), it waits (R332), or
it traps (R374).
-/
namespace Sys2Proof.Machine

/-- An entry that is found is changed as any function that agrees on it. -/
theorem tmodify_congr {α : Type} {f g : α → α} {k : Nat} {v : α} : ∀ (t : Table α), tfind t k = some v → f v = g v → tmodify t k f = tmodify t k g
  | [], h, _ => by simp at h
  | (j, x) :: t, h, hv => by
    rw [tfind_cons] at h
    rw [tmodify_cons, tmodify_cons]
    split
    · rename_i hj; rw [if_pos hj] at h; cases h; rw [hv]
    · rename_i hj
      rw [if_neg hj] at h
      split at h
      · cases h
      · rw [tmodify_congr t h hv]

/-- To change a warp that is there is to set it. -/
theorem State.modWarp_eq {s : State} {r : WarpRef} {w : Warp} (h : s.warp? r = some w) (f : Warp → Warp) : s.modWarp r f = s.setWarp r (f w) := by
  simp only [State.warp?] at h
  cases hg : tfind s.wgs r.wg with
  | none => simp [hg] at h
  | some g =>
    simp only [hg, Option.bind_some] at h
    simp only [State.setWarp, State.modWarp, State.modWg]
    rw [tmodify_congr s.wgs hg]
    have : g.warps.modify r.wix f = g.warps.modify r.wix fun _ => f w := by
      apply List.ext_getElem?
      intro i
      simp only [List.getElem?_modify]
      split
      · rename_i hi; subst hi; simp [h]
      · rfl
    rw [this]
theorem tmodify_tmodify {α : Type} (f g : α → α) (k : Nat) : ∀ t : Table α, tmodify (tmodify t k f) k g = tmodify t k fun x => g (f x)
  | [] => rfl
  | (j, x) :: t => by
    simp only [tmodify_cons]
    split
    · simp [tmodify_cons, ‹j = k›]
    · simp [tmodify_cons, ‹¬j = k›, tmodify_tmodify f g k t]

/-- Of two changes to one warp the second sees the first. -/
@[simp] theorem State.modWarp_modWarp (s : State) (r : WarpRef) (f g : Warp → Warp) :
    (s.modWarp r f).modWarp r g = s.modWarp r fun w => g (f w) := by
  simp only [State.modWarp, State.modWg, tmodify_tmodify]
  have : ∀ l : List Warp, (l.modify r.wix f).modify r.wix g = l.modify r.wix fun w => g (f w) := by
    intro l
    apply List.ext_getElem?
    intro i
    simp only [List.getElem?_modify]
    split <;> simp_all [Function.comp_def]
  simp only [this]

@[simp] theorem State.setWarp_setWarp (s : State) (r : WarpRef) (v w : Warp) : (s.setWarp r v).setWarp r w = s.setWarp r w := by
  simp [State.setWarp]

@[simp] theorem State.modWarp_setWarp (s : State) (r : WarpRef) (v : Warp) (f : Warp → Warp) : (s.setWarp r v).modWarp r f = s.setWarp r (f v) := by
  simp [State.setWarp]

/-- A thread is in the mask of a list of threads where the list names it. -/
theorem laneMask_getLsbD (l : List Nat) (k : Nat) : (laneMask l).getLsbD k = (decide (k < 32) && decide (k ∈ l)) := by
  have key : ∀ (l : List Nat) (m : Mask), (l.foldl (fun m i => m ||| (1#32 <<< i)) m).getLsbD k = (m.getLsbD k || (decide (k < 32) && decide (k ∈ l))) := by
    intro l
    induction l with
    | nil => simp
    | cons x l ih =>
      intro m
      rw [List.foldl_cons, ih]
      by_cases hk : k < 32
      · by_cases hx : k = x
        · subst hx; simp [hk]
        · have : (1#32 <<< x).getLsbD k = false := by
            simp only [BitVec.getLsbD_shiftLeft, hk, BitVec.getLsbD_one]
            by_cases h : k < x
            · simp [h]
            · have : k - x ≠ 0 := by omega
              simp [this]
          rw [BitVec.getLsbD_or, this]; simp [hx]
      · simp [hk, BitVec.getLsbD_of_ge _ _ (show 32 ≤ k by omega)]
  simp [laneMask, key]

variable {i : Instr} {op : Nat} {f : Fields} {s : State} {w : Warp}

theorem here_begun (h : s.warp? s.cur = some w) (w1 : Warp) : (s.setWarp s.cur w1).warp? s.cur = some w1 :=
  State.warp?_setWarp _ _ _ _ h

theorem setWarp_cancelled (s : State) (w1 : Warp) : ((s.setWarp s.cur w1).wg s.cur.wg).cancelled = (s.wg s.cur.wg).cancelled :=
  (OnlyWarp.setWarp s s.cur w1).field (·.cancelled) (fun _ _ => rfl) _

theorem fall_eq : (ctxOf op f s w).fall w.begun = nextPc op f w := by simp [Ctx.fall, nextPc]

/-- An instruction that is done from the state `s2` ends at the next in line. -/
theorem ends_done {s1 s2 : State} {w1 : Warp} (he : exec i s = (ctxOf op f s w).done w.begun s2)
    (h : f.sp = true → (s.wg s.cur.wg).cancelled = false) (hc : (s2.wg s.cur.wg).cancelled = (s.wg s.cur.wg).cancelled)
    (ho : OnlyWarp s1 s2 s.cur) (hw : s2.warp? s.cur = some w1) : Ends i f s s1 w1 (nextPc op f w) := by
  rw [Ctx.done, fall_eq] at he
  exact ends_finish he h hc ho hw

/-- An instruction that is done as soon as it has started. -/
theorem ends_at_once (h : Ready op f s w) (he : exec i s = (ctxOf op f s w).done w.begun (s.started w)) :
    Ends i f s s w.begun (nextPc op f w) :=
  ends_done he h.calm (setWarp_cancelled ..) (OnlyWarp.setWarp ..) (here_begun h.here _)

/-- A uniform instruction whose guard is false ends at once (R43). -/
theorem uniform_nil {body : Ctx → Warp → Nat × Nat → State → Res} (he : exec i s = uniform op f s body) (h : Ready op f s w)
    (hl : (ctxOf op f s w).lanes = []) : Ends i f s s w.begun (nextPc op f w) :=
  ends_at_once h (by rw [he, uniform, issue_ready h, hl])

/-- A uniform instruction whose guard is true runs its body once. -/
theorem uniform_ready {body : Ctx → Warp → Nat × Nat → State → Res} {x : Nat × Nat} (h : ReadyUni op f s w x) :
    uniform op f s body = body (ctxOf op f s w) w.begun x (s.started w) := by
  rw [uniform, issue_ready h.toReady, h.lane]

/-- A uniform instruction that goes on after its own wait runs its body again. -/
theorem uniform_resumed {body : Ctx → Warp → Nat × Nat → State → Res} {x : Nat × Nat} (h : Resumed op f s w)
    (hl : (ctxOf op f s w).lanes = [x]) : uniform op f s body = body (ctxOf op f s w) w.begun x (s.started w) := by
  rw [uniform, issue_resumed h, hl]

/-- An instruction whose body traps takes the trap. -/
theorem traps_of {x : TrapInfo} (he : exec i s = (ctxOf op f s w).trap (s.started w) x) : Traps i op f s w x := by
  rw [Traps, TrapsIn, he, Ctx.trap]
  simp only [ctxOf_w, ctxOf_start, Ctx.ilen, ctxOf_len]

theorem traps_ofU {c : Cause} (he : exec i s = (ctxOf op f s w).trapU (s.started w) c) : Traps i op f s w { cause := c } := traps_of he

/-- An instruction whose body blocks waits. -/
theorem waits_of {x : Wait} (he : exec i s = (ctxOf op f s w).block (s.started w) x) : Waits i op f s w x := by
  rw [Waits, he, Ctx.block]
  simp only [ctxOf_w, ctxOf_prev]
  rfl

end Sys2Proof.Machine
end

