-- ==== Sys2Proof/Laws/Words.lean ====
section
/-!
SUPPORT. Words.lean: the integer helpers of Flags.lean as operations on bit vectors, and the size of an operand's value.
-/
namespace Sys2Proof.Machine

theorem two_pow_pred {w : Nat} (h : 0 < w) : 2 ^ w = 2 * 2 ^ (w - 1) := by
  obtain ⟨v, rfl⟩ : ∃ v, w = v + 1 := ⟨w - 1, by omega⟩
  simp [pow_succ]; omega

theorem asI_eq (w n : Nat) (h : 0 < w) : asI w n = (BitVec.ofNat w n).toInt := by
  have h2 := two_pow_pred h
  rw [asI, BitVec.toInt_eq_toNat_cond, BitVec.toNat_ofNat]
  norm_cast
  split <;> split <;> omega

theorem wrapTo_eq (w : Nat) (x : Int) : wrapTo w x = (BitVec.ofInt w x).toNat := by
  simp [wrapTo]

theorem wrapTo_lt (w : Nat) (x : Int) : wrapTo w x < 2 ^ w := by rw [wrapTo_eq]; exact (BitVec.ofInt w x).isLt

theorem readKeys_lt (w : Warp) (ks : List RegKey) (t : Nat) : (readKeys w ks t).1 < 2 ^ (32 * ks.length) := by
  induction ks with
  | nil => simp [readKeys]
  | cons k ks ih =>
    have h := (w.readAt k t).1.isLt
    simp only [readKeys, List.foldr_cons, List.length_cons] at ih ⊢
    rw [Nat.mul_succ, Nat.pow_add]
    omega

theorem operandKeys_length_le (xi : Int) (code : Code9) (n t : Nat) (h : 0 < n) : (operandKeys xi code n t).length ≤ n := by
  unfold operandKeys
  split <;> simp; omega

/-- The value of an operand of `n` registers fits them. -/
theorem readOperand_lt (w : Warp) (code : Code9) {n : Nat} (t a : Nat) (h : 0 < n) : (readOperand w code n t a).1 < 2 ^ (32 * n) := by
  unfold readOperand
  split
  · exact wrapTo_lt ..
  · exact lt_of_lt_of_le (readKeys_lt ..) (Nat.pow_le_pow_right (by omega) (Nat.mul_le_mul_left _ (operandKeys_length_le _ _ _ _ h)))

/-- The value of a field fits the registers that the field names. -/
theorem Ctx.val_lt (c : Ctx) (w : Warp) (code : Code9) {k : Kinds} (t j : Nat) (h : 0 < k.w) :
    c.val w code (.opnd k) t j < 2 ^ (32 * k.w) := readOperand_lt _ _ _ _ h

end Sys2Proof.Machine
end

