-- ==== Sys2Proof/Tests/Slice0.lean ====
section
/-!
SUPPORT. Slice0.lean: what the checks refuse, words that the manual writes out, results that it works out, and for every statement
states and operands that meet its hypotheses.  Expected results come from the manual's tables and worked examples.
-/
namespace Sys2Proof.Tests
open Sys2Proof Sys2Proof.Machine
set_option Elab.async false

/-! A small machine: warp 0 of workgroup 1 on core 0 -/

def me : WarpRef := { wg := 1, wix := 0 }
/-- The workgroup of a placed NOP, with nothing left on the agenda. -/
def s0 : State := { State.reset.withFetchWord 64 0x1807000000000000 with agenda := [], cur := me }
def wOf (s : State) : Warp := (s.warp? s.cur).getD (newWarp placedRec 0 placedPc 32 0)
/-- `s0` with its warp changed. -/
def withW (f : Warp → Warp) (s : State := s0) : State := s.modWarp s.cur f
/-- `s0` with values in S registers. -/
def withS (l : List (Nat × Word)) (s : State := s0) : State := withW (fun w => { w with s := l }) s
/-- Fields without tail or guard. -/
def fld (d a b c m : Nat) (ext : DWord := 0) : Fields :=
  { sp := false, gap := 0, wm := 0, gp := 7, gn := false, d := BitVec.ofNat 9 d, a := BitVec.ofNat 9 a, b := BitVec.ofNat 9 b
    c := BitVec.ofNat 9 c, m := BitVec.ofNat 3 m, ext, live := 0 }
/-- The instruction answers a next state of which `p` holds. -/
def after (i : Instr) (s : State) (p : State → Bool) : Bool := match exec i s with | .next t => p t | _ => false
/-- The same of its warp. -/
def afterW (i : Instr) (s : State) (p : Warp → Bool) : Bool := after i s fun t => (t.warp? s.cur).any p

/-! What `wellFormed` refuses: an ill-formed term for every check -/

def plainAdd : Fields := fld 2 1 3 0 0
theorem wf_add : wellFormed (.add plainAdd) = true := by decide +kernel
theorem ill_modifier : wellFormed (.add { plainAdd with m := 6 }) = false := by decide +kernel
theorem ill_modifierOfRow : wellFormed (.waitf (fld 0x102 0x184 0 0 4)) = false := by decide +kernel
theorem ill_ext : wellFormed (.add { plainAdd with ext := 1 }) = false := by decide +kernel
theorem ill_live : wellFormed (.add { plainAdd with live := 1 }) = false := by decide +kernel
theorem ill_liveReserved : wellFormed (.add { plainAdd with sp := true, live := 2 ^ 55 }) = false := by decide +kernel
theorem ill_unused : wellFormed (.add { plainAdd with c := 1 }) = false := by decide +kernel
theorem ill_extReserved : wellFormed (.call (fld 0 0 0 0 0 1)) = false := by decide +kernel
theorem ill_memWidth : wellFormed (.ldc (fld 4 0x104 0x104 0 0 0x4_00000000)) = false := by decide +kernel
theorem ill_memScope : wellFormed (.lda (fld 4 0x104 0x104 0 0 (0x4_00000000 + 2 ^ 37))) = false := by decide +kernel
theorem ill_copyExt : wellFormed (.copy (fld 0x184 0x104 0x104 0x106 0 (2 ^ 50))) = false := by decide +kernel
theorem ill_joinGuard : wellFormed (.join { fld 0 0 0 0 0 with gp := 0 }) = false := by decide +kernel
theorem ill_selector : wellFormed (.setp (fld 0x190 1 2 6 0)) = false := by decide +kernel
theorem ill_kind : wellFormed (.add (fld 0x190 1 3 0 0)) = false := by decide +kernel
theorem ill_pair : wellFormed (.add (fld 3 0 2 0 3)) = false := by decide +kernel
theorem ill_mix : wellFormed (.add (fld 0x104 1 0x104 0 0)) = false := by decide +kernel
theorem ill_promisePair : wellFormed (.copy (fld 0x184 0x104 0x104 0x106 0 (2 ^ 8 + 2 ^ 9))) = false := by decide +kernel
theorem ill_unassigned : wellFormed (.unassignedOpcode 0x0007_0900_0000_0000) = false := by decide +kernel
theorem wf_unassigned : wellFormed (.unassignedOpcode 0x0007_0600_0000_0000) = true := by decide +kernel
theorem ill_warp : wellFormed (.sleepEnd { wg := 1, wix := 16 }) = false := by decide +kernel
theorem ill_lane : wellFormed (.pollRead me 32) = false := by decide +kernel
theorem ill_stream : wellFormed (.roundaboutDelivery 0 16 1) = false := by decide +kernel
theorem ill_cluster : wellFormed (.leaveGrant 48) = false := by decide +kernel
theorem ill_core : wellFormed (.clockGate 384) = false := by decide +kernel
theorem ill_die : wellFormed (.placementDecision 2) = false := by decide +kernel
theorem ill_queue : wellFormed (.submissionRingService 64) = false := by decide +kernel
theorem ill_part : wellFormed (.inval 8) = false := by decide +kernel
theorem ill_binding : wellFormed (.hostAccess 9 (.read 0 1)) = false := by decide +kernel
theorem ill_port : wellFormed (.peerPortTrainingLoss 8) = false := by decide +kernel
theorem ill_link : wellFormed (.linkLevelReplay 9) = false := by decide +kernel
theorem ill_site : wellFormed (.uncorrectableError (.cElem 0 256 0)) = false := by decide +kernel
theorem ill_item : wellFormed (.correctedError (.slot 0 160 0) 1) = false := by decide +kernel

/-! Words that the manual writes out -/

/-- R35, R52: the line that 02_encoding assembles, `(!P2) ADD V7, V[XI+12], #-3 | s3 w0,2 sp`. -/
theorem decode_add : decodeWords 0x982A_8901_D19D_D000 [0x0000_0003_0000_000F] =
    .ok (.add { fld 7 0x08C 0x1DD 0 0 with sp := true, gap := 3, wm := 5, gp := 2, gn := true, live := 0x0000_0003_0000_000F }) := by decide +kernel
theorem decode_perm : decodeWords 0x00071280_80308003 [] = .ok (.perm (fld 0x002 0x001 0x108 0x000 3)) := by decide +kernel
theorem decode_mma : decodeWords 0x000758E0_E0905830 [] = .ok (.mma (fld 0x183 0x104 0x105 0x106 0)) := by decide +kernel
theorem decode_grun : decodeWords 0x00076061_215E2858 [] = .ok (.grun (fld 0x184 0x10A 0x1E2 0x10B 0)) := by decide +kernel
theorem decode_bar : decodeWords 0x00073900_3C1DF000 [] = .ok (.bar (fld 0x000 0x1E0 0x1DF 0x000 0)) := by decide +kernel
theorem decode_lxch : decodeWords 0x00073000_C0302F28 [] = .ok (.lxch (fld 0x003 0x001 0x102 0x1E5 0)) := by decide +kernel
theorem decode_lfold : decodeWords 0x000732C1_00200000 [] = .ok (.lfold (fld 0x104 0x001 0x000 0x000 0)) := by decide +kernel
theorem decode_treedraw : decodeWords 0x000765E0_BC708F20 [] = .ok (.treedraw (fld 0x182 0x1E3 0x108 0x1E4 0)) := by decide +kernel
theorem decode_treeupd : decodeWords 0x00076560_E1116F20 [] = .ok (.treeupd (fld 0x183 0x108 0x116 0x1E4 0)) := by decide +kernel
theorem decode_treeset : decodeWords 0x000764E0_6110A858 [] = .ok (.treesetSet (fld 0x181 0x108 0x10A 0x10B 0)) := by decide +kernel
theorem decode_fetchw : decodeWords 0x00076980_20905000 [] = .ok (.fetchw (fld 0x000 0x104 0x105 0x000 0)) := by decide +kernel
theorem decode_lvlcancel : decodeWords 0x00076AE0_E0C00000 [] = .ok (.lvlcancel (fld 0x183 0x106 0x000 0x000 0)) := by decide +kernel
theorem decode_runrec : decodeWords 0x00076BE1_A1000000 [] = .ok (.runrec (fld 0x186 0x108 0x000 0x000 0)) := by decide +kernel
theorem decode_srdFrame : decodeWords 0x00077040_3C000001 [] = .ok (.srdFrame (fld 0x100 0x1E0 0x000 0x000 1)) := by decide +kernel
theorem decode_trapretResume : decodeWords 0x00077180_00000000 [] = .ok (.trapretResume (fld 0 0 0 0 0)) := by decide +kernel
theorem decode_trapretKill : decodeWords 0x00077180_00000001 [] = .ok (.trapretKill (fld 0 0 0 0 1)) := by decide +kernel
theorem decode_setp : decodeWords 0x20071564_401E4011 [] = .ok (.setp { fld 0x191 0x000 0x1E4 2 1 with gap := 4 }) := by decide +kernel
theorem decode_join : decodeWords 0x00070200_00000000 [] = .ok (.join (fld 0 0 0 0 0)) := by decide +kernel
theorem decode_exit : decodeWords 0x00070580_00000000 [] = .ok (.exit (fld 0 0 0 0 0)) := by decide +kernel
theorem decode_fma : decodeWords 0x000721A0_04621400 [] = .ok (.fma (fld 0x080 0x023 0x021 0x080 0)) := by decide +kernel
theorem decode_swr : decodeWords 0x000770D0_61400000 [] = .ok (.swr (fld 0x141 0x10A 0x000 0x000 0)) := by decide +kernel
theorem decode_lxch2 : decodeWords 0x40073008_4410AF28 [] = .ok (.lxch { fld 0x021 0x020 0x10A 0x1E5 0 with gap := 8 }) := by decide +kernel
theorem decode_nop : decodeWords 0x18070000_00000000 [] = .ok (.nop { fld 0 0 0 0 0 with gap := 3 }) := by decide +kernel
theorem decode_fkey : decodeWords 0x0001A601_40400004 [] = .ok (.fkey { fld 0x005 0x002 0x000 0x000 4 with gp := 1, gn := true }) :=
  by decide +kernel
theorem decode_gration : decodeWords 0x00076100_205E1F30 [] = .ok (.gration (fld 0x000 0x102 0x1E1 0x1E6 0)) := by decide +kernel
theorem decode_gread : decodeWords 0x000761E1_60D19F21 [] = .ok (.gread (fld 0x185 0x106 0x119 0x1E4 1)) := by decide +kernel
theorem decode_waitf : decodeWords 0x00075346_30400002 [] = .ok (.waitf (fld 0x118 0x182 0x000 0x000 2)) := by decide +kernel
theorem decode_ldg : decodeWords 0x00074101_21002001 [0x0000005D_00000040] = .ok (.ldg (fld 0x004 0x108 0x002 0x000 1 0x0000005D_00000040)) :=
  by decide +kernel
theorem decode_copy : decodeWords 0x00075060_6110A860 [0x00000000_2000A954] = .ok (.copy (fld 0x181 0x108 0x10A 0x10C 0 0x00000000_2000A954)) :=
  by decide +kernel
theorem decode_br : decodeWords 0x00010080_00000001 [0x00000030_00000028] = .ok (.br { fld 0 0 0 0 1 0x00000030_00000028 with gp := 1 }) :=
  by decide +kernel
theorem decode_bru : decodeWords 0x00070100_00000000 [0x00000000_00000018] = .ok (.bru (fld 0 0 0 0 0 0x00000000_00000018)) := by decide +kernel
theorem decode_stg : decodeWords 0x00074180_20508838 [0x00000014_00000000] = .ok (.stg (fld 0x000 0x102 0x108 0x107 0 0x00000014_00000000)) :=
  by decide +kernel
theorem decode_atom : decodeWords 0x00034583_23FE0058 [0x00000384_00000000] = .ok (.atom { fld 0x00C 0x11F 0x1E0 0x00B 0 0x00000384_00000000 with gp := 3 }) :=
  by decide +kernel
theorem decode_ldw : decodeWords 0x000242C4_20FE0000 [0x00000004_00000000] = .ok (.ldw { fld 0x110 0x107 0x1E0 0x000 0 0x00000004_00000000 with gp := 2 }) :=
  by decide +kernel
theorem decode_sta : decodeWords 0x80074080_22DE0878 [0x00000004_00000068, 0x00000024_00000000] = .ok (.sta { fld 0x000 0x116 0x1E0 0x10F 0 0x00000004_00000068 with sp := true, live := 0x00000024_00000000 }) :=
  by decide +kernel

/-! Readiness: every form of every instruction meets the hypotheses of `Ready` somewhere (R44-R52) -/

/-- `Ready` as a check. -/
def readyB (op : Nat) (f : Fields) (s : State) (w : Warp) : Bool :=
  decide (s.warp? s.cur = some w) && decide (w.present ≠ 0) && !inProgress w.wait && decide (busyTokens f w.begun = []) &&
  decide (pendingKeys op f w.begun = []) && decide (deferDue s.cmds w.begun op f (!(startCtx op f s w).1.lanes.isEmpty) = none) &&
  decide (decodeFault w.begun op f = none) && decide (earlyLanes (startCtx op f s w).1 (startCtx op f s w).2 w.begun = []) &&
  (!f.sp || !(s.wg s.cur.wg).cancelled)

theorem ready_of {op : Nat} {f : Fields} {s : State} {w : Warp} (h : readyB op f s w = true) : Ready op f s w := by
  simp only [readyB, Bool.and_eq_true, decide_eq_true_eq, Bool.not_eq_true', Bool.or_eq_true] at h
  obtain ⟨⟨⟨⟨⟨⟨⟨⟨h1, h2⟩, h3⟩, h4⟩, h5⟩, h6⟩, h7⟩, h8⟩, h9⟩ := h
  exact ⟨h1, h2, h3, h4, h5, h6, h7, h8, fun hs => by simpa [hs] using h9⟩

theorem readyUni_of {op : Nat} {f : Fields} {s : State} {w : Warp} {x : Nat × Nat}
    (h : (readyB op f s w && decide ((ctxOf op f s w).lanes = [x])) = true) : ReadyUni op f s w x := by
  rw [Bool.and_eq_true, decide_eq_true_eq] at h
  exact { ready_of h.1 with lane := h.2 }

theorem resumed_of {op : Nat} {f : Fields} {s : State} {w : Warp}
    (h : (decide (s.warp? s.cur = some w) && decide (w.present ≠ 0) && inProgress w.wait && (!f.sp || !(s.wg s.cur.wg).cancelled)) = true) :
    Resumed op f s w := by
  simp only [Bool.and_eq_true, decide_eq_true_eq, Bool.not_eq_true', Bool.or_eq_true] at h
  exact ⟨h.1.1.1, h.1.1.2, h.1.2, fun hs => by simpa [hs] using h.2⟩

theorem aOk_of {s : State} {r : WarpRef} {w : Warp} {addr align n : Nat} {write : Bool}
    (h : (decide (addr + n ≤ (s.wg r.wg).aSize) && decide (addr % align = 0) && !s.lockedA (s.wg r.wg).core r.wg addr n write &&
      decide ((w.tr.find? fun x => x.1 = 2 ^ 65 + addr / 4) = none)) = true) : AOk s r w addr align n write := by
  simp only [Bool.and_eq_true, decide_eq_true_eq, Bool.not_eq_true'] at h
  exact ⟨h.1.1.1, h.1.1.2, h.1.2, h.2⟩

/-- A code that a field accepts: none where it may stay blank, else an S register, a V register, P0, H4 or a special register. -/
def someCode : Slot → Code9
  | .sel (c :: _) => BitVec.ofNat 9 c
  | .opnd k => if k.blank then 0 else if k.s then 0x104 else if k.v then 4 else if k.p then 0x190 else if k.h then 0x184 else 0x150
  | _ => 0
/-- An extension word that the opcode accepts. -/
def someExt (op : Nat) : DWord :=
  if op = 0x01 then 0x30_00000028 else if op = 0x03 then 0x2_00000008 else if op < 0x40 then 0x18
  else if op = 0x86 || op = 0x87 then 0x5_00000000 else 0x4_00000000
def someFields (op m : Nat) : Fields :=
  let put (f : Fields) : Fields := match sigOf op f with
    | some g => { f with d := someCode g.d, a := someCode g.a, b := someCode g.b, c := someCode g.c }
    | none => f
  put (put (fld 0 0 0 0 m (someExt op)))
/-- All forms: opcode and M. -/
def forms : List (Nat × Nat) := (List.range 256).flatMap fun op =>
  ((List.range 8).filter fun m => assigned op && (sigOf op (someFields op m)).isSome).map fun m => (op, m)
/-- `s0` with a command whose handle stands in H4. -/
def s4 : State := { withW (fun w => { w with h := [(4, 40)] }) with
  cmds := [(40, { mkCmd s0 me 0 (.mend 1) true [] with holders := [(0, 4)] })] }

/-- Every form of every instruction is an instruction that is ready in `s4`. -/
theorem witness_ready : (forms.all fun x => (instrOf x.1 (someFields x.1 x.2)).isSome && readyB x.1 (someFields x.1 x.2) s4 (wOf s4)) = true := by
  decide +kernel
/-- The premise of `Ready` as it stands, for ADD. -/
theorem witness_Ready : Ready 0x12 plainAdd s0 (wOf s0) := ready_of (by decide +kernel)

/-! Witnesses: states and operands that meet the hypotheses of the statements

Where a statement asks no more than `Ready`, `witness_ready` is its witness. -/

/-- A uniform instruction with these fields is ready in a state, its operands read for thread 0. -/
def uniB (op : Nat) (f : Fields) (s : State) : Bool := readyB op f s (wOf s) && decide ((ctxOf op f s (wOf s)).lanes = [(0, 0)])
/-- P0 holds for the threads of a mask. -/
def withP0 (m : Mask) (s : State := s0) : State := withW (fun w => { w with p := [(0, m)] }) s
def guarded (f : Fields) : Fields := { f with gp := 0 }
/-- `n` split entries, none of them joined at an address in use. -/
def entries (n : Nat) : List Split := (List.range n).map fun i => { ja := BitVec.ofNat 57 (0x30000 + 8 * i), u := 0xFF, pend := 0, pstart := 0, resume := false, did := 0 }
/-- A lane's load that has been issued and not performed. -/
def pendingLoad : Access := { plainAccess 0 .g 0x10080 0x80 4 .read with id := 7, inst := 6 }
def withAccs (l : List Access) (s : State := s0) : State := withW (fun w => { w with accs := l }) s
def waiting (x : Wait) (s : State := s0) : State := withW (fun w => { w with wait := some x, slotLanes := [(0, 0)] }) s
/-- The workgroup of the warp changed. -/
def withWg (f : Workgroup → Workgroup) (s : State := s0) : State := s.modWg 1 f

theorem witness_ExactArithmetic : 0 < 3 ∧ FpVal.isNan (.nan true) = true ∧ FpVal.isNan (.nan false) = true := by decide
theorem witness_Rounding : fmtE2M1 ∈ formats ∧ 15 < 2 ^ (fmtE2M1.mag + 1) ∧ isNan fmtE2M1 15 = false ∧ fmtF32 ∈ formats ∧
    0x7F800000 < 2 ^ (fmtF32.mag + 1) ∧ isNan fmtF32 0x7F800000 = false ∧ 3 < 4 := by decide +kernel
theorem witness_Transcendental : 0 < 2 ^ 24 - 1 ∧ 2 ^ 24 - 1 < 2 ^ 24 := by decide

/-- Guards that are false, for the uniform instructions among the forms. -/
theorem witness_GuardFalse : ([0x00, 0x02, 0x03, 0x05, 0x07, 0x08, 0x09, 0x0A, 0x70, 0x71, 0x72, 0x73, 0xA0, 0xA1, 0xA2, 0xA3, 0xA4, 0xA5, 0xA6, 0xA7,
    0xA8, 0xB0, 0xB1, 0xB2, 0xB3, 0xB5, 0xB6, 0xB7, 0xB8, 0xC0, 0xC1, 0xC2, 0xC3, 0xC4, 0xC5, 0xC6, 0xC8, 0xC9, 0xCA, 0xCB, 0xCC, 0xCD, 0xD0, 0xD3, 0xD4,
    0xD5, 0xD6, 0xD7, 0xE1, 0xE2, 0xE3, 0xE4, 0xE5, 0xE6].all fun op => let f := guarded (someFields op 0)
      readyB op f s4 (wOf s4) && decide ((ctxOf op f s4 (wOf s4)).lanes = [])) = true := by decide +kernel

theorem witness_Pauses_yield : (uniB 0x08 (fld 0 0 0 0 0) s0 && uniB 0x08 (fld 0 0 0 0 0) (s0.modCore 0 fun k => { k with
    sched := { k.sched with rq := [{ w := { wg := 2, wix := 0 }, count := 0 }] } })) = true := by decide +kernel
theorem witness_Pauses_sleep : (uniB 0x09 (fld 0 0x1E0 0 0 0) s0 && uniB 0x09 (fld 0 0x1FF 0 0 0) s0) = true ∧ (wOf s0).wait.isNone ∧
    (wOf s0).kept.isNone ∧ (ctxOf 0x09 (fld 0 0x1E0 0 0 0) s0 (wOf s0)).valA (wOf s0).begun (0, 0) = 0 := by decide +kernel
theorem witness_Pauses_sleept : (uniB 0x0A (fld 0 0x104 0 0 0) s0 && uniB 0x0A (fld 0 0x104 0 0 0) (withS [(4, 1)])) = true ∧
    (ctxOf 0x0A (fld 0 0x104 0 0 0) s0 (wOf s0)).valA (wOf s0).begun (0, 0) ≤ s0.clock.clk ∧
    s0.clock.clk < (ctxOf 0x0A (fld 0 0x104 0 0 0) (withS [(4, 1)]) (wOf (withS [(4, 1)]))).valA (wOf (withS [(4, 1)])).begun (0, 0) := by decide +kernel
theorem witness_Pauses_woken : let s := waiting (.sleep 0 true)
    Resumed 0x09 (fld 0 0x1E5 0 0 0) s (wOf s) ∧ (ctxOf 0x09 (fld 0 0x1E5 0 0 0) s (wOf s)).lanes = [(0, 0)] ∧ 0 ≤ s.clock.clk :=
  ⟨resumed_of (by decide +kernel), by decide +kernel, by decide +kernel⟩
theorem witness_Pauses_sleepEnd : let s := waiting (.sleep 0 false)
    s.warp? me = some (wOf s) ∧ (wOf s).wait = some (.sleep 0 false) ∧ 0 ≤ s.clock.clk := by decide +kernel

def branch : Fields := fld 0 0 0 0 0 0x30_00000028
theorem witness_Branches_sides : (readyB 0x01 (guarded branch) s0 (wOf s0) && readyB 0x01 branch s0 (wOf s0)) = true ∧
    (ctxOf 0x01 (guarded branch) s0 (wOf s0)).mask = 0 ∧ (ctxOf 0x01 branch s0 (wOf s0)).mask = 0xFFFFFFFF := by decide +kernel
theorem witness_Branches_divide : let s := withP0 0xF
    readyB 0x01 (guarded branch) s (wOf s) = true ∧ (ctxOf 0x01 (guarded branch) s (wOf s)).mask = 0xF ∧ (wOf s).begun.active = 0xFFFFFFFF ∧
    (wOf s).begun.splits.length < 64 := by decide +kernel
theorem witness_Branches_deep : let s := withW (fun w => { w with splits := entries 64 }) (withP0 0xF)
    readyB 0x01 (guarded branch) s (wOf s) = true ∧ (ctxOf 0x01 (guarded branch) s (wOf s)).mask = 0xF ∧ 64 ≤ (wOf s).begun.splits.length := by
  decide +kernel
/-- The second path is to start at the join address of the top entry, 0x10030. -/
theorem witness_Branches_waiting :
    let s := withW (fun w => { w with splits := [{ ja := 0x10030, u := 0xFFFFFFFF, pend := 0, pstart := 0, resume := false, did := 0 }] }) (withP0 0xF)
    let f := guarded { branch with ext := 0x30_00000030, m := 1 }
    readyB 0x01 f s (wOf s) = true ∧ (wOf s).pc + dispLo f.ext = (wOf s).pc + dispHi f.ext ∧ (wOf s).begun.splits.map (·.ja) = [(wOf s).pc + dispHi f.ext] := by
  decide +kernel
theorem witness_Branches_jump : uniB 0x02 (fld 0 0 0 0 0 0x18) s0 = true := by decide +kernel
/-- A table of 2 entries at 0x10008, its entry 0 read from zero bytes; and an index past it. -/
theorem witness_Branches_table : let f := fld 0 0x1E0 0 0 0 0x2_00000008
    uniB 0x03 f s0 = true ∧ (ctxOf 0x03 f s0 (wOf s0)).valA (wOf s0).begun (0, 0) = 0 ∧
    (s0.started (wOf s0)).fetchDword s0.cur (wOf s0).begun 0x10008 = .got 0 (s0.started (wOf s0)) ∧ uniB 0x03 { f with a := 0x1E2 } s0 = true := by
  decide +kernel
theorem witness_Branches_tableMisaligned : let s := s0.putByte 8 4
    uniB 0x03 (fld 0 0x1E0 0 0 0 0x2_00000008) s = true ∧
    (s.started (wOf s)).fetchDword s.cur (wOf s).begun 0x10008 = .got 4 (s.started (wOf s)) := by decide +kernel
/-- The table lies in a page that cannot be executed. -/
theorem witness_Branches_tableFault : let s := s0.modCore 0 fun k => { k with tlb := [{ part := 0, va := 0x10000, bits := 16, pte := 0x2F }] }
    uniB 0x03 (fld 0 0x1E0 0 0 0 0x2_00000008) s = true ∧ (s.started (wOf s)).fetchDword s.cur (wOf s).begun 0x10008 = .fault .gExec := by decide +kernel

theorem witness_Calls_call : uniB 0x05 (fld 0 0 0 0 0 0x18) s0 = true ∧ ((wOf s0).pc + dispLo 0x18) >>> 32 = (wOf s0).pc >>> 32 ∧
    ((wOf s0).pc + dispLo 0xFFFE0000) >>> 32 ≠ (wOf s0).pc >>> 32 := by decide +kernel
theorem witness_Calls_uniform : let f := fld 0 0x104 0 0 0; let g (s : State) := (ctxOf 0x06 f s (wOf s)).valA (wOf s).begun (0, 0)
    (uniB 0x06 f (withS [(4, 0x10080)]) && uniB 0x06 f s0) = true ∧ callable (wOf s0).pc (g (withS [(4, 0x10080)])) = true ∧
    callable (wOf s0).pc (g s0) = false ∧ callable 0x10000 (2 ^ 57) = false ∧ callable 0x10000 0x10084 = false ∧ callable 0x10000 0x1_00010080 = false := by
  decide +kernel
/-- V0:V1 of every thread hold 0x10080; in the second state thread 0 holds 0x10100. -/
def targets (first : Word) : State := withW (fun w => { w with v := (0, first) :: (List.range 31).map fun t => (t + 1, 0x10080) }) s0
theorem witness_Calls_groups : let f := fld 0 0 0 0 0; let s := targets 0x10100; let c := ctxOf 0x06 f s (wOf s)
    readyB 0x06 f s (wOf s) = true ∧ c.uni = false ∧ (∀ x ∈ c.lanes, callable (wOf s).pc (c.valA (wOf s).begun x) = true ∧ 0x10080 ≤ c.valA (wOf s).begun x) ∧
    (∃ x ∈ c.lanes, c.valA (wOf s).begun x = 0x10080) ∧ (wOf s).begun.splits = [] := by decide +kernel
theorem witness_Calls_oneGroup : let f := fld 0 0 0 0 0; let s := targets 0x10080; let c := ctxOf 0x06 f s (wOf s)
    readyB 0x06 f s (wOf s) = true ∧ c.uni = false ∧ ∀ x ∈ c.lanes, c.valA (wOf s).begun x = 0x10080 := by decide +kernel
/-- The top entry resumes this CALLI; and 64 entries leave no room. -/
theorem witness_Calls_again : let f := fld 0 0 0 0 0
    let s := withW (fun w => { w with splits := [{ ja := 0x10008, u := 0xFFFFFFFF, pend := 0, pstart := 0x10000, resume := true, did := 0 }] }) (targets 0x10100)
    let s' := withW (fun w => { w with splits := entries 64 }) (targets 0x10100)
    (readyB 0x06 f s (wOf s) && readyB 0x06 f s' (wOf s')) = true ∧ (wOf s).pc = 0x10000 ∧ nextPc 0x06 f (wOf s) = 0x10008 := by decide +kernel
theorem witness_Calls_badLane : let f := fld 0 0 0 0 0; let s := targets 0x10084; let c := ctxOf 0x06 f s (wOf s)
    readyB 0x06 f s (wOf s) = true ∧ c.uni = false ∧ (0, 0) ∈ c.lanes ∧ callable (wOf s).pc (c.valA (wOf s).begun (0, 0)) = false := by decide +kernel
theorem witness_Calls_none : let f := guarded (fld 0 0 0 0 0)
    readyB 0x06 f s0 (wOf s0) = true ∧ (ctxOf 0x06 f s0 (wOf s0)).lanes = [] := by decide +kernel
theorem witness_Calls_ret : (uniB 0x07 (fld 0 0 0 0 0) (withS [(62, 0x10080)]) && uniB 0x07 (fld 0 0 0 0 0) (withS [(62, 0x10084)])) = true := by
  decide +kernel

/-- A wave's workgroup with nothing pending. -/
def waveS (l : List Access := []) : State := withWg (fun g => { g with kind := .wave }) (withAccs l)
theorem witness_Exit_grid : readyB 0x0B (fld 0 0 0 0 0) s0 (wOf s0) = true ∧ (s0.wg s0.cur.wg).kind = .grid ∧ (wOf s0).begun.em ≠ 0 ∧
    (wOf s0).begun.em &&& ~~~(ctxOf 0x0B (fld 0 0 0 0 0) s0 (wOf s0)).mask = 0 := by decide +kernel
/-- Some threads stay; the path that ends leaves an entry, with a pending path or none. -/
theorem witness_Exit_paths : let f := fld 0 0 0 0 0; let g := guarded f; let s := withP0 0xF
    readyB 0x0B g s (wOf s) = true ∧ (wOf s).begun.em &&& ~~~(ctxOf 0x0B g s (wOf s)).mask ≠ 0 ∧
    (endRule 0xFFFF 0 [{ ja := 0x10030, u := 0xFFFFFFFF, pend := 0xFFFF0000, pstart := 0x10040, resume := false, did := 0 }]).2.2 = some (0x10040, true) ∧
    (endRule 0xFFFF 0 [{ ja := 0x10030, u := 0xFFFFFFFF, pend := 0, pstart := 0x10040, resume := false, did := 0 }]).2.2 = some (0x10030, false) ∧
    (endRule 0xFFFFFFFF 0 (entries 2)).2.2 = none := by decide +kernel
theorem witness_Exit_wave : readyB 0x0B (fld 0 0 0 0 0) (waveS) (wOf waveS) = true ∧ readyB 0xD2 (fld 0 0 0 0 0) waveS (wOf waveS) = true ∧
    (waveS.wg waveS.cur.wg).kind ≠ .grid ∧ (wOf waveS).begun.isPending ((ctxOf 0xD2 (fld 0 0 0 0 0) waveS (wOf waveS)).lanes.map fun x => .v 0 x.1) = false ∧
    (wOf waveS).released = true := by decide +kernel
theorem witness_Exit_taskend : readyB 0xD2 (fld 0 0 0 0 0) s0 (wOf s0) = true ∧ (ctxOf 0xD2 (fld 0 0 0 0 0) s0 (wOf s0)).lanes.head? = some (0, 0) := by
  decide +kernel

/-- BARA, BARW and BAR of barrier 15 and of 16, alone in the workgroup. -/
theorem witness_Barriers_arrive : let f := fld 0 0x1EF 0x1DF 0 0; let w := wOf s0
    (uniB 0x70 f s0 && uniB 0x72 f s0) = true ∧ Accepts (s0.started w) w 15 (effectiveMask 1 0xFFFFFFFF) ∧ w.released = true ∧
    (arrivedBarrier ((s0.started w).wg 1).warps Barrier.clear 0 1).phase = 1 :=
  ⟨by decide +kernel, ⟨by decide, by decide +kernel, by decide +kernel, fun p h => absurd (h.symm.trans (by decide +kernel)) (Option.some_ne_none p)⟩, by decide +kernel, by decide +kernel⟩
theorem witness_Barriers_unreleased : let s := withAccs [pendingLoad]; let f := fld 0 0x1EF 0x1DF 0 0
    (uniB 0x70 f s && uniB 0x72 f s) = true ∧ (wOf s).released = false := by decide +kernel
theorem witness_Barriers_state : (uniB 0x70 (fld 0 0x1F0 0x1DF 0 0) s0 && uniB 0x71 (fld 0 0x1F0 0 0 0) s0 && uniB 0x71 (fld 0 0x1E0 0 0 0) s0 &&
    uniB 0x72 (fld 0 0x1F0 0x1DF 0 0) s0) = true ∧ (wOf s0).barPend = [] := by decide +kernel
theorem witness_Barriers_mask : let f := fld 0 0x1E0 0x1E0 0 0
    (uniB 0x70 f s0 && uniB 0x72 f s0) = true ∧ (effectiveMask 1 0).getLsbD 0 = false ∧ tfind (wOf s0).barPend 0 = none := by decide +kernel
/-- A second warp that has not arrived. -/
def twoWarps (b : Barrier := Barrier.clear) (w : Wait → Warp → Warp := fun _ w => w) : State :=
  withWg fun g => { g with warps := g.warps.map (w (.bar 0)) ++ g.warps, bars := [(0, b)] }
theorem witness_Barriers_incomplete : uniB 0x72 (fld 0 0x1E0 0x1DF 0 0) twoWarps = true ∧
    (arrivedBarrier (twoWarps.wg 1).warps Barrier.clear 0 (effectiveMask 2 0xFFFFFFFF)).phase = 0 := by decide +kernel
/-- The pending arrival at phase 0, while the barrier is in phase 0 and in phase 1. -/
def arrived (phase : Nat) : State := twoWarps { Barrier.clear with phase } fun x w => { w with wait := some x, slotLanes := [(0, 0)], barPend := [(0, 0)] }
theorem witness_Barriers_wait : let s := withW (fun w => { w with wait := none }) (arrived 0); let f := fld 0 0x1E0 0 0 0
    uniB 0x71 f s = true ∧ tfind (wOf s).barPend 0 = some 0 ∧ ¬BarDone s (s.wg 1) (wOf s) 0 0 := by
  refine ⟨by decide +kernel, by decide +kernel, fun h => ?_⟩
  exact absurd h.1 (by decide +kernel)
theorem witness_Barriers_done : let s := arrived 1; let w := wOf s; let f := fld 0 0x1E0 0 0 0
    Resumed 0x71 f s w ∧ Resumed 0x72 { f with b := 0x1DF } s w ∧ (ctxOf 0x71 f s w).lanes = [(0, 0)] ∧ w.wait = some (.bar 0) ∧ tfind w.barPend 0 = some 0 ∧
    BarDone s (s.wg 1) w 0 0 :=
  ⟨resumed_of (by decide +kernel), resumed_of (by decide +kernel), by decide +kernel, by decide +kernel, by decide +kernel,
    by decide +kernel, by decide +kernel, by decide +kernel⟩

theorem witness_Fences : let s := withAccs [pendingLoad]
    (uniB 0x73 (fld 0 0 0 0 0) s0 && uniB 0x73 (fld 0 3 0 0 2) s && uniB 0xE5 (fld 0 2 0 0 0) s0 && uniB 0xE5 (fld 0 0 0 0 0) s) = true ∧
    (wOf s0).released = true ∧ (wOf s).released = false := by decide +kernel

/-- A stage word of 32 bytes at 0x10, its tag empty. -/
def stageWg : Workgroup := (s0.wg 1).aPut 0x10 (toBytes 4 32)
theorem witness_Stages_word : tsorted stageWg.a = true ∧ tsorted stageWg.tags = true ∧ 0x10 % 4 = 0 ∧ 32 < 2 ^ 24 := by decide +kernel
/-- A = V0, B = V2; addresses below 2^32 in every thread. -/
def starr (a b : Word) : State := withW (fun w => { w with v := (List.range 32).map (fun t => (t, a)) ++ (List.range 32).map (fun t => (64 + t, b)) }) s0
theorem witness_Stages_starr : (readyB 0x77 (fld 0 0 2 0 0) (starr 0xFFC 32) (wOf (starr 0xFFC 32)) && readyB 0x77 (fld 0 0 2 0 0) (starr 0x1000 32) (wOf (starr 0x1000 32))) = true ∧
    starrFault (starr 0 0) me 0xFFC 32 = none ∧ starrFault (starr 0 0) me 0xFFD 32 = some .aRange ∧ starrFault (starr 0 0) me 2 32 = some .localAlign ∧
    starrFault (starr 0 0) me 0 (2 ^ 24) = some .stageCount := by decide +kernel

/-- An extension of a memory instruction: width, displacement, scale, scope, atomic operation, limit. -/
def memExt (width : Nat) (disp scale scope aop limit : Nat := 0) : DWord :=
  BitVec.ofNat 64 (disp + width * 2 ^ 32 + scale * 2 ^ 35 + scope * 2 ^ 37 + aop * 2 ^ 39 + limit * 2 ^ 48)
/-- V registers below `n` of every thread. -/
def withV (n : Nat) (g : Nat → Nat → Nat) (s : State := s0) : State :=
  withW (fun w => { w with v := (List.range n).flatMap fun r => (List.range 32).map fun t => (32 * r + t, BitVec.ofNat 32 (g r t)) }) s
/-- V0 holds A addresses 16 bytes apart, from `base` on. -/
def aLanes (base : Nat) : State := withV 6 (fun r t => if r = 0 then base + 16 * t else 5 * r) s0
/-- V0:V1 hold G addresses 64 bytes apart, from `base` on. -/
def gLanes' (base : Nat) : State := withV 6 (fun r t => if r = 0 then base + 64 * t else if r = 1 then 0 else 5 * r) s0
def aOkB (s : State) (r : WarpRef) (w : Warp) (addr align n : Nat) (write : Bool) : Bool :=
  decide (addr + n ≤ (s.wg r.wg).aSize) && decide (addr % align = 0) && !s.lockedA (s.wg r.wg).core r.wg addr n write &&
  decide ((w.tr.find? fun x => x.1 = 2 ^ 65 + addr / 4) = none)
def gOkB (s : State) (r : WarpRef) (w : Warp) (addr align n : Nat) (write needWr unitOk : Bool) (t : Trans) : Bool :=
  decide (addr < 2 ^ 57) && decide (addr % align = 0) && decide ((w.tr.find? fun x => x.1 = pageOf addr || x.1 = 2 ^ 64 + addr / 32) = none) &&
  decide (s.tlbAt (s.wg r.wg).core (s.wg r.wg).part addr = some t) && (unitOk || decide (paSpace t.pa = 0)) &&
  (if needWr then pteWr t.pte else pteRd t.pte) && !s.portDown t.pa && !s.lockedG (s.wg r.wg).core (s.wg r.wg).part addr n write
theorem gOk_of {s : State} {r : WarpRef} {w : Warp} {addr align n : Nat} {write needWr unitOk : Bool} {t : Trans}
    (h : gOkB s r w addr align n write needWr unitOk t = true) : GOk s r w addr align n write needWr unitOk t := by
  simp only [gOkB, Bool.and_eq_true, decide_eq_true_eq, Bool.not_eq_true', Bool.or_eq_true] at h
  obtain ⟨⟨⟨⟨⟨⟨⟨h1, h2⟩, h3⟩, h4⟩, h5⟩, h6⟩, h7⟩, h8⟩ := h
  exact ⟨h1, h2, h3, h4, h5, h6, h7, h8⟩
/-- The translation that the TLB of core 0 gives. -/
def trOf (s : State) (a : Nat) : Trans := (s.tlbAt 0 0 a).getD { pa := 0, pte := 0 }
/-- Every lane of a G form passes its checks, and its bytes are not poisoned. -/
def gLanesOk (op : Nat) (f : Fields) (s : State) (a : Ctx → Warp → Nat × Nat → Nat) (n : Nat) (write needWr unitOk : Bool) : Bool :=
  let c := ctxOf op f s (wOf s); let b := (wOf s).begun; let s1 := s.started (wOf s)
  readyB op f s (wOf s) && !c.lanes.isEmpty && c.lanes.all fun x =>
    gOkB s1 s.cur b (a c b x) n n write needWr unitOk (trOf s (a c b x)) && decide (s1.poisonAt (trOf s (a c b x)).pa n = none)
/-- Every lane of an A form passes its checks, and its bytes are not poisoned. -/
def aLanesOk (op : Nat) (f : Fields) (s : State) (indexed : Bool) (n : Nat) (write : Bool) : Bool :=
  let c := ctxOf op f s (wOf s); let b := (wOf s).begun; let s1 := s.started (wOf s)
  readyB op f s (wOf s) && !c.lanes.isEmpty && c.lanes.all fun x =>
    aOkB s1 s.cur b (c.formed b 32 indexed x) n n write && decide ((s1.asp s.cur.wg).aTag (c.formed b 32 indexed x) n = none)

/-- Loads and stores of 1, 4 and 16 bytes; the last bytes of the range that A addresses have; LDA behind a load that acquires. -/
theorem witness_LocalAccess : ([0, 4, 6].all fun n => let f := fld 40 0 0x1E0 0 0 (memExt n 0 2); let g := fld 0 0 0x1E0 4 2 (memExt n 0 2)
    let b := (1 <<< (if n = 0 then 0 else n - 2))
    aLanesOk 0x80 f (aLanes 0x40) true b false && aLanesOk 0x81 g (aLanes 0x40) true b true) = true ∧
    aOkB s0 me (wOf s0) ((s0.wg 1).aSize - 16) 16 16 true = true ∧
    (let s := withAccs [{ pendingLoad with acq := true }] (aLanes 0x40); let f := fld 40 0 0x1E0 0 1 (memExt 4)
     readyB 0x80 f s (wOf s) && (ctxOf 0x80 f s (wOf s)).lanes.any fun x =>
      (wOf s).begun.held { plainAccess x.1 .a 0x40 0x40 4 .read with acq := true }) = true := by decide +kernel
/-- Addresses that are misaligned, and that lie outside the A range. -/
theorem witness_LocalAccess_traps : ([0x42, 0xFFFFFF00].all fun a => [0x80, 0x81].all fun op => let s := aLanes a; let f := fld 0 0 0x1E0 0 0 (memExt 4)
    readyB op f s (wOf s) && (ctxOf op f s (wOf s)).lanes.any fun x =>
      ((s.started (wOf s)).aFault s.cur x.1 ((ctxOf op f s (wOf s)).formed (wOf s).begun 32 true x) 4 4 (op = 0x81)).isSome) = true := by decide +kernel

theorem witness_GlobalAccess : let s := gLanes' 0x10100
    ([0x82, 0x84].all fun op => gLanesOk op (fld 40 0 0x1E0 0 0 (memExt 6)) s (fun c w => c.formed w 64 true) 16 false false true) = true ∧
    gLanesOk 0x83 (fld 0 0 0x1E0 4 0 (memExt 6)) s (fun c w => c.formed w 64 true) 16 true true true = true ∧
    gLanesOk 0x82 (fld 40 0 0x1E0 0 1 (memExt 4 0 0 3)) s (fun c w => c.formed w 64 true) 4 false false true = true := by decide +kernel
/-- A non-canonical address, a misaligned one, one that a walk refused, and a form whose scope G space has not. -/
theorem witness_GlobalAccess_traps : let f := fld 40 0 0x1E0 0 0 (memExt 4)
    ([(0x82, f), (0x83, { f with d := 0, c := 4 }), (0x84, f)].all fun (op, f) => let s := gLanes' 0x10102
      readyB op f s (wOf s) && (ctxOf op f s (wOf s)).lanes.all fun x => gFault (s.started (wOf s)) s.cur (wOf s).begun ((ctxOf op f s (wOf s)).formed (wOf s).begun 64 true x) 4 (op = 0x83) true = some .gAlign) = true ∧
    gFault s0 me (wOf s0) (2 ^ 57) 4 false true = some .gNoncanon ∧ gKnown s0 me (wOf s0) (2 ^ 57) 4 true ∧
    (let s := withW (fun w => { w with tr := [(pageOf 0x10000, .refused)] }) (gLanes' 0x10000)
     (readyB 0x82 f s (wOf s) && decide (gFault s me (wOf s) 0x10000 4 false true = some .gRefused)) = true) ∧
    readyB 0x82 { f with m := 1 } (gLanes' 0x10000) (wOf (gLanes' 0x10000)) = true ∧ (ctxOf 0x82 { f with m := 1 } s0 (wOf s0)).scope = .blk := by
  refine ⟨by decide +kernel, by decide +kernel, Or.inl (by decide), by decide +kernel, by decide +kernel, by decide +kernel⟩

/-- Row and column of an element, at the window [2, 6) of the warp. -/
def cLanes (row : Nat) : State := withW (fun w => { w with cwb := 2, cwl := 6 }) (withV 4 (fun r t => if r = 0 then row else if r = 1 then t else 9))
theorem witness_MatrixElement : ([2, 5].all fun row => let s := cLanes row; let w := wOf s; let b := w.begun
    [(0x86, fld 40 0 1 0 0 0x5_00000000), (0x87, fld 0 0 1 2 0 0x5_00000000)].all fun (op, f) => let c := ctxOf op f s w
      readyB op f s w && c.lanes.all fun x => let e := c.valA b x % 2 ^ 32 * 128 + c.valB b x % 2 ^ 32
        decide (b.cwb ≤ c.valA b x % 2 ^ 32) && decide (c.valA b x % 2 ^ 32 < b.cwl) && decide (c.valB b x % 2 ^ 32 ≤ 127) && !s.lockedC 0 (c.valA b x % 2 ^ 32) &&
        decide ((s.core 0).tagC e = none) && (b.tr.all fun y => y.1 ≠ 2 ^ 67 + e) && !b.held (plainAccess x.1 .c 0 (4 * e) 4 (if op = 0x86 then .read else .write))) = true := by
  decide +kernel
/-- One thread, below the window, above it, and past column 127 by its displacement. -/
theorem witness_MatrixElement_traps : ([(1, 0), (6, 0), (3, 128)].all fun x => let s := withP0 1 (cLanes x.1); let e := BitVec.ofNat 64 (0x5_00000000 + x.2)
    [(0x86, guarded (fld 40 0 1 0 0 e)), (0x87, guarded (fld 0 0 1 2 0 e))].all fun (op, f) => readyB op f s (wOf s) && decide ((ctxOf op f s (wOf s)).lanes.map (·.1) = [0])) = true := by decide +kernel

theorem witness_Tags_start : let s := aLanes 0x40
    (aLanesOk 0x88 (fld 40 0 0x1E0 0x191 5 (memExt 4 0 0 0 0 7)) s true 4 false && aLanesOk 0x89 (fld 0x191 0 0x1E0 4 2 (memExt 4)) s true 4 true) = true ∧
    (wOf s).doneLanes = [] ∧ (wOf s).accs = [] := by decide +kernel
/-- The waits of three lanes: two LDTF, one of them with a limit, on one word, and an STTE on another. -/
def tagWaits (finished : Bool) (limit : Nat := 100) : List LaneWait :=
  let l : LaneWait := { lane := 0, addr := 0x50, va := 0, kind := .ldtf true, dest := [.v 40 0], pred := none, limit := none, poll := none, key := none, finished }
  [l, { l with lane := 1, addr := 0x54, limit := some limit }, { l with lane := 2, addr := 0x58, kind := .stte 7, dest := [] }]
def tagS (finished full : Bool) : State := withWg (fun g => (g.setTag 0x50 full)) (waiting (.lanes (tagWaits finished)) (withP0 7 (aLanes 0x40)))
theorem witness_Tags_end : let s := tagS true true; let f := guarded (fld 40 0 0x1E0 0 0 (memExt 4)); let g := guarded (fld 0 0 0x1E0 4 0 (memExt 4))
    Resumed 0x88 f s (wOf s) ∧ Resumed 0x89 g s (wOf s) ∧ (wOf s).wait = some (.lanes (tagWaits true)) ∧
    ∀ x ∈ (ctxOf 0x88 f s (wOf s)).lanes, ∃ l ∈ tagWaits true, l.lane = x.1 :=
  ⟨resumed_of (by decide +kernel), resumed_of (by decide +kernel), by decide +kernel, by decide +kernel⟩
theorem witness_Tags_acts : let s := tagS false true; let g := s.asp 1
    s.warp? me = some (wOf s) ∧ (∀ n ∈ [0, 1, 2], ∃ l ∈ tagWaits false, (wOf s).laneWait? n = some l ∧ l.lane = n ∧
      ∀ x ∈ tagWaits false, x.finished = false → x.addr = l.addr → n ≤ x.lane) ∧
    g.full 0x50 = true ∧ g.aTag 0x50 4 = none ∧ g.full 0x54 = false ∧ g.full 0x58 = false ∧ 100 ≤ ({ s with clock := { s.clock with clk := 900000 } } : State).time := by
  decide +kernel
/-- TAGSET of no word and of some. -/
theorem witness_Tags_tagset : ([0x1E0, 0x1E3].all fun n => aLanesOk 0x8A (fld 0 0 0x1E0 n 0 (memExt 4)) (aLanes 0x40) true 4 true) = true ∧
    (wOf (aLanes 0x40)).accs = [] := by decide +kernel

theorem witness_Atomics_blk : ([0, 9].all fun aop => aLanesOk 0x8B (fld 40 0 0x1E0 4 0 (memExt 4 0 0 0 aop)) (aLanes 0x40) true 4 true) = true ∧
    aLanesOk 0x8C (fld 40 0 2 4 0 (memExt 5)) (aLanes 0x40) false 8 true = true := by decide +kernel
theorem witness_Atomics_wide : (let s := gLanes' 0x10100
    gLanesOk 0x8B (fld 40 0 0x1E0 4 3 (memExt 4 0 0 3)) s (fun c w => c.formed w 64 true) 4 true true true &&
    gLanesOk 0x8C (fld 40 0 2 4 0 (memExt 5 0 0 2)) s (fun c w => c.formed w 64 false) 8 true true false && !s.flag 1 (·.det)) = true := by decide +kernel
/-- A level that is a launch of this record. -/
def levelOf (r : LaunchRec) : Level :=
  let l : Launch := { rec_ := r, ltbase := 0x20000, mark := 0, first := none, order := 3, next := 1, back := [], since := none, passed := false, clear := none }
  { id := 0x00050001, part := 0, counter := 1, total := 1, given := 1, parent := none, cancelled := false, order := 2, launch := some l }
/-- The workgroup as one of that launch. -/
def launchS (r : LaunchRec) (s : State := s0) : State := withWg (fun g => { g with launch := 0x00050001 }) { s with levels := [(5, levelOf r)] }
/-- The launch of the small machine in deterministic mode. -/
def detS (s : State := s0) : State := launchS { placedRec with det := true } s
theorem witness_Atomics_det : let s := detS (gLanes' 0x10100); let f := fld 40 0 0x1E0 4 3 (memExt 4 0 0 3); let g := fld 40 0 2 4 0 (memExt 5 0 0 2)
    (readyB 0x8B f s (wOf s) && readyB 0x8C g s (wOf s) && s.flag 1 (·.det)) = true ∧ (ctxOf 0x8B f s (wOf s)).lanes ≠ [] ∧ (ctxOf 0x8C g s (wOf s)).scope = .dev := by
  decide +kernel

theorem witness_AddressWaits_start : (let s := gLanes' 0x10100
    gLanesOk 0x74 (fld 40 0 2 4 0 (memExt 4 0 0 2 0 3)) s (fun c w => c.formed w 64 false) 4 false false true &&
    gLanesOk 0x75 (fld 40 0 0 0 0 (memExt 4)) s (fun c w x => c.valA w x) 32 true false true && !s.flag 1 (·.det) &&
    (List.range 32).all fun t => !s.awaitVeiled me (trOf s (0x10100 + 64 * t)).pa 32) = true := by decide +kernel
theorem witness_AddressWaits_end : let s := tagS true true; let f := guarded (fld 40 0 2 4 0 (memExt 4 0 0 2 0 3)); let g := guarded (fld 40 0 0 0 0 (memExt 4))
    Resumed 0x74 f s (wOf s) ∧ Resumed 0x75 g s (wOf s) ∧ (wOf s).wait = some (.lanes (tagWaits true)) ∧ (∀ l ∈ tagWaits true, l.finished = true) ∧
    ∀ x ∈ (ctxOf 0x74 f s (wOf s)).lanes, ∃ l ∈ tagWaits true, l.lane = x.1 :=
  ⟨resumed_of (by decide +kernel), resumed_of (by decide +kernel), by decide +kernel, by decide +kernel, by decide +kernel⟩
theorem witness_AddressWaits_qwake : (gLanesOk 0x76 (fld 40 0 0x1E3 0 0 (memExt 4)) (gLanes' 0x10100) (fun c w x => c.valA w x) 32 true true true) = true := by decide +kernel

/-! A witness that takes the statement as its hypothesis discharges all the other hypotheses at one state: where the statement lists the
checks of an instruction, none of them fails there.  `causeOf` is the trap that such a check takes. -/

/-- A handler at 0x10300, named by entry 0 of the link table at 0x10200. -/
def withHandler (s : State := s0) : State := withW (fun w => { w with ltbase := 0x10200 }) ((s.putByte 0x201 3).putByte 0x202 1)
/-- The cause in the frame that the instruction leaves. -/
def causeOf (i : Instr) (s : State) : Option Nat := match exec i s with
  | .next t => ((t.warp? s.cur).bind (·.frame)).map fun f => (frameWord f 0).toNat % 256
  | _ => none

/-- An access of warp 0 behind another of its accesses. -/
def behind (first : List Access) (a : Access) : State := withAccs (first ++ [a])
def late (k : AccKind) (n : Nat) : Access := { plainAccess 3 .g 0x10100 0x100 n k with id := 8, data := 5, inst := 7, dest := [.v 40 3], pend := 20 }
theorem witness_Perform_precedes : let s := behind [pendingLoad] { late .write 4 with pa := 0x80 }
    s.warp? me = some (wOf s) ∧ (wOf s).accs = [pendingLoad] ++ { late .write 4 with pa := 0x80 } :: [] ∧ pendingLoad.id ≠ 8 ∧
    mustPrecede pendingLoad { late .write 4 with pa := 0x80 } = true := by decide +kernel
/-- Every kind of access, none of them held up. -/
theorem witness_Perform_performed : ((([.write, .read, .atom 5, .cas] : List AccKind).map fun k => ([pendingLoad], late k 8)) ++
      (([.fence 0, .arrive 0 0, .starr, .qwake 3 true] : List AccKind).map fun k => ([], late k 4))).all (fun x => let s := behind x.1 x.2
    (x.1.all fun y => !ordered y x.2 && decide (y.id ≠ 8)) && !s.veiled 1 0 (some me) x.2.pa x.2.bytes (x.2.kind ≠ AccKind.read) && decide (s.accPoison me x.2 = none) &&
    decide (x.2.space ≠ Space.w) && decide ((wOf s).accs = x.1 ++ [x.2]) && decide (s.warp? me = some (wOf s))) = true := by decide +kernel

/-- G space with two granules under a key, and A space. -/
def sealed : State := { s0 with keys := [(7, 0x1234567)], gmeta := { s0.gmeta with seals := [(4, 0x1234567)] } }
theorem witness_BytesWritten : s0.memoryOk = true ∧ s0.sealsOk = true ∧ sealed.memoryOk = true ∧ sealed.sealsOk = true ∧
    1 < ([1, 2] : List Byte).length ∧ twf (0 : Byte) stageWg.a = true := by decide +kernel

/-- A lane that waits until the word at 0x100 is 7, and one that waits at the queue there. -/
def waita : LaneWait := { lane := 0, addr := 0x100, va := 0x10100, kind := .waita 4 0xFFFFFFFF 0 7, dest := [.v 40 0], pred := none, limit := none
                          poll := none, key := none, finished := false }
def part0 : Partition := { clmask := 3, qmask := 1, frames := [0, 1, 2, 3], kslot0 := 0, kslotN := 4, wshare := 2, floor := 0, ctxroot := 0x18000
                           fq := 0x4000, cq := 0x6000, kek := 0, tmask := 3, hashCfg := 0, nextFid := 5 }
def parted (wshare : Nat := 2) (s : State := s0) : State := { s with parts := [(0, { part0 with wshare })] }
def laneS (l : LaneWait) (wshare : Nat := 2) : State := waiting (.lanes [l]) (parted wshare)
theorem witness_WaitTables_write : let s := { laneS waita with waits := [{ pa := 0x100, part := 0, w := me, lane := 0, shared := false }] }
    (∃ e ∈ s.waits, (s.warp? e.w).bind (·.laneWait? e.lane) = some waita ∧ e.pa < 0x102 + 2 ∧ 0x102 < e.pa + 4) ∧
    waitaCond 4 0xFFFFFFFF 0 7 (ofBytes ((({ s with mem := [(0x100, 7)] } : State).writeBytes none 0x102 [0, 0]).view none 0x100 4)) = true ∧
    tsorted s.queues = true := by decide +kernel
theorem witness_WaitTables_entry : let q : LaneWait := { waita with kind := .qwait, poll := some 0 }
    (∀ l ∈ [{ waita with poll := some 0 }, q], ∀ n ∈ [2, 0], let s := laneS l n; let w := wOf s
      s.warp? me = some w ∧ w.wait = some (.lanes [l]) ∧ l.finished = false ∧ l.poll = some 0 ∧ 0 ≤ s.time ∧ w.laneWait? 0 = some l ∧ (∀ e ∈ s.waits, e.w ≠ me)) ∧
    (laneS waita 2).shareFull 0 0x100 = false ∧ (laneS waita 0).shareFull 0 0x100 = true ∧
    waitaCond 4 0xFFFFFFFF 0 7 (ofBytes ((laneS waita).view none 0x100 4)) = false ∧
    waitaCond 4 0xFFFFFFFF 0 7 (ofBytes (((laneS waita).putByte 0x100 7).view none 0x100 4)) = true ∧
    ((laneS q).word none 0x100).toNat = 0 ∧ 0 < (((laneS q).putByte 0x100 7).word none 0x100).toNat := by decide +kernel

theorem witness_ResultLands : let p : Pend := { id := 20, keys := [.v 10 31, .s 5, .p 1 3], vals := [(.v 10 31, 7), (.s 5, 8), (.p 1 3, 1)], left := 0, flags := 5, long := true }
    let s := withW (fun w => { w with pends := [{ p with left := 1 }, p] }); let w := wOf s
    s.warp? me = some w ∧ w.pends.find? (fun q => q.id = p.id && q.left = 0) = some p ∧ (p.vals.map (·.1)).Nodup ∧
    tsorted w.v = true ∧ tsorted w.s = true ∧ tsorted w.p = true := by decide +kernel

/-- S2:S3, S4:S5 and S6. -/
def abc (a b c : Nat) (s : State := s0) : State := withS [(2, BitVec.ofNat 32 a), (3, BitVec.ofNat 32 (a / 2 ^ 32)), (4, BitVec.ofNat 32 b),
  (5, BitVec.ofNat 32 (b / 2 ^ 32)), (6, BitVec.ofNat 32 c)] s
/-- D is H3, A is S2, B is S4, C is S6. -/
def abcF (ext : DWord := 0) (d : Nat := 0x183) (m : Nat := 0) : Fields := fld d 0x102 0x104 0x106 m ext
/-- An extension of a copy: SSP, DSP, TKE and TOK, PRE and PRS, STE and STG, ESZ, ROP, HE and HIX. -/
def copyExt (ssp dsp : Nat) (tok prs : Option Nat := none) (stg : Option Nat := none) (esz rop : Nat := 0) (hix : Option Nat := none) : DWord :=
  let opt (x : Option Nat) (en lo : Nat) : Nat := match x with | some n => 2 ^ en + n * 2 ^ lo | none => 0
  BitVec.ofNat 64 (ssp + dsp * 4 + opt tok 4 5 + opt prs 8 9 + opt stg 15 16 + esz * 2 ^ 36 + rop * 2 ^ 40 + opt hix 45 46)

def copyF : Fields := abcF (copyExt 0 1 (some 3) (some 20) (some 0x40))
theorem witness_CollectiveCopy (h : Obligations.CollectiveCopy) : ∃ t, exec (.copy copyF) (abc 0x10100 0x100 64) = .next t := by
  have ⟨t, _, _, _, _, _, _, e, _⟩ := (h copyF (abc 0x10100 0x100 64) (wOf (abc 0x10100 0x100 64)) (0, 0) (readyUni_of (by decide +kernel))).2 (by decide +kernel)
    ⟨by decide +kernel, by decide +kernel, by decide +kernel⟩
  exact ⟨t, e⟩
/-- The first check that fails, at the last address or length that does. -/
theorem witness_CollectiveCopy_checks : ([(copyExt 3 1, 0, 0, 4), (copyExt 0 1, 2 ^ 57 - 4, 0, 8), (copyExt 0 1, 0x10000, 0xFFC, 8), (copyExt 0 1, 0x10000, 0x102, 8),
      (copyExt 0 1 none none (some 0x42), 0x10000, 0x100, 8), (copyExt 0 1 none none (some 0x1000), 0x10000, 0x100, 8), (copyExt 2 1, 2 ^ 32, 0, 136),
      (copyExt 2 1, 0xA0000000, 0, 136), (copyExt 2 1, 0x1004, 0, 136), (copyExt 1 3, 0, 16, 32), (copyExt 1 3, 0, 15, 2 ^ 15 + 32)].map fun x =>
    causeOf (.copy (abcF x.1)) (withHandler (abc x.2.1 x.2.2.1 x.2.2.2 (withWg fun g => { g with aSize := if x.2.2.2 = 2 ^ 15 + 32 then 2 ^ 17 else 0x1000 })))) =
    [some 0x53, some 0x20, some 0x30, some 0x31, some 0x31, some 0x30, some 0x51, some 0x33, some 0x51, some 0x51, some 0x51] := by decide +kernel

def copyvF : Fields := abcF (copyExt 0 2 (some 3) (some 20) none 0 0 (some 5)) 20
theorem witness_OtherCopies_copyv (h : Obligations.OtherCopies) : ∃ t, exec (.copyv copyvF) (abc 0x10100 1 64) = .next t := by
  have ⟨t, _, _, e, _⟩ := ((h.1 copyvF (abc 0x10100 1 64) (wOf (abc 0x10100 1 64)) (0, 0) (readyUni_of (by decide +kernel))).2 20 (by decide +kernel)).2 (by decide +kernel)
    (by decide +kernel) ⟨by decide +kernel, by decide +kernel, by decide +kernel⟩
  exact ⟨t, e⟩
def gatherF : Fields := abcF (copyExt 0 1 none none (some 0x40) 1)
theorem witness_OtherCopies_gather (h : Obligations.OtherCopies) : ∃ t, exec (.gather gatherF) (abc 0x10100 (0x100 + 0x400 * 2 ^ 32) 8) = .next t := by
  have ⟨t, _, _, e, _⟩ := (h.2.1 gatherF (abc 0x10100 (0x100 + 0x400 * 2 ^ 32) 8) (wOf (abc 0x10100 (0x100 + 0x400 * 2 ^ 32) 8)) (0, 0) (readyUni_of (by decide +kernel))).2
    (by decide +kernel) ⟨by decide +kernel, by decide +kernel, by decide +kernel⟩
  exact ⟨t, e⟩
def redcopyF : Fields := abcF (copyExt 1 0 none none (some 0x40) 0 3)
theorem witness_OtherCopies_redcopy (h : Obligations.OtherCopies) : ∃ t, exec (.redcopy redcopyF) (abc 0x200 0x10100 8) = .next t := by
  have ⟨t, _, _, e, _⟩ := (h.2.2 redcopyF (abc 0x200 0x10100 8) (wOf (abc 0x200 0x10100 8)) (0, 0) (readyUni_of (by decide +kernel))).2
    (by decide +kernel) ⟨by decide +kernel, by decide +kernel, by decide +kernel⟩
  exact ⟨t, e⟩
theorem witness_OtherCopies_checks :
    ([(copyExt 0 1, 1, 4), (copyExt 0 2, 1, 6), (copyExt 0 2, 1, 16388), (copyExt 0 2, 1, 16384), (copyExt 0 2, 0, 4), (copyExt 0 2, 2, 4)].map fun x =>
      causeOf (.copyv (abcF x.1 20)) (withHandler (abc 0x10100 x.2.1 x.2.2))) = [some 0x53, some 0x52, some 0x52, some 0x10, some 0x50, some 0x50] ∧
    ([(copyExt 2 1, 1), (copyExt 0 1, 0), (copyExt 0 1, 65537), (copyExt 0 1, 0x3C1)].map fun x =>
      causeOf (.gather (abcF x.1)) (withHandler (abc 0x10100 0x100 x.2))) = [some 0x53, some 0x51, some 0x51, some 0x30] ∧
    ([(copyExt 0 2, 0x10100), (copyExt 0 0, 2 ^ 57), (copyExt 0 0, 0x10100)].map fun x =>
      causeOf (.redcopy (abcF x.1)) (withHandler (detS (abc 0x10100 x.2 8)))) = [some 0x53, some 0xA4, some 0xA4] := by decide +kernel

/-- Command 40 of warp 0, its handle in H3. -/
def cmdS (k : Cmd) (s : State := s0) : State := { withW (fun w => { w with h := [(3, 40)] }) s with cmds := [(40, { k with holders := [(0, 3)] })] }
def slice1 (len : Nat) : Slice := { wix := 0, seq := 40, src := 0x10100, dst := 0x100, len }
def copyCmd (len : Nat := 32) (stage : Option Nat := none) : Cmd := { mkCmd s0 me 0 (.copy .g .a 0 [slice1 len] true false stage) true [] with promise := some 0 }
/-- A command that is complete, one that is stale, one that has its promise behind it, and one that has none. -/
theorem witness_Handles : let f := fld 0x110 0x183 0 0 0; let done := cmdS { copyCmd with status := 1 }; let going := cmdS copyCmd
    ([f, { f with m := 1 }, { f with m := 2 }, { f with m := 3 }].all fun f => uniB 0xA6 f done && uniB 0xA6 f going) = true ∧
    (uniB 0xA7 f done && uniB 0xA7 { f with m := 1 } going && uniB 0xA8 { f with d := 0 } going && uniB 0xA6 { f with a := 0x102 } (abc 40 0 0)) = true ∧
    (namedCmd f done (wOf done) 0).map (·.2.status) = some 1 ∧ (namedCmd f going (wOf going) 0).map (·.2.promise) = some (some 0) ∧
    namedCmd { f with a := 0x102 } (abc 40 0 0) (wOf (abc 40 0 0)) 40 = none ∧ (0 : DWord).toNat ≤ going.clock.clk ∧
    (mkCmd s0 me 5 (.mend 1) true []).kind = 5 := by decide +kernel
theorem witness_Handles_missed : let s := waiting (.handle 40 true) (cmdS copyCmd)
    s.warp? me = some (wOf s) ∧ (wOf s).wait = some (.handle 40 true) ∧ (tfind s.cmds 40).map (fun k => (k.status, k.promise)) = some (0, some 0) := by decide +kernel

/-- A subscription of stream 3 in two slots of 128 bytes at 0x400. -/
def sub3 (byThreads : Bool) : Sub := { stream := 3, base := 0x400, slots := 2, slotSz := 4, byThreads, nextIn := 1, nextUse := 0, seqNo := 5, inUse := [] }
def subbed (byThreads : Bool := false) (s : State := s0) : State := s.modWg 1 fun g => { g with subs := [sub3 byThreads] }
theorem witness_Streams_subscribe (h : Obligations.Streams) : (∃ t, exec (.subscribeOn (abcF 0 0)) (abc 3 0x400 (2 + 4 * 2 ^ 8)) = .next t) ∧
    ∃ t, exec (.subscribeOff (fld 0 0x102 0 0 1)) (abc 3 0 0 subbed) = .next t := by
  have ⟨t, _, e, _⟩ := ((h.1 (abcF 0 0) (abc 3 0x400 (2 + 4 * 2 ^ 8)) (wOf (abc 3 0x400 (2 + 4 * 2 ^ 8))) (0, 0) (readyUni_of (by decide +kernel))).1.2 (by decide +kernel)).2
    (by decide +kernel)
  have ⟨u, _, d, _⟩ := ((h.1 (fld 0 0x102 0 0 1) (abc 3 0 0 subbed) (wOf (abc 3 0 0 subbed)) (0, 0) (readyUni_of (by decide +kernel))).2.2 (by decide +kernel) (by decide +kernel)).2
    (by decide +kernel)
  exact ⟨⟨t, e⟩, ⟨u, d⟩⟩
theorem witness_Streams_publish (h : Obligations.Streams) : ∃ t, exec (.publish (abcF)) (abc 3 0x400 64) = .next t := by
  have ⟨_, _, t, _, e, _⟩ := (h.2.1 abcF (abc 3 0x400 64) (wOf (abc 3 0x400 64)) (0, 0) (readyUni_of (by decide +kernel))).2 (by decide +kernel)
    ⟨by decide +kernel, by decide +kernel, by decide +kernel⟩
  exact ⟨t, e⟩
theorem witness_Streams_checks : ([(16, 0x400, 0x401), (3, 0x400, 0x400), (3, 0x400, 0x411), (3, 0x400, 0x40101), (3, 0x404, 0x401), (3, 0xFE0, 0x201)].map fun x =>
      causeOf (.subscribeOn (abcF 0 0)) (withHandler (abc x.1 x.2.1 x.2.2))) = [some 0x55, some 0x55, some 0x55, some 0x55, some 0x31, some 0x30] ∧
    ([(3, 0x404, 32), (3, 0xFE0, 64), (3, 0x400, 33), (3, 0x400, 0), (16, 0x400, 32)].map fun x =>
      causeOf (.publish abcF) (withHandler (abc x.1 x.2.1 x.2.2))) = [some 0x31, some 0x30, some 0x51, some 0x51, some 0x51] ∧
    causeOf (.subscribeOff (fld 0 0x102 0 0 1)) (withHandler (abc 3 0 0)) = some 0x55 := by decide +kernel
/-- Records of 64 and of 160 bytes, the latter more than a slot holds; and one that is cancelled. -/
def pubCmd (len : Nat) (cancel : Bool := false) : Cmd := { mkCmd s0 me 4 (.publish 3 0x200 len) true [] with cancel }
theorem witness_Streams_intake : ([(64, false), (160, false), (64, true)].all fun x => let c := pubCmd x.1 x.2; let s := cmdS c subbed
    s.startable c && !s.rangeHeld 40 40 c (byteRange .a 0x200 x.1 false) && decide ((tgetD [] (s.cluster 0).streams 3).length < 4) && decide (c.status = 0)) = true ∧
    (cmdS (pubCmd 64) (withAccs [pendingLoad])).startable { pubCmd 64 with after := [(0, 7)] } = false := by decide +kernel
def record3 : Record := { bytes := (List.range 64).map fun i => BitVec.ofNat 8 i, marks := [(32, 32, 9)], todo := [1, 2] }
theorem witness_Streams_deliver : ([false, true].all fun th => let s := (subbed th).modClu 0 fun k => { k with streams := [(3, [{ record3 with todo := [2] }, record3])] }
    let wg := s.wg 1
    decide (tfind s.wgs 1 = some wg) && decide (wg.place = .resident) && decide (cluOf wg.core = 0) && decide (tgetD [] (s.cluster 0).streams 3 = [{ record3 with todo := [2] }] ++ record3 :: []) &&
    decide (1 ∉ [2]) && decide (1 ∈ record3.todo) && decide (wg.subs.find? (fun z => z.stream = 3) = some (sub3 th)) && !(s.asp 1).full (0x400 + 32 * 4 * 1) &&
    (tfind s.wgs (s.home 1)).isSome && twf (0 : Byte) (s.asp 1).a && tsorted (s.asp 1).tags) = true := by decide +kernel

/-- A collective that its last warp has entered, a copy with bytes to move, one done, one whose stage has counted. -/
theorem witness_CopyEnds : let asm : Cmd := { mkCmd s0 me 0 (.copy .g .a 0 [slice1 32] false false none) true [] with promise := none }
    let fin : Cmd := { copyCmd 32 (some 0x40) with units := List.range (copyCmd 32).body.unitCount }
    let lan : Cmd := { fin with landed := some 0 }
    ((cmdS asm).assembled asm && asm.assembling && asm.isCopy && !copyCmd.assembling && (cmdS copyCmd).startable copyCmd && decide (fin.deposited ≠ 0) &&
     decide (fin.body.unitCount ≤ fin.units.length) && decide (fin.out = []) && decide (fin.body.stage = some 0x40) && decide ((copyCmd).body.stage = none)) = true ∧
    lan.landed = some 0 ∧ 0 < ({ s0 with clock := { s0.clock with clk := 1 } } : State).clock.clk := by decide +kernel
/-- A word of a command that is still to be written; an access that the issue released; a request at the head of the governor's queue. -/
theorem witness_CopyEnds_words : let d : Drip := { unit := 0, key := none, pa := 0x100, data := [1, 2, 3, 4], tag := none }
    let c : Cmd := { copyCmd with out := [{ d with pa := 0x104 }, d] }
    c.out[1]? = some d ∧ (∀ e ∈ c.out.take 1, e.pa / 4 ≠ d.pa / 4) ∧ (cmdS { copyCmd with after := [(0, 7)] } (withAccs [pendingLoad])).startable { copyCmd with after := [(0, 7)] } = false ∧
    c.out ≠ [] := by decide +kernel
/-- A request of charge 5 behind one granted 3, in a partition whose floor is 1 W; the same with the flux above its bound. -/
def leaveS (flux : Nat := 0) : State :=
  { (cmdS (mkCmd s0 me 5 (.grun 0 4 0x400 0 1 0 1 1 0 0) true [])).modClu 0 fun k => { k with asks := [(40, 5, false), (41, 6, true)], grants := [(38, 3, false)], flux } with
    parts := [(0, { part0 with floor := 1000 })] }
/-- What a run adds to the flux is a free value (notes/assumptions/37.md): here it is at most the bound. -/
theorem witness_CopyEnds_leave (h : Config.fluxOf 0 5 ≤ 200) : (leaveS.cluster 0).asks = (40, 5, false) :: [(41, 6, true)] ∧
    ((leaveS.cluster 0).grants.map (·.2.1)).sum + 5 ≤ leaveS.budget 0 ∧ (leaveS.cluster 0).flux + Config.fluxOf 0 5 ≤ 200 ∧ leaveS.grantedMats 0 + 4 ≤ 64 ∧
    ¬((leaveS 201).cluster 0).flux + Config.fluxOf 0 5 ≤ 200 ∧ (s0.cluster 0).asks = [] := by
  have e : leaveS.parts.find? (fun p => p.2.clmask.getLsbD 0) = some (0, { part0 with floor := 1000 }) := by decide +kernel
  have g : ((leaveS.cluster 0).grants.map (·.2.1)).sum = 3 := by decide +kernel
  have f : (leaveS.cluster 0).flux = 0 ∧ ((leaveS 201).cluster 0).flux = 201 := by decide +kernel
  refine ⟨by decide +kernel, ?_, by rw [f.1, Nat.zero_add]; exact h, by decide +kernel, by rw [f.2]; omega, by decide +kernel⟩
  rw [g, State.budget, e]; exact le_trans (by decide) (le_max_right ..)
theorem witness_CopyEnds_move : (tfind (cmdS copyCmd).wgs ((cmdS copyCmd).home 1)).isSome = true ∧ twf (0 : Byte) ((cmdS copyCmd).asp 1).a = true := by decide +kernel

/-- An open chain of warp 0 over rows 2 to 5, the baton in its hand. -/
def chain30 : Chain := { id := 30, wg := 1, wix := 0, lo := 2, hi := 6, bexp := none, steps := 0, left := 0, sums := [], clamped := [], nonfin := false
                         prov := none, cancel := false, mend := none, dead := false, granted := true }
def matrixS (chains : List Chain) (s : State := s0) : State :=
  (withWg (fun g => { g with baton := { holder := some 0, reserved := none }, crows := 16 }) (withW (fun w => { w with cwb := 2, cwl := 6 }) s)).modCore 0 fun k => { k with chains }
/-- A format block of one row at A 0x200. -/
def blockS (s : State) : State := withWg (fun g => g.aPut 0x200 (toBytes 32 0x100)) s
def mmaS : State := blockS (matrixS [chain30] (abc 0x100 0 0x200))

theorem witness_Chains_mbegin (h : Obligations.Chains) : ∃ t, exec (.mbegin (fld 0 0 0 0 0)) (matrixS []) = .next t := by
  have ⟨t, _, e, _⟩ := ((h.1 (fld 0 0 0 0 0) (matrixS []) (wOf (matrixS [])) (0, 0) (readyUni_of (by decide +kernel))).2 (by decide +kernel)).1 (by decide +kernel) (by decide +kernel)
  exact ⟨t, e⟩
theorem witness_Chains_mend (h : Obligations.Chains) : ∃ t, exec (.mend (fld 0x183 0 0 0 0)) (matrixS [chain30]) = .next t := by
  have ⟨_, _, t, _, e, _⟩ := (h.2.1 (fld 0x183 0 0 0 0) (matrixS [chain30]) (wOf (matrixS [chain30])) (0, 0) (readyUni_of (by decide +kernel))).2 (by decide +kernel)
    ⟨by decide +kernel, by decide +kernel, by decide +kernel⟩ chain30 (by decide +kernel)
  exact ⟨t, e⟩
theorem witness_Chains_mma (h : Obligations.Chains) : ∃ t, exec (.mma abcF) mmaS = .next t := by
  have ⟨_, _, t, _, e, _⟩ := (((h.2.2 abcF mmaS (wOf mmaS) (0, 0) (readyUni_of (by decide +kernel))).2.2.2 chain30 (by decide +kernel) (by decide +kernel) (by decide +kernel)
    false ⟨nofun, fun hr => absurd hr (by
      unfold blockRefused; decide +kernel)⟩).2 (by decide +kernel)).2 (by decide +kernel) |>.2 (by decide +kernel) ⟨by decide +kernel, by decide +kernel, by decide +kernel⟩
  exact ⟨t, e⟩
theorem witness_Chains_checks : causeOf (.mbegin (fld 0 0 0 0 0)) (withHandler s0) = some 0x60 ∧ causeOf (.mbegin (fld 0 0 0 0 0)) (withHandler (matrixS [chain30])) = some 0x64 ∧
    causeOf (.mbegin (fld 0 0 0 0 0)) (withHandler (withW (fun w => { w with cwl := 2 }) (matrixS []))) = some 0x63 ∧
    causeOf (.mend (fld 0x183 0 0 0 0)) (withHandler (matrixS [])) = some 0x64 ∧
    ([(0x104, 0, 0x200), (0x100, 0, 0x204), (0x100, 0xF00000, 0x200), (0x100, 0xA0000000, 0x200), (0x100, 0, 0xFE8), (0xFE0, 0, 0x200), (0x100, 0, 0x4000200), (0x100, 0, 0x3000200),
      (0x100, 0, 0x0)].map fun x => causeOf (.mma abcF) (withHandler (blockS (matrixS [chain30] (abc x.1 x.2.1 x.2.2))))) =
      [some 0x62, some 0x62, some 0x62, some 0x33, some 0x62, some 0x30, some 0x63, none, some 0x61] := by decide +kernel

/-- A step of the chain that has landed; one whose record stands at A 0x100; one that consumed slot 1 of stream 3. -/
def stepFmt : Format := blockFields 0x100 0
def stepCmd (landed : Option Nat) (src st : Option Nat) (units : List Nat) : Cmd := { mkCmd s0 me 6 (.mma 30 0 0 0 2 stepFmt src st) true [] with landed, units }
def stepS (c : Cmd) : State := cmdS c (matrixS [{ chain30 with left := 1 }] subbed)
theorem witness_ChainSteps_retire : ([stepCmd (some 0) (some 0x100) none [], stepCmd (some 0) none (some 3) [1], stepCmd none (some 0x100) none []].all fun c => let s := stepS c
    s.chainFirst 0 30 && s.startable c && decide (c.status = 0)) = true ∧ ((stepS (stepCmd none none (some 3) [])).wg 1).subs.find? (fun y => y.stream = 3) = some (sub3 false) := by
  decide +kernel
theorem witness_ChainSteps_step : let c := stepCmd none (some 0x100) none []; let s := stepS c
    (∃ k ∈ (s.core 0).chains, k.id = 30 ∧ k.granted = true) ∧ s.slotHeld 40 0 0 0 8 false = false ∧ s.stepRecord 40 c = some (0x100, none) ∧
    s.rangeHeld 40 40 c (byteRange .a 0x100 stepFmt.record false) = false ∧ s.runOn 0 0 = false ∧ (s.core 0).flips = [] ∧ (s.core 0).slotTag = [] ∧
    (s.asp 1).aPoison = [] := by decide +kernel
theorem witness_ChainSteps_exact : let ps : List (Bool × Nat × Int) := [(false, 3, 0), (true, 1, 38), (false, 1, -44 + 45)]
    ∀ x ∈ ps, 0 < x.2.1 ∧ (0 : Int) - 44 ≤ x.2.2 ∧ ∀ y ∈ ps, topOf y ≤ x.2.2 + 38 := by decide +kernel
theorem witness_ChainSteps_commit : let k := { chain30 with mend := some 40, sums := [(256, (1 : Int))] }; let s := cmdS (mkCmd s0 me 6 (.mend 30) true []) (matrixS [k])
    (∀ y ∈ (s.core 0).chains, s.abandoned y = false ∨ y.left ≠ 0) ∧ (s.core 0).chains = [] ++ k :: [] ∧ s.abandoned k = false ∧ k.mend = some 40 ∧ k.left = 0 ∧
    (tfind s.cmds 40).isSome = true ∧ tsorted (s.core 0).c = true ∧ tsorted k.sums = true := by decide +kernel
theorem witness_ChainSteps_abandoned : let k := { chain30 with dead := true }; let s := matrixS [chain30, k]
    (s.core 0).chains.find? (fun y => s.abandoned y && decide (y.left = 0)) = some k := by decide +kernel

/-- CREAD of a row at each end of the window, and at each first row outside. -/
theorem witness_Windows_cread : ([2, 5].all fun row => let s := cLanes row; let f := fld 40 0 1 0x1E0 0; let b := (wOf s).begun; let c := ctxOf 0xB4 f s (wOf s)
      readyB 0xB4 f s (wOf s) && c.lanes.all fun x => let e := c.valA b x % 2 ^ 32 * 128 + c.valB b x % 2 ^ 32
        decide (b.cwb ≤ c.valA b x % 2 ^ 32) && decide (c.valA b x % 2 ^ 32 < b.cwl) && decide (c.valB b x % 2 ^ 32 ≤ 127) && !s.lockedC 0 (c.valA b x % 2 ^ 32) &&
        decide ((s.core 0).tagC e = none) && decide (b.tr = []) && decide (b.accs = [])) = true ∧
    ([1, 6].all fun row => let s := withP0 1 (cLanes row); let f := guarded (fld 40 0 1 0x1E0 0)
      readyB 0xB4 f s (wOf s) && decide ((ctxOf 0xB4 f s (wOf s)).lanes.map (·.1) = [0])) = true := by decide +kernel
def cclrF : Fields := fld 0 0x102 0x104 0 0
theorem witness_Windows_cclr (h : Obligations.Windows) : (∃ t, exec (.cclr cclrF) (matrixS [] (abc 2 0 0)) = .next t) ∧
    Waits (.cclr cclrF) 0xB5 cclrF (matrixS [] (abc 2 4 0)) (wOf (matrixS [] (abc 2 4 0))) (.cclr 2 4 false) := by
  have ⟨t, _, e, _⟩ := (h.1.2.2.1 cclrF (matrixS [] (abc 2 0 0)) (wOf (matrixS [] (abc 2 0 0))) (0, 0) (readyUni_of (by decide +kernel))).1 (by decide +kernel)
  have hw := ((h.1.2.2.1 cclrF (matrixS [] (abc 2 4 0)) (wOf (matrixS [] (abc 2 4 0))) (0, 0) (readyUni_of (by decide +kernel))).2 (by decide +kernel)).2 (by decide +kernel)
  have e1 : (ctxOf 0xB5 cclrF (matrixS [] (abc 2 4 0)) (wOf (matrixS [] (abc 2 4 0)))).valA (wOf (matrixS [] (abc 2 4 0))).begun (0, 0) = 2 := by decide +kernel
  have e2 : (ctxOf 0xB5 cclrF (matrixS [] (abc 2 4 0)) (wOf (matrixS [] (abc 2 4 0)))).valB (wOf (matrixS [] (abc 2 4 0))).begun (0, 0) = 4 := by decide +kernel
  rw [e1, e2] at hw
  exact ⟨⟨t, e⟩, hw⟩
theorem witness_Windows_checks : ([(1, 1), (2, 5), (5, 1)].map fun x => causeOf (.cclr cclrF) (withHandler (matrixS [{ chain30 with lo := 5 }] (abc x.1 x.2 0)))) =
    [some 0x32, some 0x32, some 0x41] := by decide +kernel
theorem witness_Windows_cleared : let s := waiting (.cclr 2 2 true) (matrixS []); let u := waiting (.cclr 2 2 false) (matrixS [])
    Resumed 0xB5 cclrF s (wOf s) ∧ (ctxOf 0xB5 cclrF s (wOf s)).lanes = [(0, 0)] ∧ (wOf s).wait = some (.cclr 2 2 true) ∧
    u.warp? me = some (wOf u) ∧ (wOf u).wait = some (.cclr 2 2 false) ∧ tsorted (u.core 0).c = true :=
  ⟨resumed_of (by decide +kernel), by decide +kernel, by decide +kernel, by decide +kernel, by decide +kernel, by decide +kernel⟩
/-- The window 0 to 16 of warp 0; and a window that ends past the rows of the workgroup. -/
theorem witness_Windows_mwin : let s := matrixS [] (abc 0 0 16); let f := fld 0 0x102 0x104 0x106 0; let g := s.wg 1
    uniB 0xB3 f s = true ∧ s.cur.wix = 0 ∧ (g.warps[0]?.map (·.retired)) = some false ∧ g.warps.length = 1 ∧ 16 ≤ g.crows ∧ (s.core g.core).chains = [] ∧
    uniB 0xB3 f (abc 0 0 17) = true := by decide +kernel
theorem witness_Windows_baton : let f := fld 0 0 0 0 0; let p := fld 0 0x1DF 0 0 1
    (uniB 0xB6 f (matrixS []) && uniB 0xB6 f s0 && uniB 0xB6 f (withWg (fun g => { g with baton := { holder := some 3, reserved := none } }))) = true ∧
    (s0.wg 1).baton.holder = none ∧ (s0.wg 1).baton.reserved = none ∧ (wOf s0).stopped = false ∧ ((s0.wg 1).warps.map (·.wait)) = [none] ∧
    (uniB 0xB6 p (matrixS []) && uniB 0xB6 p s0 && uniB 0xB6 p (matrixS [chain30])) = true ∧ ((matrixS [chain30]).openChain 0 me).isSome = true ∧
    (matrixS []).openChain 0 me = none ∧ (BitVec.ofNat 32 ((ctxOf 0xB6 p s0 (wOf s0)).valA (wOf s0).begun (0, 0))).toInt = -1 := by decide +kernel
theorem witness_Windows_taken : let s := waiting .baton (matrixS []); let g := (waiting .baton).wg 1
    Resumed 0xB6 (fld 0 0 0 0 0) s (wOf s) ∧ (wOf s).wait = some .baton ∧ (s.wg 1).baton.holder = some 0 ∧ g.baton.holder = none ∧
    g.warps.map (fun v => (v.wait, v.stopped)) = [(some .baton, false)] ∧ g.baton.reserved = none :=
  ⟨resumed_of (by decide +kernel), by decide +kernel, by decide +kernel, by decide +kernel, by decide +kernel, by decide +kernel⟩

theorem witness_Slots_wstore (h : Obligations.Slots) : ∃ t, exec (.wstore abcF) (abc 0x10100 0x05001500 2) = .next t := by
  have ⟨_, _, t, _, e, _⟩ := (h.1.1 abcF (abc 0x10100 0x05001500 2) (wOf (abc 0x10100 0x05001500 2)) (0, 0) (readyUni_of (by decide +kernel))).2 (by decide +kernel)
    ⟨by decide +kernel, by decide +kernel, by decide +kernel⟩
  exact ⟨t, e⟩
theorem witness_Slots_wscrub (h : Obligations.Slots) : ∃ t, exec (.wscrubCheck abcF) (abc 0x05001500 2 0x100) = .next t := by
  have ⟨_, _, t, _, e, _⟩ := (h.1.2.1 _ _ abcF (abc 0x05001500 2 0x100) (wOf (abc 0x05001500 2 0x100)) (0, 0) (.inl rfl) (readyUni_of (by decide +kernel))).2 (by decide +kernel)
    ⟨by decide +kernel, by decide +kernel, by decide +kernel⟩
  exact ⟨t, e⟩
/-- The last slot of a mat, one past it, and addresses that are none. -/
theorem witness_Slots_checks : ([(0x05EFFA00, 1), (0x05EFFA00, 2), (0x05001501, 1), (0x05F00000, 1), (0xA0000000, 1)].map fun x =>
      causeOf (.wstore abcF) (withHandler (abc 0x10100 x.1 x.2))) = [none, some 0x67, some 0x67, some 0x67, some 0x33] ∧
    causeOf (.wstore abcF) (withHandler (abc (2 ^ 57) 0 1)) = some 0x20 ∧ causeOf (.wscrubCheck abcF) (withHandler (abc 0 1 0xFE8)) = some 0x30 ∧
    causeOf (.wscrubCheck abcF) (withHandler (abc 0 1 0x110)) = some 0x31 := by decide +kernel
/-- V0 is a W address. -/
def wLane (a : Nat) : State := withP0 1 (withV 1 (fun _ _ => a))
def ldwF : Fields := guarded (fld 40 0 0x1E0 0 0 (memExt 4))
/-- Band, column attic and row attic; with no run on the mat, and with one. -/
def runCmd (done stop : Nat) (granted : Bool := true) : Cmd := { mkCmd s0 me 7 (.grun 5 2 0x800 3 10 5 20 2 done stop) true [] with granted }
theorem witness_Slots_ldw : ∀ a ∈ [0x05001500, 0x05EFFEE0, 0x05000FA0, 0x05FBF000], let s := wLane a; let u := cmdS (runCmd 0 0) s; let c := ctxOf 0x85 ldwF s (wOf s); let b := (wOf s).begun
    readyB 0x85 ldwF s (wOf s) = true ∧ readyB 0x85 ldwF u (wOf u) = true ∧ c.lanes.map (·.1) = [0] ∧ (∀ x ∈ c.lanes, c.formed b 32 true x = a) ∧ b.accs = [] ∧
    wReadable s 0 b a ∧ wReadable u 0 b a ∧ s.runOn 0 5 = false ∧ u.runOn 0 5 = true ∧
    ∀ j < 32, cellSound (s.core 0) s.clock.clk 5 (a / 2 ^ 12 % 2 ^ 12) (a % 2 ^ 12 + j) := by
  unfold wReadable cellSound slotClean; decide +kernel
/-- Misaligned, past the last mat, past the attics, in the hole between them, and in a slot that is locked. -/
theorem witness_Slots_ldwTraps : ([0x05001501, 0xA0000000, 0x05FC0000, 0x05000FC0, 0x05F00F00].all fun a => readyB 0x85 ldwF (wLane a) (wOf (wLane a))) = true ∧
    lockHits .w (5 * 11520 + 4) (5 * 11520 + 4 + 1) false [{ space := .w, lo := 5 * 11520 + 4, hi := 5 * 11520 + 5, dest := true, seq := 0 }] = true := by decide +kernel
def wstoreCmd (n : Nat) (cancel : Bool := false) (prov : Option Nat := none) (tr : List (Nat × TrOutcome) := []) : Cmd :=
  { mkCmd s0 me 5 (.wstore 0x10100 5 4 n) true [] with cancel, prov, tr }
theorem witness_Slots_write : ([wstoreCmd 1, wstoreCmd 2, wstoreCmd 1 false none [(1, .refused)], wstoreCmd 1 false (some 0x101) [(1, .refused)]].all fun c => let s := cmdS c
      s.startable c && decide (c.walk = none) && !s.slotHeld 40 0 5 4 5 true && !s.earlierOnMats 0 40 [5] &&
      !s.rangeHeld 40 40 c [(.g, 0x10100, 0x10100 + 136, false), (.w, 5 * 11520 + 4, 5 * 11520 + 5, true)] &&
      decide (s.cmdRead 40 c .g 0x10100 136 = if c.tr = [] then .got (List.replicate 136 0) none s else .fail s)) = true ∧
    tsorted (s0.core 0).band = true ∧ tsorted (s0.core 0).flips = true ∧ tsorted (s0.core 0).slotTag = true ∧
    (wstoreCmd 0).since < ({ s0 with clock := { s0.clock with clk := 1 } } : State).clock.clk ∧ (wstoreCmd 2 true).cancel = true := by decide +kernel
def wscrubCmd (fix : Bool) (n nread : Nat) : Cmd := mkCmd s0 me 5 (.wscrub fix 5 4 n 0x300 nread 0 0 0 0xFFFFFFFF 0) true []
/-- A clean slot, one with 4 wrong bits, one with 5, and one with poison; then the report. -/
theorem witness_Slots_scrub : ([0, 0xF, 0x1F].all fun flips => [false, true].all fun fix => let c := wscrubCmd fix 1 0
      let s := (cmdS c).modCore 0 fun k => { k with flips := if flips = 0 then [] else [(5 * 11520 + 4, BitVec.ofNat 1280 flips)] }
      s.startable c && !s.slotHeld 40 0 5 4 5 fix && !s.earlierOnMats 0 40 [5] && !s.rangeHeld 40 40 c [(.w, 5 * 11520 + 4, 5 * 11520 + 5, fix)] && tsorted (s.core 0).flips) = true ∧
    (let c := wscrubCmd true 1 1; (cmdS c).startable c && !(cmdS c).rangeHeld 40 40 c [(.a, 0x300, 0x320, true)]) = true := by decide +kernel

/-- A header at A 0x800: rows 3 to 12, columns 5 to 24, `n` words; the workgroup has mats 4 to 9. -/
def header (n : Nat) (rowN : Nat := 10) : Nat := 3 + rowN * 2 ^ 12 + 5 * 2 ^ 24 + 20 * 2 ^ 36 + n * 2 ^ 48
def gated (h : Nat) (w0 : Nat) (s : State) : State := withWg (fun g => { (g.aPut 0x800 (toBytes 8 h)).aPut 0x808 (toBytes 8 w0) with gmat0 := 4, gmatN := 6 }) s
def grunS (m0 k : Nat) (h : Nat := header 2) : State := gated h 0 (abc m0 k 0x800)
theorem witness_Gates_grun (h : Obligations.Gates) : ∃ t, exec (.grun abcF) (grunS 4 2) = .next t := by
  have ⟨_, _, t, _, e, _⟩ := (((h.1.1 abcF (grunS 4 2) (wOf (grunS 4 2)) (0, 0) (readyUni_of (by decide +kernel))).2 (by decide +kernel)).2 (by decide +kernel)).2.2
    (by decide +kernel) (by decide +kernel) ⟨by decide +kernel, by decide +kernel, by decide +kernel⟩
  exact ⟨t, e⟩
theorem witness_Gates_checks : ([(159, 2), (4, 7), (3, 1), (4, 0), (4, 9), (2, 9)].map fun x => causeOf (.grun abcF) (withHandler (grunS x.1 x.2))) =
      [some 0x33, some 0x71, some 0x71, some 0x71, some 0x71, some 0x71] ∧
    ([(header 0, 0x800), (header 2 3838, 0x800), (header 2 0, 0x800), (header 256, 0x800), (header 2, 0x804), (header 2, 0xFF9)].map fun x =>
      causeOf (.grun abcF) (withHandler (gated x.1 0 (abc 4 2 x.2)))) = [some 0x70, some 0x70, some 0x70, some 0x30, some 0x31, some 0x31] := by decide +kernel
/-- A trap that a gate command has left for the next GRUN. -/
theorem witness_Gates_deferred : let d : Deferred := { cause := .atticSpent, cmd := 9, status := 0, token := none }; let s := withW (fun w => { w with defers := [d] }) (grunS 4 2)
    uniB 0xC0 abcF s = true ∧ lowestDefer ((wOf s).defers.filter fun y => deferOp y.cause = 0xC0) = some d ∧ (wOf s).releasedA = true := by decide +kernel
theorem witness_Gates_gstop : let f := fld 0 0x183 0 0 0; let run := cmdS (runCmd 0 0); let stale := { run with cmds := [] }
    (uniB 0xC1 f run && uniB 0xC1 f (cmdS { runCmd 0 0 with status := 1 }) && uniB 0xC1 f (cmdS copyCmd) && uniB 0xC1 f stale) = true ∧
    (namedCmd f run (wOf run) 0).map (·.1) = some 40 ∧ (tfind run.cmds 40).map (·.body) = some (runCmd 0 0).body ∧ (runCmd 0 0).granted = true ∧
    namedCmd f stale (wOf stale) 0 = none := by decide +kernel
theorem witness_Gates_lines (h : Obligations.Gates) : (∃ t, exec (.gration (abcF 0 0)) (gated 0 0 (abc 4 2 7)) = .next t) ∧
    (∃ t, exec (.gread abcF) (abc 0x05003005 0x300 70) = .next t) ∧ (∃ t, exec (.gwrite abcF) (gated 0 0 (abc 0x05F03005 0x300 70)) = .next t) ∧
    (∃ t, exec (.gmap (fld 0x183 0x102 0x104 0 0)) (abc 5 0x300 0) = .next t) ∧ ∃ t, exec (.gwear (fld 0x183 0x102 0x104 0 0)) (abc 5 0 0) = .next t := by
  have ⟨t1, _, e1, _⟩ := ((h.2.1 (abcF 0 0) (gated 0 0 (abc 4 2 7)) (wOf (gated 0 0 (abc 4 2 7))) (0, 0) (readyUni_of (by decide +kernel))).2 (by decide +kernel)).2 (by decide +kernel)
    ⟨by decide +kernel, by decide +kernel, by decide +kernel⟩
  have ⟨_, _, t2, _, e2, _⟩ := (h.2.2.1 abcF (abc 0x05003005 0x300 70) (wOf (abc 0x05003005 0x300 70)) (0, 0) (readyUni_of (by decide +kernel))).2 (by decide +kernel)
    ⟨by decide +kernel, by decide +kernel, by decide +kernel⟩
  have ⟨_, _, t3, _, e3, _⟩ := ((h.2.2.2.1 abcF (gated 0 0 (abc 0x05F03005 0x300 70)) (wOf (gated 0 0 (abc 0x05F03005 0x300 70))) (0, 0) (readyUni_of (by decide +kernel))).2 (by decide +kernel)).2
    (by decide +kernel) ⟨by decide +kernel, by decide +kernel, by decide +kernel⟩
  have ⟨_, _, t4, _, e4, _⟩ := ((h.2.2.2.2 _ _ _ (fld 0x183 0x102 0x104 0 0) (abc 5 0x300 0) (wOf (abc 5 0x300 0)) (0, 0) (.inl rfl) (readyUni_of (by decide +kernel))).2 (by decide +kernel)).2
    (by decide +kernel) ⟨by decide +kernel, by decide +kernel, by decide +kernel⟩
  have ⟨_, _, t5, _, e5, _⟩ := ((h.2.2.2.2 _ _ _ (fld 0x183 0x102 0x104 0 0) (abc 5 0 0) (wOf (abc 5 0 0)) (0, 0) (.inr rfl) (readyUni_of (by decide +kernel))).2 (by decide +kernel)).2
    (by decide +kernel) ⟨by decide +kernel, by decide +kernel, by decide +kernel⟩
  exact ⟨⟨t1, e1⟩, ⟨t2, e2⟩, ⟨t3, e3⟩, ⟨t4, e4⟩, ⟨t5, e5⟩⟩
theorem witness_Gates_lineChecks : ([(0x05000000, 4033), (0x05FBF000, 3841), (0x05FC0000, 0), (0x05F00F00, 0), (0xA0000000, 0)].map fun x =>
      causeOf (.gread abcF) (withHandler (abc x.1 0 x.2))) = [some 0x75, some 0x75, some 0x76, some 0x76, some 0x33] ∧
    ([(0x05EFF000, 1), (0x05FC0000, 1), (0x05F00001, 3840), (0x0AF00000, 1)].map fun x => causeOf (.gwrite abcF) (withHandler (gated 0 0 (abc x.1 0 x.2)))) =
      [some 0x75, some 0x75, some 0x75, some 0x71] ∧
    causeOf (.gmap (fld 0x183 0x102 0x104 0 0)) (withHandler (abc 160 0 0)) = some 0x33 ∧ causeOf (.gwear (fld 0x183 0x102 0x104 0 0)) (withHandler (abc 5 0x20 0)) = some 0x30 := by
  decide +kernel

/-- A gate word: axis, operation, three inputs, output. -/
def gate (axis op i0 i1 i2 out : Nat) : Nat := axis * 2 ^ 63 + op * 2 ^ 59 + i0 * 2 ^ 44 + i1 * 2 ^ 32 + i2 * 2 ^ 20 + out * 2 ^ 8
def runS (c : Cmd) (w0 : Nat) : State := gated (header 2) w0 (cmdS c)
theorem atticSound_delivered : atticSound Attic.delivered := by unfold atticSound; decide +kernel
theorem gateCalm_runS (c : Cmd) (w0 : Nat) : GateCalm (runS c w0) 0 [5, 6] where
  maps := fun m hm axis ha => by
    have e : (runS c w0).attic 0 m axis = Attic.delivered := by
      rcases List.mem_pair.1 hm with rfl | rfl <;> obtain _ | _ | _ := axis <;> rfl
    rw [e]; exact ⟨atticSound_delivered, by decide⟩
  cells := ⟨by rfl, by show (0 : Int) < 0 + 3000000000; decide, fun e he => nomatch he⟩
  reads := fun r hr => nomatch hr
/-- A run before its first word: a gate, one on an output that is no attic line, one that is reserved, the end mark; and one that is to stop. -/
theorem witness_GateSteps_run : ([runCmd 0 0, runCmd 2 0, runCmd 0 1, runCmd 0 2].all fun c => let s := runS c (gate 0 3 5 0xF10 0 0xF20)
      s.startable c && c.granted && !s.earlierOnMats 0 40 [5, 6] && !s.rangeHeld 40 40 c [(.a, 0x808, 0x810, false)] && decide (c.prov = none) && decide (c.status = 0)) = true ∧
    ([gate 0 3 5 0xF10 0 0xF20, gate 0 3 5 0xFC0 0 0xF20, gate 0 3 5 0xF10 1 0xF20, gate 0 10 0 0 0 0, 15 * 2 ^ 59].map fun w0 => ((runS (runCmd 0 0) w0).asp 1).aRead 0x808 8) =
      [gate 0 3 5 0xF10 0 0xF20, gate 0 3 5 0xFC0 0 0xF20, gate 0 3 5 0xF10 1 0xF20, gate 0 10 0 0 0 0, 15 * 2 ^ 59] ∧
    ([5, 6].any fun m => ((runS (runCmd 0 0) 0).attic 0 m 0).spent 0x20) = false ∧ 3 + 10 ≤ 0xF00 ∧ 5 + 20 ≤ 0xF00 := by decide +kernel
/-- An output line that is spent. -/
theorem witness_GateSteps_spent : ({ Attic.delivered with wear := [(0x20, 2 ^ 60)], free := [] } : Attic).spent 0x20 = true := by decide +kernel
def lineCmd (body : CmdBody) : Cmd := mkCmd s0 me 7 body true []
theorem witness_GateSteps_lines : ([.gwrite 0 5 0 3 0x300 70, .gwrite 1 5 191 0 0x300 3840, .gwrite 0 5 0 3 0x300 0, .gration 3 5 2 7, .gread 0 5 3 5 0x300 70, .gread 0 5 3 5 0x300 0, .gsnap false 0 5 0x300,
      .gsnap true 1 5 0].all fun b => let c := lineCmd b; let s := cmdS c
      s.startable c && !s.earlierOnMats 0 40 [5, 6] && !s.rangeHeld 40 40 c [(.a, 0, 0x1000, true)] && !s.runOn 0 5 && decide ((s.core 0).reads = []) && decide ((s.core 0).slotTag = []) &&
      !(s.attic 0 5 0).spent 191 && decide ((s.attic 0 5 0).poison = []) && decide ((s.asp 1).aPoison = [])) = true ∧ (cmdS (runCmd 0 0)).runOn 0 5 = true := by decide +kernel
theorem witness_GateSteps_retention : ([(0, 3000000000), (1, 3000000000)].map fun x => let s := { (s0.modCore 0 fun k => { k with attic := [(9, { bit := true, time := x.1, lost := false })] }) with
      clock := { s0.clock with clk := x.2 } }
    (decide ((((s.core 0).cell 9).time + 3000000000 : Int) ≤ s.clock.clk), ((s.core 0).cell 9).lost)) = [(true, false), (false, false)] := by decide +kernel

def treeF (m : Nat := 0) : Fields := fld 0x183 0x102 0x104 0 m
theorem witness_Trees_issue (h : Obligations.Trees) : (∃ t, exec (.treecfgOff (fld 0x183 0x102 0 0 1)) (abc 63 0 0) = .next t) ∧ (∃ t, exec (.treesetSet abcF) (abc 3 5 9) = .next t) ∧
    (∃ t, exec (.treeupd abcF) (abc 3 0x100 2) = .next t) ∧ (∃ t, exec (.treedraw abcF) (abc 3 (0x100 + 7 * 2 ^ 32) 2) = .next t) ∧
    (∃ t, exec (.treesumRoot treeF) (abc 3 0x100 0) = .next t) ∧ ∃ t, exec (.treeclr (fld 0x183 0x102 0 0 0)) (abc 3 0 0) = .next t := by
  have ⟨_, _, t1, _, e1, _⟩ := (h.1.2.1 (fld 0x183 0x102 0 0 1) (abc 63 0 0) (wOf (abc 63 0 0)) (0, 0) (readyUni_of (by decide +kernel))).1.2 (by decide +kernel)
    ⟨by decide +kernel, by decide +kernel, by decide +kernel⟩
  have ⟨_, _, t2, _, e2, _⟩ := (h.1.2.2.1 abcF (abc 3 5 9) (wOf (abc 3 5 9)) (0, 0) (readyUni_of (by decide +kernel))).1.2 (by decide +kernel)
    ⟨by decide +kernel, by decide +kernel, by decide +kernel⟩
  have ⟨_, _, t3, _, e3, _⟩ := (h.1.2.2.2.1 abcF (abc 3 0x100 2) (wOf (abc 3 0x100 2)) (0, 0) (readyUni_of (by decide +kernel))).2 (by decide +kernel)
    ⟨by decide +kernel, by decide +kernel, by decide +kernel⟩
  have ⟨_, _, t4, _, e4, _⟩ := (h.1.2.2.2.2.1 abcF (abc 3 (0x100 + 7 * 2 ^ 32) 2) (wOf (abc 3 (0x100 + 7 * 2 ^ 32) 2)) (0, 0) (readyUni_of (by decide +kernel))).2 (by decide +kernel)
    ⟨by decide +kernel, by decide +kernel, by decide +kernel⟩
  have ⟨_, _, t5, _, e5, _⟩ := (h.1.2.2.2.2.2.1 treeF (abc 3 0x100 0) (wOf (abc 3 0x100 0)) (0, 0) (readyUni_of (by decide +kernel))).1.2 (by decide +kernel)
    ⟨by decide +kernel, by decide +kernel, by decide +kernel⟩
  have ⟨_, _, t6, _, e6, _⟩ := (h.1.2.2.2.2.2.2 (fld 0x183 0x102 0 0 0) (abc 3 0 0) (wOf (abc 3 0 0)) (0, 0) (readyUni_of (by decide +kernel))).2 (by decide +kernel)
    ⟨by decide +kernel, by decide +kernel, by decide +kernel⟩
  exact ⟨⟨t1, e1⟩, ⟨t2, e2⟩, ⟨t3, e3⟩, ⟨t4, e4⟩, ⟨t5, e5⟩, ⟨t6, e6⟩⟩
/-- A configuration record at A 0x100: base, LOGN and flags, BETA. -/
def treeRecS (base flags : Nat) (id a : Nat := 0x100) : State := withWg (fun g => g.aPut 0x100 (toBytes 64 (base + flags * 2 ^ 64))) (abc (if id = 0x100 then 3 else id) a 0)
theorem witness_Trees_configure (h : Obligations.Trees) : ∃ t, exec (.treecfgOn treeF) (treeRecS 0x200000 2) = .next t := by
  have ⟨_, _, t, _, e, _⟩ := ((h.1.1 treeF (treeRecS 0x200000 2) (wOf (treeRecS 0x200000 2)) (0, 0) (readyUni_of (by decide +kernel)) (by decide +kernel)).2 (by decide +kernel)).2 (by decide +kernel)
    ⟨by decide +kernel, by decide +kernel, by decide +kernel⟩
  exact ⟨t, e⟩
theorem witness_Trees_checks : ([(0x200000, 0), (0x200000, 27), (0x200000, 26), (0x200800, 2), (2 ^ 57, 2)].map fun x => causeOf (.treecfgOn treeF) (withHandler (treeRecS x.1 x.2))) =
      [some 0x89, some 0x89, none, some 0x89, some 0x20] ∧
    ([(64, 0x100), (3, 0x110), (3, 0xFE0)].map fun x => causeOf (.treecfgOn treeF) (withHandler (treeRecS 0x200000 2 x.1 x.2))) = [some 0x88, some 0x31, some 0x30] ∧
    ([0, 4097].map fun n => causeOf (.treeupd abcF) (withHandler (abc 3 0 n))) = [some 0x8B, some 0x8B] ∧
    ([0, 1025].map fun n => causeOf (.treedraw abcF) (withHandler (abc 3 0 n))) = [some 0x8B, some 0x8B] := by decide +kernel

/-- Bytes of memory. -/
def withMem (addr n v : Nat) (s : State := s0) : State := (List.range n).foldl (fun s i => s.putByte (addr + i) (BitVec.ofNat 8 (v / 256 ^ i))) s
/-- Partition 0 with tables that lead addresses 0x200000 to 0x3FFFFF to themselves, readable and writable. -/
def tabled (s : State := s0) : State :=
  withMem 0x28008 8 (0x3F + 0x200000) (withMem 0x20000 8 (1 + 0x28000) (withMem 0x18000 8 (1 + 0x20000) { s with parts := [(0, { part0 with tmask := 0xFF })] }))
/-- Tree 3 with two leaves in the second of those pages; without any priority; and a command on it. -/
def tree3 (leaves : Table DWord := [(1, mkLeaf 5 7 true)]) : Tree :=
  { part := 0, base := 0x200000, logn := 1, beta := 0x3F000000, leaves, serial := 77, stale := 5, nvalid := 1, tainted := false, poison := none }
def treeCmd (op : TreeOp) (cancel : Bool := false) (landed : Option Nat := none) : Cmd := { mkCmd s0 me 8 (.tree 3 op [] 1 0) true [] with cancel, landed, after := [] }
def treeS (c : Cmd) (trees : Table Tree := [(3, tree3)]) : State := { tabled with trees, cmds := [(40, c)] }
theorem acceptable_treeS {op : TreeOp} {trees : Table Tree} (h : let c := treeCmd op; let s := treeS c trees
    (s.startable c && !s.rangeHeld 40 40 c (match op.area with | some (a, n, d) => byteRange .a a n d | none => [])) = true) :
    Acceptable (treeS (treeCmd op) trees) 40 (treeCmd op) 3 op := by
  simp only [Bool.and_eq_true, Bool.not_eq_true'] at h
  exact ⟨rfl, ⟨_, _, _, rfl⟩, ⟨rfl, rfl, rfl, rfl⟩, ⟨h.1, fun x hx ho => absurd (List.mem_singleton.1 hx ▸ rfl) ho⟩,
    fun x hx hl => absurd (List.mem_singleton.1 hx ▸ rfl : x.1 = 40) (Nat.ne_of_lt hl), h.2⟩
theorem witness_Trees_acceptable : Acceptable (treeS (treeCmd (.set 1 9))) 40 (treeCmd (.set 1 9)) 3 (.set 1 9) ∧
    Acceptable (treeS (treeCmd (.draw 0x100 9 2))) 40 (treeCmd (.draw 0x100 9 2)) 3 (.draw 0x100 9 2) ∧
    Acceptable (treeS (treeCmd .clr) []) 40 (treeCmd .clr) 3 .clr :=
  ⟨acceptable_treeS (by decide +kernel), acceptable_treeS (by decide +kernel), acceptable_treeS (by decide +kernel)⟩
/-- The image of the tree is mapped: no piece of it crosses a page. -/
theorem treeMapped_treeS (c : Cmd) (hp : c.part = 0) (ht : c.tr = []) : TreeMapped (treeS c) c tree3 := by
  intro write a n ha hn
  obtain ⟨i, rfl⟩ := Nat.exists_eq_add_of_le ha
  have hi : i + n ≤ 48 := by have : tree3.base + 24 * 2 ^ tree3.logn = 0x200000 + 48 := rfl; have : tree3.base = 0x200000 := rfl; omega
  have w : ∀ i < 49, (treeS c).walk 0 (0x200000 + i) = .page 21 (0x3F + 0x200000) := by
    show ∀ i < 49, (treeS copyCmd).walk 0 (0x200000 + i) = _
    decide +kernel
  rw [hp, ht]
  by_cases h0 : n = 0
  · exact ⟨[], by simp [State.walkSegs, h0], rfl⟩
  · refine ⟨[((transOf 21 (0x3F + 0x200000) (0x200000 + i)).pa, n, none)], ?_, ?_⟩
    · have e1 : ¬(2 ^ 57 ≤ 0x200000 + i) := by omega
      have e2 : min n (65536 - (0x200000 + i) % 65536) = n := by omega
      have hw := w i (by omega)
      have hport : ∀ pa, paSpace pa = 0 → (treeS c).portDown pa = false := fun pa hpa => by simp [State.portDown, hpa]
      have hpa : paSpace (transOf 21 (0x3F + 0x200000) (0x200000 + i)).pa = 0 := by
        have : ∀ i < 49, paSpace (transOf 21 (0x3F + 0x200000) (0x200000 + i)).pa = 0 := by decide +kernel
        exact this i (by omega)
      have hr : pteRd (0x3F + 0x200000) = true ∧ pteWr (0x3F + 0x200000) = true ∧ pteSlot (0x3F + 0x200000) = none := by decide +kernel
      show (treeS c).walkSegs 0 [] write (n / 65536 + 2) (0x200000 + i) n = _
      rw [State.walkSegs]
      simp only [h0, if_false, List.any_nil, Bool.or_false, decide_eq_true_eq, ge_iff_le, e1, hw, hr, hport _ hpa, e2, Nat.sub_self, Bool.not_true, Bool.and_false, Bool.or_self, Bool.false_eq_true]
      cases n / 65536 + 1 <;> simp [State.walkSegs]
    · have hg : (treeS c).gmeta.poison = [] := rfl
      simp [State.segRead, State.poisonAt, hg, lowerTag]
theorem witness_Trees_sound : TreeSound (treeS (treeCmd (.set 1 9))) (treeCmd (.set 1 9)) 3 tree3 ∧ (treeCmd (.set 1 9)).prov = none :=
  ⟨⟨rfl, ⟨_, rfl, by decide⟩, rfl, ⟨rfl, rfl⟩, ⟨by decide, by decide⟩, by decide, treeMapped_treeS _ rfl rfl⟩, rfl⟩
/-- Leaf numbers at the end of the tree and past it, a tree without priorities, slots that are another's or empty, completion. -/
theorem witness_Trees_outcomes : 1 < 2 ^ tree3.logn ∧ 2 ^ tree3.logn ≤ 2 ∧ leavesBelow tree3 2 ≠ 0 ∧ leavesBelow (tree3 []) 2 = 0 ∧
    ((treeS (treeCmd (.upd 0x100 2))).asp 1).aTag 0x100 64 = none ∧ tfind (treeS (treeCmd .clr) []).trees 3 = none ∧
    (({ part0 with tmask := 3 } : Partition).tmask.getLsbD 3) = false ∧ (part0.tmask.getLsbD 1) = true ∧
    ([treeCmd .clr true, treeCmd .clr false (some 0), treeCmd .clr true (some 0), { treeCmd .clr false (some 0) with out := [{ unit := 0, key := none, pa := 0, data := [], tag := none }] }].map
      fun c => (c.landed.isSome, c.cancel, decide (c.out = []))) = [(false, true, true), (true, false, true), (true, true, true), (true, false, false)] := by decide +kernel

theorem witness_Work_levels (h : Obligations.Work) : (∃ t, exec (.launchRun (fld 0x183 0x102 0 0 0)) (abc 0x10100 0 0) = .next t) ∧
    (∃ t, exec (.launchQprio (fld 0x183 0x102 0x104 0 4)) (abc 63 7 0) = .next t) ∧ (∃ t, exec (.lvlcancel (fld 0x183 0x102 0 0 0)) (abc 5 0 0) = .next t) ∧
    (∃ t, exec (.cntrd (fld 0x110 0x102 0 0 0)) (launchS placedRec (abc 0x00050001 0 0)) = .next t) ∧ ∃ t, exec (.runrec (fld 0x183 0x102 0 0 0)) (abc 0x10140 0 0) = .next t := by
  have ⟨_, _, t1, _, e1, _⟩ := (h.1.1 _ _ (fld 0x183 0x102 0 0 0) (abc 0x10100 0 0) (wOf (abc 0x10100 0 0)) (0, 0) (.inl rfl) (readyUni_of (by decide +kernel))).2 (by decide +kernel)
    ⟨by decide +kernel, by decide +kernel, by decide +kernel⟩
  have ⟨_, _, t2, _, e2, _⟩ := (h.1.2.1 (fld 0x183 0x102 0x104 0 4) (abc 63 7 0) (wOf (abc 63 7 0)) (0, 0) (readyUni_of (by decide +kernel))).2 (by decide +kernel)
    ⟨by decide +kernel, by decide +kernel, by decide +kernel⟩
  have ⟨_, _, t3, _, e3, _⟩ := h.1.2.2.1 (fld 0x183 0x102 0 0 0) (abc 5 0 0) (wOf (abc 5 0 0)) (0, 0) (readyUni_of (by decide +kernel))
    ⟨by decide +kernel, by decide +kernel, by decide +kernel⟩
  have ⟨t4, _, e4, _⟩ := h.1.2.2.2.1 (fld 0x110 0x102 0 0 0) (launchS placedRec (abc 0x00050001 0 0)) (wOf (launchS placedRec (abc 0x00050001 0 0))) (0, 0) (readyUni_of (by decide +kernel))
  have ⟨_, _, t5, _, e5, _⟩ := (h.1.2.2.2.2 (fld 0x183 0x102 0 0 0) (abc 0x10140 0 0) (wOf (abc 0x10140 0 0)) (0, 0) (readyUni_of (by decide +kernel))).2 (by decide +kernel)
    ⟨by decide +kernel, by decide +kernel, by decide +kernel⟩
  exact ⟨⟨t1, e1⟩, ⟨t2, e2⟩, ⟨t3, e3⟩, ⟨t4, e4⟩, ⟨t5, e5⟩⟩
theorem witness_Work_checks : ([0x10140, 2 ^ 57].map fun a => causeOf (.launchRun (fld 0x183 0x102 0 0 0)) (withHandler (abc a 0 0))) = [some 0x21, some 0x20] ∧
    causeOf (.launchJob (fld 0x183 0x102 0 0 3)) (withHandler (abc 0x10108 0 0)) = some 0x21 ∧
    ([(64, 7), (63, 8)].map fun x => causeOf (.launchQprio (fld 0x183 0x102 0x104 0 4)) (withHandler (abc x.1 x.2 0))) = [some 0xA3, some 0xA3] ∧
    causeOf (.runrec (fld 0x183 0x102 0 0 0)) (withHandler (abc 0x10120 0 0)) = some 0x21 ∧ causeOf (.runrec (fld 0x183 0x102 0 0 0)) (withHandler (detS (abc 0x10100 0 0))) = some 0xA4 ∧
    ([(0x104, false), (0xFF8, false), (0x100, true)].map fun x =>
      causeOf (.fetchw (fld 0 0x102 0x104 0 0)) (withHandler (if x.2 then detS (abc 5 x.1 0) else abc 5 x.1 0))) = [some 0x31, some 0x31, some 0xA4] := by decide +kernel
/-- V0:V1 are an entry, V2 an argument record. -/
def spawnS (entry arg : Nat) (vAllot : Nat := 128) : State := withP0 1 (withW (fun w => { w with vAllot }) (withV 3 (fun r _ => if r = 0 then entry else if r = 2 then arg else 0)))
def spawnF : Fields := guarded (fld 0x183 0 2 0 0)
theorem witness_Work_spawn : ([spawnS 0x10080 0xFC0, spawnS 0x10080 0x40 15, detS (spawnS 0x10080 0x40), spawnS 0x10080 0x44, spawnS 0x10080 0x1000].all fun s =>
      readyB 0xD1 spawnF s (wOf s) && decide ((ctxOf 0xD1 spawnF s (wOf s)).lanes.map (·.1) = [0])) = true ∧
    laneTarget 0x10000 false 0 0x10080 = none ∧ 0xFC0 % 64 = 0 ∧ 0xFC0 + 64 ≤ (s0.wg 1).aSize ∧
    (let s := spawnS 0x10080 0xFC0; let rs : List Range := [(.a, 0xFC0, 0x1000, false)]
     Room s (wOf s) (rs.take 2) 1 ∧ (s.started (wOf s)).laneInRanges 1 (aRanges rs) = false ∧ (s.core 0).tasks.length + s.tasksDue 0 s.fresh + 1 ≤ 1024) :=
  ⟨by decide +kernel, by decide +kernel, by decide, by decide +kernel, ⟨by decide +kernel, by decide +kernel, by decide +kernel⟩, by decide +kernel, by decide +kernel⟩
def task0 : Task := { origin := 1, entry := 0x10080, args := List.replicate 16 7, since := 0, run := 0, slot := 0 }
theorem witness_Work_spawnRoom : let s := (spawnS 0x10080 0xFC0).modCore 0 fun k => { k with tasks := List.replicate 1024 task0 }; let u := waiting (.spawn 41) (spawnS 0x10080 0xFC0)
    1024 < (s.core 0).tasks.length + s.tasksDue 0 s.fresh + 1 ∧ readyB 0xD1 spawnF s (wOf s) = true ∧
    Resumed 0xD1 spawnF u (wOf u) ∧ (wOf u).wait = some (.spawn 41) ∧ tfind u.cmds 41 = none :=
  ⟨by decide +kernel, by decide +kernel, resumed_of (by decide +kernel), by decide +kernel, by decide +kernel⟩
theorem witness_Work_fetchw (h : Obligations.Work) : ∃ t, exec (.fetchw (fld 0 0x102 0x104 0 0)) (abc 5 0xFF0 0) = .next t := by
  have ⟨t, _, e, _⟩ := ((h.2.1.2.2 (fld 0 0x102 0x104 0 0) (abc 5 0xFF0 0) (wOf (abc 5 0xFF0 0)) (0, 0) (readyUni_of (by decide +kernel))).2 (by decide +kernel)).2 (by decide +kernel)
  exact ⟨t, e⟩
/-- The targets: its own core, one of its partition, one of no partition; and a warp with a load under way. -/
def movingS (target : Nat) (s : State := s0) : State := parted 2 (launchS placedRec (abc target 0 0 s))
theorem witness_Work_migrate (h : Obligations.Work) : (∃ t, exec (.migrateCore (fld 0 0x102 0 0 0)) (movingS 0) = .next t) ∧ ∃ t, exec (.migrateCore (fld 0 0x102 0 0 0)) (movingS 15) = .next t := by
  have ⟨t, _, e, _⟩ := ((h.2.2.1 (fld 0 0x102 0 0 0) (movingS 0) (wOf (movingS 0)) (0, 0) (readyUni_of (by decide +kernel))).2.2.2 (by decide +kernel)
    ⟨by decide +kernel, by decide +kernel, by decide +kernel, by decide +kernel, by decide +kernel, by decide +kernel, _, rfl, by decide +kernel⟩ (by decide +kernel)).1 (by decide +kernel)
  have ⟨u, _, d, _⟩ := ((h.2.2.1 (fld 0 0x102 0 0 0) (movingS 15) (wOf (movingS 15)) (0, 0) (readyUni_of (by decide +kernel))).2.2.2 (by decide +kernel)
    ⟨by decide +kernel, by decide +kernel, by decide +kernel, by decide +kernel, by decide +kernel, by decide +kernel, _, rfl, by decide +kernel⟩ (by decide +kernel)).2.2.2 0 0
    (by decide +kernel) ⟨by decide +kernel, by decide +kernel, by decide +kernel, by decide +kernel⟩ (by decide +kernel)
  exact ⟨⟨t, e⟩, ⟨u, d⟩⟩
theorem witness_Work_migrateChecks : causeOf (.migrateCore (fld 0 0x102 0 0 0)) (withHandler (movingS 16)) = some 0xA6 ∧
    causeOf (.migrateCore (fld 0 0x102 0 0 0)) (withHandler (parted 2 (detS (abc 1 0 0)))) = some 0xA4 ∧
    causeOf (.migrateCore (fld 0 0x102 0 0 0)) (withHandler (withW (fun w => { w with cwl := 4 }) (movingS 1))) = some 0x66 ∧
    causeOf (.migrateNear (fld 0 0x102 0 0 1)) (withHandler (movingS (2 ^ 57))) = some 0x20 := by decide +kernel
/-- Whichever cluster is nearest, the core with the most room in it has room. -/
theorem witness_Work_near : let s := { movingS 0x10100 with parts := [(0, { part0 with clmask := BitVec.allOnes 48 })] }
    uniB 0xD4 (fld 0 0x102 0 0 1) s = true ∧ s.tlbAt 0 0 0x10100 = some { pte := 0x3F, pa := 0x100 } ∧ (wOf s).tr = [] ∧
    ∀ n < 48, let k := (s.mostFree ((List.range 8).map (· + 8 * n))).getD 0; k ≤ 383 ∧ (BitVec.allOnes 48).getLsbD (k / 8) = true ∧ (s.room k (s.moveNeed 1) [] 0).isSome = true := by decide +kernel

/-- The task of a SPAWN, and 32 tasks of which the oldest has waited. -/
def spawnCmd (cancel : Bool := false) : Cmd := { mkCmd s0 me 10 (.spawn [(0x10080, 0x40)]) true [] with cancel, after := [] }
def tasksS (n : Nat) (clk : Nat := 0) : State := { launchS placedRec (s0.modCore 0 fun k => { k with tasks := List.replicate n task0 }) with clock := { s0.clock with clk } }
theorem witness_WorkSteps_push : let s := cmdS spawnCmd; let u := (cmdS spawnCmd).modCore 0 fun k => { k with tasks := List.replicate 1024 task0 }
    s.startable spawnCmd = true ∧ (s.core 0).tasks.length + s.tasksDue 0 40 + 1 ≤ 1024 ∧ s.rangeHeld 40 40 spawnCmd [(.a, 0x40, 0x80, false)] = false ∧
    (s.asp 1).aPoison = [] ∧ 1024 < (u.core 0).tasks.length + u.tasksDue 0 40 + 1 ∧ (spawnCmd true).cancel = true := by decide +kernel
theorem witness_WorkSteps_wave : ([(32, 0), (31, 0), (1, 63), (1, 64)].map fun x => let s := tasksS x.1 x.2
      (decide ((s.waveGroup 0).length = 32), waveDue s.clock.clk (s.waveGroup 0), (s.room 0 (s.waveNeed 0 task0) [] 0).isSome, (s.launch? (s.wg 1).launch).isSome)) =
      [(true, true, true, true), (false, false, true, true), (false, false, true, true), (false, true, true, true)] ∧
    (tasksS 1).waveGroup 0 = [task0] ∧ task0.run = 0 ∧ (tasksS 1).runOf 0 0 = none := by decide +kernel

/-- A launch record of one workgroup in queue 0 whose kernel starts at 0x200208; its descriptor before it. -/
def launchRec (nx : Nat := 1) : Nat :=
  0x200208 + nx * 2 ^ 64 + 2 ^ 80 + 2 ^ 96 + 2 * 2 ^ 112 + 64 * 2 ^ 128 + 128 * 2 ^ 144 + 64 * 2 ^ 152 + 4 * 2 ^ 160 + 1024 * 2 ^ 176 + 16 * 2 ^ 192 + 4 * 2 ^ 216 + (2 ^ 160 - 1) * 2 ^ 256
def submitS (r d : Nat) (body : CmdBody) : State := { tabled (withMem 0x200080 128 r (withMem 0x200200 8 d)) with cmds := [(40, mkCmd s0 me 10 body true [])] }
theorem recordLawful_launchRec : recordLawful (launchRec) ∧ ¬recordLawful (launchRec 0) ∧ ¬recordLawful (launchRec + 32 * 2 ^ 128) := by
  simp only [recordLawful]
  refine ⟨?_, fun h => absurd h.2.2.1 (by decide +kernel), fun h => absurd h.2.2.2.2.2.2.2.2.2.1 (by decide +kernel)⟩
  repeat' apply And.intro
  all_goals decide +kernel
theorem witness_WorkSteps_run : ([(launchRec, 0x1000), (launchRec 0, 0x1000), (launchRec + 2 ^ 232 + 2 ^ 233, 0x1000), (launchRec, 4), (launchRec, 2 ^ 32)].all fun x =>
      let s := submitS x.1 x.2 (.launch 0 0x200080)
      decide (s.jobRead 0 [] 0x200080 128 = .got x.1) && decide (s.descRead 0 [] 0x200208 = .got x.2)) = true ∧
    (part0.qmask.getLsbD 0 = true ∧ part0.qmask.getLsbD 3 = false) ∧ launchRec / 2 ^ 232 % 64 = 0 ∧ lowestSlot s0 0 16384 0 := by
  refine ⟨by decide +kernel, by decide, by decide +kernel, by decide, by decide, fun j h => absurd h (Nat.not_lt_zero j)⟩
/-- A graph of which one launch is still to come, one that has them all, one that is cancelled. -/
def graphS (given : Nat) (cancelled : Bool) : State := { s0 with levels := [(16384, { levelOf placedRec with id := 0x40000001, total := 2, given, cancelled, launch := none })] }
theorem witness_WorkSteps_graph : ([(1, false), (2, false), (1, true)].map fun x => ((graphS x.1 x.2).liveKind 0 1 0x40000001).map fun p => (decide (p.given < p.total), p.cancelled)) =
    [some (true, false), some (false, false), some (true, true)] ∧ (s0.liveKind 0 1 0x40000001) = none := by decide +kernel
theorem witness_WorkSteps_open : ([0x3_FFFFFFFF, 0xFFFF_FFFFFFFF, 0, 0x10000 * 2 ^ 32, 3 * 2 ^ 32 + 2 ^ 64].all fun r => decide ((submitS r 0 (.launch 3 0x200080)).jobRead 0 [] 0x200080 16 = .got r)) = true ∧
    lowestSlot s0 3 256 0 ∧ (s0.liveKind 0 3 0xFFFFFFFF) = none ∧ (part0.qmask.getLsbD 63) = false :=
  ⟨by decide +kernel, ⟨by decide, by decide, fun j h => absurd h (Nat.not_lt_zero j)⟩, by decide, by decide⟩
theorem witness_WorkSteps_cancel : let c := mkCmd s0 me 10 (.lvlcancel 0x00050001 false 0) true []; let s := cmdS c (launchS placedRec)
    s.startable c = true ∧ s.liveLevel 0 0x00050001 ≠ none ∧ s.liveLevel 0 0x00050002 = none ∧ tsorted s.wgs = true ∧ tsorted s.levels = true ∧
    (∀ e ∈ s.levels, e.1 = e.2.id.toNat / 65536) := by decide +kernel
/-- A launch of which `next` of 2 workgroups are handed out. -/
def fetchS (next : Nat) (cancelled : Bool := false) (back : List (Nat × Nat) := []) : State :=
  let l := levelOf { placedRec with nx := 2, ny := 1, nz := 1, queue := 0, waitOn := [] }
  { s0 with
    levels := [(5, { l with total := 2, cancelled, launch := l.launch.map fun la => { la with next, back } })]
    jobs := { s0.jobs with fetches := [(8, { w := me, launch := 0x00050001, addr := 0x100 })] } }
theorem witness_WorkSteps_fetch : ([fetchS 0, fetchS 1, fetchS 2, fetchS 0 true, fetchS 2 false [(1, 1), (0, 2)]].all fun s =>
      !s.fetchHeld 0 0x00050001 && decide ((s.wg 1).place = .resident) && (tfind s.wgs (s.home 1)).isSome && twf (0 : Byte) (s.asp 1).a && tsorted (s.asp 1).tags && tsorted s.jobs.fetches &&
      (s.liveKind 0 0 0x00050001).isSome) = true ∧ (s0.liveKind 0 0 0x00050001).isNone = true := by decide +kernel
theorem witness_WorkSteps_arrival : ((withWg fun g => { g with place := .moving }).wg 1).place = .moving := by decide +kernel

/-- A recursion object at 0x10140 with its arena at A 0x100, the root's argument record at 0x10180. -/
def object (maxD : Nat := 3) : Nat := 0x10080 + 0x100C0 * 2 ^ 64 + 0x10100 * 2 ^ 128 + 0x100 * 2 ^ 192 + 960 * 2 ^ 256 + maxD * 2 ^ 296 + 2 ^ 312 + 5 * 2 ^ 320 + 0x10180 * 2 ^ 384
def runrecCmd (cancel : Bool := false) : Cmd := { mkCmd s0 me 9 (.runrec 0x10140 0x10000) true [] with cancel, after := [] }
def objectS (o : Nat) (runs : List Run := []) : State := cmdS runrecCmd ((withMem 0x140 64 o).modClu 0 fun k => { k with runs })
def run0 : Run := { cmd := 40, wg := 1, dive := 0x10080, basee := 0x100C0, combe := 0x10100, arena := 0x100, slots := 10, arSize := 960, fs := 64, maxD := 3, swd := 0, local_ := true
                    lbud := 5, frames := [], frontier := [0], depth := 0, waiting := [], running := [], ended := [], allocs := 0, failed := none, prov := none, tainted := false }
theorem witness_WorkSteps_object : let s := objectS (object); let c := runrecCmd
    s.run? 40 = none ∧ s.startable c = true ∧ (s.cluster 0).runs.length < 8 ∧ s.engRead c 0x10140 64 = .ok (toBytes 64 object, none) ∧
    parseObject s c 40 0x10000 (ofBytes (toBytes 64 object)) = some (run0, 0x10180) ∧ run0.local_ = true ∧ s.engRead c 0x10180 64 = .ok (List.replicate 64 0, none) ∧
    (tfind s.wgs (s.home 1)).isSome = true ∧ twf (0 : Byte) (s.asp 1).a = true ∧ parseObject s c 40 0x10000 (object 0) = none ∧
    8 ≤ ((objectS object (List.replicate 8 { run0 with cmd := 7 })).cluster 0).runs.length := by decide +kernel
/-- The frame of the root in a state, the run with its task ended or with none. -/
def rootFrame (state : Nat) (depth : Nat := 0) : Frame := { parent := none, cidx := 0, depth, nchild := 0, ndone := 0, state, bound := none, kids := [] }
def runEnded (state : Nat) (ended : List (Nat × Nat)) (depth : Nat := 0) : Run := { run0 with frames := [(0, rootFrame state depth)], running := ended.map (·.1), ended, allocs := 1 }
def taskS (r : Run) : State := withWg (fun g => g.aPut 0x100 (r.frame 0).header) (objectS object [r])
theorem witness_WorkSteps_runEnds : let quiet (r : Run) := r.running = [] ∧ r.ended = []
    quiet (runEnded 6 []) ∧ ((runEnded 6 []).frame 0).state = 6 ∧ ((objectS object [runEnded 6 []]).run? 40).isSome = true ∧
    quiet { runEnded 2 [] with failed := some (.recurDepth, 0) } ∧ quiet { runEnded 2 [] with prov := some 0x101 } := by decide +kernel
theorem witness_WorkSteps_taskEnds : ([(2, 9, 0), (2, 2, 0), (2, 1, 3), (4, 0, 0), (5, 0, 0)].all fun x => let r := runEnded x.1 [(0, x.2.1)] x.2.2; let s := taskS r
      decide (r.ended = [(0, x.2.1)]) && decide (r.running = [0]) && decide ((s.asp 1).aBytes 0x100 32 = (r.frame 0).header) && decide ((s.asp 1).aPoison = []) &&
      decide ((r.frame 0).state = x.1) && decide ((r.frame 0).depth = x.2.2) && decide (s.run? 40 = some r) && (tfind s.wgs (s.home 1)).isSome) = true := by decide +kernel

/-- A launch whose one workgroup is to be placed; the same with no room on its cluster, of priority 7, unplaced since TIME 0. -/
def record1 (queue : Nat := 0) (asize : Nat := 4) : LaunchRec := { parseRecord launchRec with queue, asize, waitOn := [] }
def unplaced (r : LaunchRec) : Level := let l := levelOf r; { l with launch := l.launch.map fun la => { la with next := 0, since := some 0 } }
def placeS : State := { parted with levels := [(5, unplaced record1)] }
def fullS : State :=
  { s0 with
    parts := [(0, { part0 with clmask := 1 })], clock := { s0.clock with clk := 600000 }
    jobs := { s0.jobs with prio := [(1, 7)] }
    levels := [(5, levelOf record1), (6, { unplaced (record1 1) with id := 0x00060001 })]
    wgs := (List.range 8).map fun i => (i + 1, { s0.wg 1 with launch := 0x00050001, core := i, aSize := 2 ^ 20, seqNo := i }) }
theorem witness_Placement_choice : (∃ c core, placeS.choice 0 = some (c, core) ∧ c.saved = none ∧ (placeS.level? c.launch).isSome = true ∧ (placeS.room core (placeS.candNeed c) [] 0).isSome = true ∧
    c ∈ placeS.candidates 0 ∧ placeS.coreFor c = some core) ∧ placeS.keptCores = [] ∧ s0.choice 0 = none := by
  refine ⟨⟨_, 1, rfl, ?_⟩, ?_, ?_⟩ <;> decide +kernel
/-- The workgroup of a launch, its warp retired; with counter 1, with counter 2, and to be relaunched. -/
def retireS (total : Nat) (killed : Option Nat) (idem : Bool) : State :=
  let l := levelOf { record1 with idem }
  withWg (fun g => { g with launch := 0x00050001, killed }) { withW (fun w => { w with retired := true, em := 0 }) with levels := [(5, { l with counter := total, total })] }
theorem finished_retireS (total : Nat) (killed : Option Nat) (idem : Bool) : Finished (retireS total killed idem) 1 ((retireS total killed idem).wg 1) := by
  refine ⟨fun w h => ?_, rfl, fun x hx => ?_, fun c hc => nomatch hc⟩
  · cases List.mem_singleton.1 h; exact ⟨rfl, rfl⟩
  · cases List.mem_singleton.1 hx; intro h; exact absurd rfl h
theorem witness_Placement_retire : ([retireS 1 none false, retireS 2 none false, retireS 1 (some 0xB5) true].all fun s =>
      (tfind s.wgs 1).isSome && tsorted s.wgs && tsorted s.levels && decide ((s.wg 1).kind = .grid) && decide ((s.wg 1).fetched = []) && (s.level? (s.wg 1).launch).isSome) = true ∧
    ¬Finished s0 1 (s0.wg 1) := by
  refine ⟨by decide +kernel, fun h => absurd (h.1 (wOf s0) (by decide +kernel)).1 (by decide +kernel)⟩
theorem witness_Placement_starved : s0.starved 0 = none ∧ ∃ c la, fullS.starved 0 = some c ∧ fullS.launch? c.launch = some la ∧ la.clear = none ∧
    fullS.clearable c = [0, 1, 2, 3, 4, 5, 6, 7] ∧ (∀ x ∈ fullS.wgs, x.2.preempt = true → x.2.place = .resident → x.2.core ≠ 0) ∧ tsorted fullS.wgs = true := by
  refine ⟨by decide +kernel, _, _, rfl, rfl, ?_⟩; decide +kernel
/-- Where a save record is small enough for the pool (its size is a free value, notes/assumptions/37.md): its victim. -/
theorem witness_Placement_victim (h : Config.saveBytes (2 ^ 20) 1 0 0 ≤ 2 ^ 32) : fullS.victimOn 0 = some (0, 1) := by
  have e : fullS.victims 0 = [(1, fullS.wg 1)] := by decide +kernel
  have p : fullS.jobs.pool = 0 := by decide +kernel
  have q : (fullS.wg 1).preempt = false := by decide +kernel
  have z : (fullS.wg 1).saveSize = Config.saveBytes (2 ^ 20) 1 0 0 := rfl
  simp only [State.victimOn, e, List.find?_cons, p, q, z, Bool.not_false, Bool.true_and, Nat.zero_add, poolBytes, decide_eq_true h, Option.map_some]
/-- A workgroup whose warp has stopped; and one that is saved, the cluster otherwise empty. -/
def stoppedS : State := withWg (fun g => { g with preempt := true, launch := 0x00050001, crows := 16 })
  { withW (fun w => { w with stopped := true, cwb := 2, cwl := 6 }) with levels := [(5, levelOf record1)] }
def savedS : State := withWg (fun g => { g with preempt := true, place := .saved, launch := 0x00050001, crows := 16, savedC := [(1, 9)] })
  { withW (fun w => { w with stopped := true, cwb := 2, cwl := 6 }) (parted) with levels := [(5, levelOf record1)] }
theorem witness_Placement_save : let wg := stoppedS.wg 1
    tfind stoppedS.wgs 1 = some wg ∧ wg.preempt = true ∧ wg.place = .resident ∧ wg.gmatN = 0 ∧ (∀ w ∈ wg.warps, (w.retired = true ∨ w.stopped = true) ∧ w.accs = [] ∧ w.pends = [] ∧ tsorted w.v = true) ∧
    (∃ w ∈ wg.warps, w.retired = false) ∧ stoppedS.cmds = [] ∧ (stoppedS.core 0).chains = [] ∧ tsorted stoppedS.wgs = true ∧ tsorted (stoppedS.core 0).c = true ∧
    (∀ w ∈ wg.warps, w.cwb < w.cwl → wg.cbase ≤ w.cwb) ∧ (s0.wg 1).preempt = false := by decide +kernel
theorem witness_Placement_restore : let wg := savedS.wg 1; ∃ core la x, tfind savedS.wgs 1 = some wg ∧ savedS.restoreCore 1 = some core ∧ savedS.launch? wg.launch = some la ∧
    savedS.room core (savedS.savedNeed 1 la.rec_) [] 1 = some x ∧ wg.place = .saved ∧ savedS.tablesFit core 1 wg = true ∧ wg.savedAttic = [] ∧ wg.savedChains = [] ∧
    tsorted wg.savedC = true ∧ (∀ e ∈ wg.savedC, e.1 < wg.crows * 128) ∧ tsorted (savedS.core core).c = true := by
  refine ⟨0, _, _, rfl, ?_, rfl, rfl, ?_⟩ <;> decide +kernel

/-! Scheduling (R325-R332) -/

/-- Core 0 with its scheduler changed. -/
def sched (f : Sched → Sched) (s : State := s0) : State := s.modCore 0 fun k => { k with sched := f k.sched }
def clockAt (n : Nat) (s : State) : State := { s with clock := { s.clock with clk := n } }
def sleepS (t : Nat) (woke : Bool := false) : State := waiting (.sleep t woke)
def gatedS (at_ : Option Nat) (s : State) : State := s.modCore 0 fun k => { k with gated := true, wakeAt := at_ }
theorem witness_Scheduling_cycle : (s0.core 0).gated = false ∧ s0.gates 0 = false ∧ s0.detCore 0 = false ∧ detS.gates 0 = false ∧ detS.detCore 0 = true ∧
    (sleepS 100).gates 0 = true ∧ ((gatedS none s0).core 0).gated = true ∧ (s0.core 0).sched.active.length ≤ 8 := by decide +kernel
/-- In deterministic mode the warp of the lowest logical index starts an instruction; a core whose warps all wait gates its clock first. -/
theorem test_cycle : after (.laneCycleSchedule 0) detS (fun t => match t.agenda with | [.turn r] => decide (r = me) | _ => false) = true ∧
    after (.laneCycleSchedule 0) (sleepS 100) (fun t => match t.agenda with | [.row (.clockGate 0)] => true | _ => false) = true := by decide +kernel
theorem witness_Scheduling_insert : (∀ x ∈ ([{ w := me, count := 8 }, { w := me, count := 7 }] : List Rq), x.count ≤ 8) ∧
    insertWoken me [{ w := me, count := 8 }, { w := me, count := 7 }] = [{ w := me, count := 8 }, { w := me, count := 0 }, { w := me, count := 8 }] := by decide +kernel
/-- 512 lane cycles after the last swap, one before that, and with RQ empty. -/
def swapS (cycle : Nat) (rq : List Rq) : State := sched fun k => { k with active := [(me, 0)], rq, cycle, lastSwap := 100 }
theorem witness_Scheduling_swap : ([(611, [({ w := me, count := 3 } : Rq)]), (610, [{ w := me, count := 3 }]), (611, [])].map fun x => let k := ((swapS x.1 x.2).core 0).sched
      (decide (k.rq = [] ∨ k.active = [] ∨ k.cycle + 1 < k.lastSwap + 512), decide (k.lastSwap + 512 ≤ k.cycle + 1), ((swapS x.1 x.2).core 0).gated)) =
    [(false, true, false), (true, false, false), (true, true, false)] := by decide +kernel
theorem witness_Scheduling_gate : (let s := sleepS 100
      (s.core 0).gated = false ∧ s.coreWarps 0 ≠ [] ∧ (∀ r ∈ s.coreWarps 0, s.blockedLong r = true) ∧
      (s.coreWarps 0).all (fun r => (s.warp? r).all fun w => w.flights.isEmpty) = true ∧ s.waveReady 0 = false) ∧ ¬(∀ r ∈ s0.coreWarps 0, s0.blockedLong r = true) := by decide +kernel
theorem witness_Scheduling_wake : let e := gatedS none (sleepS 100 true); let z := gatedS none (sleepS 100)
    (s0.core 0).gated = false ∧ ([(1000, 1000), (999, 1000)].map fun x => (((gatedS (some x.2) (clockAt x.1 s0)).core 0).wakeAt, decide (x.2 ≤ x.1))) = [(some 1000, true), (some 1000, false)] ∧
    (e.coreWarps 0 = [me] ∧ (wOf e).runs = true ∧ e.waitOver me (wOf e) = true) ∧
    (z.coreWarps 0 = [me] ∧ z.waitOver me (wOf z) = false ∧ (wOf z).wait = some (.sleep 100 false)) := by decide +kernel
/-- A launch with the watchdog limits given, its warp in a sleep since TIME 0. -/
def dogS (wdog wallns progress clk : Nat) : State :=
  clockAt clk (launchS { placedRec with wdog, wallns } ((sleepS 2000).modCore 0 fun k => { k with progress }))
theorem witness_Scheduling_progress : ([(0, 2 ^ 32 - 1), (0, 2 ^ 32), (1000, 999), (1000, 1000)].map fun x => let s := dogS x.1 0 x.2 0
      (decide (s.coreWarps 0 = [me]), (s.launch? (s.wg 1).launch).map fun la => if la.rec_.wdog = 0 then 2 ^ 32 else la.rec_.wdog)) =
    [(true, some (2 ^ 32)), (true, some (2 ^ 32)), (true, some 1000), (true, some 1000)] := by decide +kernel
theorem witness_Scheduling_limit : ([(500, 1500), (500, 1499), (0, 1500)].map fun x => let s := dogS 0 x.1 0 x.2
      ((s.launch? 0x00050001).map (·.rec_.wallns), (s.coreWarps 0).filter (fun r => (s.wg r.wg).launch = 0x00050001), s.blockedLong me, decide ((wOf s).waitAt + x.1 ≤ s.time))) =
    [(some 500, [me], true, true), (some 500, [me], true, false), (some 0, [me], true, true)] := by decide +kernel

/-! System registers (R379, R397, R398) -/

theorem witness_SystemRegisters_srd : readyB 0xE0 (fld 2 0x150 0 0 0) s0 (wOf s0) = true ∧
    afterW (.srd (fld 2 0x150 0 0 0)) s0 (fun w => decide (w.final (.v 2 0) = 0)) = true ∧
    afterW (.srd (fld 2 0x144 0 0 0)) s0 (fun w => decide (w.final (.v 2 31) = 31)) = true := by decide +kernel
theorem witness_SystemRegisters_special : (launchS placedRec).launch? 0x00050001 ≠ none := by decide +kernel
def swrS (v : Word) : State := withS [(2, v)]
theorem witness_SystemRegisters_swr : ([0x140, 0x141, 0x142, 0x153, 0x154].all fun d => uniB 0xE1 (fld d 0x102 0 0 0) (swrS 5)) = true ∧
    uniB 0xE1 (fld 0x140 0x102 0 0 0) (swrS 0) = true ∧ (wOf s0).begun.retired = false ∧ (5 : Word) &&& (wOf s0).begun.present ≠ 0 := by decide +kernel
def frameS (fr : List Word := (List.range 32).map (BitVec.ofNat 32)) (l : List (Nat × Word) := []) : State := withW (fun w => { w with frame := some fr }) (withS l)
theorem witness_SystemRegisters_frame : (([(0, false), (31, false), (32, false), (0, true)] : List (Nat × Bool)).all fun x =>
      let s := if x.2 then withS [(2, BitVec.ofNat 32 x.1)] else frameS (l := [(2, BitVec.ofNat 32 x.1), (3, 0xFFFF)])
      uniB 0xE0 (fld 0x104 0x102 0 0 1) s && uniB 0xE1 (fld 0 0x102 0x103 0 1) s) = true ∧ (wOf (frameS)).frame = some ((List.range 32).map (BitVec.ofNat 32)) ∧ (wOf s0).frame = none := by
  decide +kernel
def checkS (f : Nat → Nat → Nat) : State := withHandler (withP0 6 (withV 12 f))
theorem witness_SystemRegisters_csacc : (([0, 6] : List Mask).all fun g => let s := withP0 g (withV 12 fun r t => r + t)
      readyB 0xD8 (guarded (fld 0x106 2 0 0 0)) s (wOf s) && decide ((ctxOf 0xD8 (guarded (fld 0x106 2 0 0 0)) s (wOf s)).dest (wOf s).begun 0 = [.s 6, .s 7])) = true := by decide +kernel
/-- Checks of threads 1 and 2 that pass, and that fail in thread 2: the same bits, or two numbers one of tolerance apart and two of them. -/
theorem witness_SystemRegisters_check : ([(0, fun _ t => t), (0, fun r t => if r = 4 && t = 2 then 9 else t), (2, fun r _ => if r = 2 then 0x40000000 else 0x3F800000),
        (2, fun r t => if r = 2 then (if t = 2 then 0x40400000 else 0x40000000) else 0x3F800000)].map fun (x : Nat × (Nat → Nat → Nat)) =>
      let s := checkS x.2; let f := guarded (fld 0 2 4 (if x.1 = 2 then 6 else 0) x.1); (readyB 0xD9 f s (wOf s), causeOf (.check f) s)) =
    [(true, none), (true, some 0x90), (true, none), (true, some 0x91)] := by decide +kernel
/-- PMARK before and after its warp's accesses are performed, and before its last result. -/
theorem witness_SystemRegisters_pmark : ([withS [(2, 9)], withAccs [pendingLoad] (withS [(2, 9)]), withW (fun w => { w with flights := [{ key := .s 4, val := 1, avail := 30 }] }) (withS [(2, 9)])].map fun s =>
      (uniB 0xE6 (fld 0x106 0x102 0 0 0) s, decide ((wOf s).earlier = []), (wOf s).begun.flights.all fun fl => decide (fl.avail ≤ (wOf s).startAt))) =
    [(true, true, true), (true, false, true), (true, true, false)] := by decide +kernel

/-! Traps (R374-R381, R393) -/

def frame0 (pc : Nat := 0x10080) : List Word := (List.range 32).map fun k => if k = 4 then BitVec.ofNat 32 pc else if k = 6 then 0xF else 0
def framed (fr : List Word) (s : State := s0) : State := withW (fun w => { w with frame := some fr }) s
theorem witness_TrapEntry_trap : let s := withHandler
    (s.wgs.map (·.1) = [1]) ∧ s.warp? me = some (wOf s) ∧ (wOf s).frame = none ∧ (wOf (framed frame0 s)).frame ≠ none ∧ s.handlerOf 0 0 (wOf s) = 0x10300 ∧ (wOf s).pc.toNat / 2 ^ 32 = 0 ∧
    s0.handlerOf 0 0 (wOf s0) = 0 ∧ (wOf s).splits.length ≤ 64 ∧ s.waits = [] ∧ s.queues = [] := by decide +kernel
/-- Of two workgroups one is killed, another has been. -/
theorem witness_TrapEntry_kill : let s := { s0 with wgs := s0.wgs ++ [(2, s0.wg 1), (3, { s0.wg 1 with killed := some 0xB3 })] }
    [1, 2, 3].map (fun g => (tfind s.wgs g).map fun v => (decide (v.kind = .grid), v.killed)) = [some (true, none), some (true, none), some (true, some 0xB3)] ∧ s.waits = [] ∧
    tfind s.parts 0 = none ∧ s.queues = [] := by decide +kernel
theorem witness_TrapEntry_instrs : uniB 0xE2 (fld 0 0x102 0 0 0) s0 = true ∧ uniB 0xE4 (fld 0 0 0 0 0) s0 = true ∧ (uniB 0xE3 (fld 0 0 0 0 0) s0 && decide ((wOf s0).frame = none)) = true ∧
    ([frame0, frame0 0x10084, frame0 (2 ^ 32 - 8), frame0.set 0 (2 ^ 18)].map fun fr => uniB 0xE3 (fld 0 0 0 0 0) (framed fr)) = [true, true, true, true] ∧
    (wOf (framed frame0)).splits.length = (frame0.getD 0 0).toNat / 2 ^ 18 % 2 ^ 7 ∧ tsorted (wOf (framed frame0)).begun.settleAll.s = true ∧ tsorted (wOf (framed frame0)).begun.settleAll.p = true := by
  decide +kernel
theorem witness_TrapEntry_unassigned : let f := fieldsOfWord 0x0007_0600_0000_0000 0 0; assigned (opOfWord 0x0007_0600_0000_0000) = false ∧ s0.warp? me = some (wOf s0) ∧
    (wOf s0).present ≠ 0 ∧ inProgress (wOf s0).wait = false ∧ busyTokens f (wOf s0).begun = [] ∧ pendingKeys 3 f (wOf s0).begun = [] ∧
    (∀ e, deferDue s0.cmds (wOf s0).begun (opOfWord 0x0007_0600_0000_0000) f e = none) := by decide +kernel
theorem witness_TrapEntry_unassignedCause : causeOf (.unassignedOpcode 0x0007_0600_0000_0000) withHandler = some 0 ∧ causeOf (.trap (fld 0 0x102 0 0 0)) withHandler = some 0xB0 ∧
    causeOf (.brk (fld 0 0 0 0 0)) withHandler = some 0xB1 ∧ causeOf (.trapretResume (fld 0 0 0 0 0)) withHandler = some 0xB2 := by decide +kernel

/-! Page walks (R352-R358) -/

/-- An entry of the table of a level: nothing there, a table, a page, the page without its valid size, a page of another partition's frame. -/
theorem entryBad_cases : (¬entryBad part0 3 (1 + 0x20000) ∧ ¬entryBad part0 0 (0x3F + 0x30000) ∧ ¬entryBad part0 1 (0x3F + 0x200000)) ∧
    entryBad part0 1 (0x3F + 0x30000) ∧ entryBad part0 3 (0x3F + 0x200000) ∧ entryBad part0 0 (0x3F + 0x40) ∧ entryBad part0 0 1 ∧ entryBad part0 0 (0x3F + 2 ^ 23) ∧
    entryBad part0 2 (1 + 0x28000 + 4) := by
  refine ⟨⟨?_, ?_, ?_⟩, ?_, ?_, ?_, ?_, ?_, ?_⟩ <;> simp only [entryBad] <;> decide +kernel
def entryS (lvl e : Nat) : State := withMem (0x18000 + 8 * lvl) 8 e (parted)
theorem witness_PageWalks_entry : ([(3, 0), (3, 1 + 0x20000), (0, 0x3F + 0x30000), (1, 0x3F + 0x30000), (0, 1)].all fun x => decide (entryAt (withMem 0x18000 8 x.2 parted) x.1 0 0x18000 = x.2)) = true ∧
    tfind parted.parts 0 = some part0 ∧ tfind s0.parts 0 = none := by decide +kernel
/-- A walk that warp 0 waits for. -/
def walk1 (va : Nat) (state : WalkState) : Walk := { die := 0, part := 0, va, kind := 1, core := 0, joined := [.warp me], state }
def walkS (va : Nat) (state : WalkState := .walking) (ids : List Nat := [9]) (s : State := tabled) : State := { waiting (.walk ids) s with walks := [(9, walk1 va state)] }
theorem witness_PageWalks_ends : ([0x400000, 2 ^ 50, 0x210000].map fun va => let s := walkS va; (s.walk 0 va, decide (s.warp? me = some (wOf s) ∧ (wOf s).wait = some (.walk [9])))) =
      [(.fault, true), (.fault, true), (.page 21 (0x3F + 0x200000), true)] ∧
    (withMem 0x18000 8 0x41 (walkS 0)).walk 0 0 = .bad ∧ tfind (walkS 0 .faulted).walks 9 = some (walk1 0 .faulted) ∧ tfind (walkS 0).walks 8 = none ∧
    (wOf (walkS 0x210000 .walking [8])).wait = some (.walk [8]) ∧ s0.warp? me = some (wOf s0) := by decide +kernel
/-- A fault queue of `size` records of which `used` are taken; the error queue after it. -/
def queueAt (hdr size used : Nat) (s : State) : State := withMem hdr 12 (used + size * 2 ^ 64) s
theorem hasRoom_queue : HasRoom (queueAt 0x4000 4 3 parted) (some part0) 0x4000 32 ∧ ¬HasRoom (queueAt 0x4000 4 4 parted) (some part0) 0x4000 32 ∧ ¬HasRoom (queueAt 0x4000 3 0 parted) (some part0) 0x4000 32 := by
  refine ⟨⟨⟨2, by decide, by decide +kernel⟩, by decide +kernel, fun x hx => ?_⟩, fun h => absurd h.2.1 (by decide +kernel), fun h => ?_⟩
  · cases hx; refine ⟨fun f h1 h2 => ?_, fun f h1 h2 => ?_⟩
    · have : f = 0 := Nat.le_zero.1 h2; subst this; decide
    · have e : (0x4000 + 32 + 32 * ((queueAt 0x4000 4 3 parted).ownTail 0x4000 % (queueAt 0x4000 4 3 parted).ringSize 0x4000) + 32 - 1) / 2 ^ 21 = 0 := by decide +kernel
      rw [e] at h2; have : f = 0 := Nat.le_zero.1 h2; subst this; decide
  · obtain ⟨k, hk, e⟩ := h.1
    have e3 : (queueAt 0x4000 3 0 parted).ringSize 0x4000 = 3 := by decide +kernel
    rw [e3] at e; revert e; revert k; decide
theorem witness_PageWalks_record : let s := queueAt 0x4000 4 3 (walkS 0x400000 .faulted [9] parted); tfind s.walks 9 = some (walk1 0x400000 .faulted) ∧ tfind s.parts 0 = some part0 ∧
    s.ownTail 0x4000 = 3 ∧ s.ringSize 0x4000 = 4 := by decide +kernel

/-! Errors (R389-R392, R399, R400) -/

theorem witness_Errors_record : let s := queueAt (0x4000 + 32 * 5) 4 2 (queueAt 0x4000 4 0 parted); tfind s.parts 0 = some part0 ∧ part0.fq + 32 * (s.ringSize part0.fq + 1) = 0x40A0 ∧ s.ringSize 0x40A0 = 4 ∧
    s.ownTail 0x40A0 = 2 ∧ s.ringUsed 0x40A0 = 2 ∧ tfind s0.parts 0 = none := by decide +kernel
theorem witness_Errors_uncorrected : (sectorUnits.map (·.2)) = [0, 1, 2, 8, 9] ∧ tfind parted.parts 0 = some part0 ∧ 0x80 / 2 ^ 21 ∈ part0.frames ∧ (∀ q ∈ parted.parts, 0x80 / 2 ^ 21 ∈ q.2.frames → q.1 = 0) ∧ (0, part0) ∈ parted.parts ∧
    (s0.wg 1).core = 0 ∧ (s0.wg 1).place = .resident ∧ (s0.wg 1).share = none ∧ s0.wgs = [(1, s0.wg 1)] ∧ (s0.wg 1).aOff ≤ 0x100 ∧ 0x100 < (s0.wg 1).aOff + (s0.wg 1).aSize ∧
    (s0.wg 1).aOff + (s0.wg 1).aSize ≤ 2 ^ 20 - 4 ∧ s0.warp? me = some (wOf s0) ∧ tfind (treeS (treeCmd .off)).trees 3 = some tree3 := by decide +kernel
theorem witness_Errors_buffer : let s := cmdS { copyCmd with out := [{ unit := 0, key := none, pa := 0x80, data := [1, 2], tag := none }] }
    ((tfind s.cmds 40).map fun c => (c.status, c.out.length)) = some (0, 1) := by decide +kernel
/-- Three corrected errors of one item within 2^32 ns, and a fourth after that. -/
theorem witness_Errors_count : ([({ count := 0, since := 0 }, 5), ({ count := 1, since := 5 }, 6), ({ count := 2, since := 5 }, 2 ^ 32 + 4), ({ count := 2, since := 5 }, 2 ^ 32 + 5)].map fun (x : Corr × Nat) => countError x.1 x.2) =
    [({ count := 1, since := 5 }, false), ({ count := 2, since := 5 }, false), ({ count := 0, since := 5 }, true), ({ count := 1, since := 2 ^ 32 + 5 }, false)] := by decide +kernel
/-- Core 0 with an item that has had two errors, and with spare rows of A used up. -/
def corrS (item used : Nat) (s : State := s0) : State := s.modCore 0 fun k => { k with corr := [(item, { count := 2, since := 0 })], spares := [(160, used)] }
theorem witness_Errors_corrected : (s0.countCorr 0 (2 ^ 25 + 4)).2 = false ∧ ((corrS (2 ^ 25 + 4) 15).countCorr 0 (2 ^ 25 + 4)).2 = true ∧ tgetD 0 ((corrS (2 ^ 25 + 4) 16).core 0).spares 160 = 16 ∧
    ((corrS (2 ^ 26 + 1) 0).countCorr 0 (2 ^ 26 + 1)).2 = true ∧ ((corrS (2 ^ 26 + 1) 0).core 0).worn = [] ∧ tgetD 0 ((corrS (2 ^ 26 + 1) 0).core 0).spares 161 = 0 ∧
    (let s := corrS (2 ^ 26 + 1) 0 (withW fun w => { w with retired := true }); ∀ x ∈ s.wgs, x.2.core = 0 → x.2.place ≠ .saved → ∀ w ∈ x.2.warps, w.retired = true) ∧
    (countError (tgetD { count := 0, since := 0 } (({ s0 with errs := { s0.errs with hbmCorr := [(64, { count := 2, since := 0 })] } } : State).errs.hbmCorr) 64) 0).2 = true ∧ 64 / 2 ^ 21 ∈ part0.frames := by decide +kernel
def park0 : ErrRec := { part := 0, kind := 2, prov := 0x100, fid := 5, addr := 0x10080, cause := 0, core := 0, time := 0 }
def parkS (used : Nat) : State := { queueAt (0x4000 + 32 * 5) 4 used (queueAt 0x4000 4 0 parted) with errs := { s0.errs with parks := [(park0, me)] } }
theorem witness_Errors_park : (parkS 2).errs.parks.find? (fun x => x.1.part = 0) = some (park0, me) ∧ tfind (parkS 4).parts 0 = some part0 ∧ (parkS 2).ringUsed 0x40A0 = 2 ∧ (parkS 4).ringUsed 0x40A0 = 4 ∧
    (parkS 2).errs.parks.all (fun x => x.1.part ≠ 1) = true := by decide +kernel

/-! Control queues and partitions (R349, R359-R368) -/

/-- The control queue of partition 0 with one record. -/
def ctrlS (r : Nat) (s : State := parted) : State :=
  let t := withMem 0x6020 64 r (queueAt 0x6000 4 1 s)
  { t with jobs := { t.jobs with ring := [(64, { size := 4, head := 0, seen := 0 })] } }
def askedB (fields : List (Nat × Nat)) (r : Nat) (s : State := parted) : Bool :=
  decide ((ctrlS r s).ctrlHead 0 = some (0x6000, { size := 4, head := 0, seen := 0 })) && decide ((ctrlS r s).ringTail 0x6000 = 1) && decide (ofBytes ((ctrlS r s).view none 0x6020 64) = r) &&
  (List.range 512).all fun i => decide (i < 64) || !r.testBit i || fields.any fun x => decide (x.1 ≤ i ∧ i < x.1 + x.2)
theorem asked_of {cmd r : Nat} {fields : List (Nat × Nat)} {s : State} (h : askedB fields r s = true) (hc : r % 2 ^ 8 = cmd ∧ r / 2 ^ 8 % 2 ^ 8 = 0) :
    Asked (ctrlS r s) 0 cmd fields 0x6020 r := by
  simp only [askedB, Bool.and_eq_true, decide_eq_true_eq] at h
  obtain ⟨⟨⟨h1, h2⟩, h3⟩, h4⟩ := h
  refine ⟨⟨0x6000, _, h1, by rw [h2]; decide, rfl, h3.symm⟩, hc.1, hc.2, fun i hl hu ht => ?_⟩
  have := List.all_eq_true.1 h4 i (List.mem_range.2 hu)
  simp only [ht, Bool.or_eq_true, Bool.not_true, decide_eq_true_eq, List.any_eq_true, Bool.false_eq_true, or_false] at this
  rcases this with h | ⟨x, hx, h⟩
  · omega
  · exact ⟨x, hx, h⟩
theorem witness_ControlQueues_due : Due (ctrlS 5) 0 0x6020 5 ∧ tfind parted.parts 0 = some part0 ∧ ((ctrlS 5).ctrlRec 0).isSome = true := by
  refine ⟨(asked_of (fields := []) (cmd := 5) (by decide +kernel) (by decide)).due, by decide +kernel, by decide +kernel⟩
/-- INVAL of one page and of all, with and without an access in the range. -/
theorem witness_ControlQueues_inval : ([1 + 2 ^ 128 + 0x10000 * 2 ^ 64, 1].all fun r => askedB [(64, 64), (128, 32)] r && askedB [(64, 64), (128, 32)] r (parted 2 (withAccs [pendingLoad]))) = true ∧
    (∃ g ∈ (parted 2 (withAccs [pendingLoad])).wgs, g.2.part = 0 ∧ ∃ w ∈ g.2.warps, ∃ a ∈ w.accs, a.space = .g ∧ a.va < 0x20000 ∧ 0x10000 < a.va + a.bytes) := by
  exact ⟨by decide +kernel, (1, (withAccs [pendingLoad]).wg 1), by decide +kernel⟩
theorem witness_ControlQueues_resolve : ([2 + 5 * 2 ^ 64, 2 + 5 * 2 ^ 64 + 2 ^ 96].all fun r => [walkS 0 (.parked 5), parted, { waiting (.poison 0 [5]) parted with errs := { s0.errs with parked := [(0, 5, me)] } }].all fun s =>
      askedB [(64, 32), (96, 1)] r s) = true ∧
    ((walkS 0 (.parked 5)).walks.find? fun x => x.2.part = 0 && x.2.state = .parked 5) = some (9, walk1 0 (.parked 5)) ∧
    (wOf (waiting (.poison 0 [5]) parted)).wait = some (.poison 0 [5]) ∧ ((parted).core 0).reads = [] := by decide +kernel
theorem inFrames_part0 {pa n : Nat} (h : (pa + n - 1) / 2 ^ 21 ≤ 3) : inFrames part0 pa n := fun f _ h2 => by
  have : f ≤ 3 := Nat.le_trans h2 h
  show f ∈ [0, 1, 2, 3]
  simp only [List.mem_cons, List.not_mem_nil, or_false]; omega
theorem witness_ControlQueues_keys : ([3 + 2 ^ 64 + 0x100 * 2 ^ 128, 3 + 4 * 2 ^ 64].all fun r => askedB [(64, 8), (128, 64)] r) = true ∧
    ([4 + 2 ^ 64, 4 + 4 * 2 ^ 64].all fun r => askedB [(64, 8)] r) = true ∧ part0.kslot0 + part0.kslotN = 4 ∧ inFrames part0 0x100 72 := by
  refine ⟨by decide +kernel, by decide +kernel, rfl, inFrames_part0 (by decide)⟩
theorem witness_ControlQueues_attest : ([5 + 0x100 * 2 ^ 64 + 0x400 * 2 ^ 128, 5 + 0x100 * 2 ^ 64 + 0x410 * 2 ^ 128].all fun r => askedB [(64, 64), (128, 64)] r) = true ∧ inFrames part0 0x100 48 ∧ inFrames part0 0x400 512 := by
  refine ⟨by decide +kernel, inFrames_part0 (by decide), inFrames_part0 (by decide)⟩
/-- FIPS 197, C.3: the example vector of AES-256, which R364 and R365 build on. -/
theorem test_aes : aesEncrypt ((List.range 32).map (BitVec.ofNat 8)) ((List.range 16).map fun i => BitVec.ofNat 8 (17 * i)) =
    (toBytes 16 0x8ea2b7ca516745bfeafc49904b496089).reverse := by decide +kernel

/-- A memory with bytes below 0x200 and one record in the module's control queue: a command byte and zeros. -/
def moduleS (low : Memory) (b : Byte) : State :=
  { s0 with mem := low ++ [(Config.moduleQueue + 32, b)], gmeta := State.reset.gmeta, jobs := { s0.jobs with ring := [(72, { size := 1, head := 1, seen := 0 })] } }
theorem tfind_low (low : Memory) (b : Byte) {q : Nat} (hq : 0x200 ≤ q) (hl : ∀ e ∈ low, e.1 < 0x200) (pa : Nat) :
    tfind (low ++ [(q, b)]) pa = if 0x200 ≤ pa then (if q = pa then some b else none) else tfind low pa := by
  induction low with
  | nil => simp only [List.nil_append, tfind]; split <;> split <;> first | rfl | omega | (split <;> rfl)
  | cons e l ih =>
    have he := hl e (List.mem_cons_self ..)
    simp only [List.cons_append, tfind, ih fun x hx => hl x (List.mem_cons_of_mem _ hx)]
    split
    · rw [if_neg (by omega : ¬0x200 ≤ pa)]
    · split
      · rw [if_neg (by omega : ¬0x200 ≤ pa)]
      · rfl
section
variable {low : Memory} {b : Byte} (hq : 0x200 ≤ Config.moduleQueue) (hl : ∀ e ∈ low, e.1 < 0x200)
include hq hl
theorem viewByte_moduleS (pa : Nat) : (moduleS low b).viewByte none pa = if 0x200 ≤ pa then (if Config.moduleQueue + 32 = pa then b else 0) else tgetD 0 low pa := by
  have e : (moduleS low b).viewByte none pa = (moduleS low b).rawByte pa := rfl
  have u (pa : Nat) : Memory.unlisted (moduleS low b).gmeta.lost pa = 0 := rfl
  rw [e, State.rawByte, u, moduleS, tgetD, tfind_low low b (by omega) hl]
  split
  · split <;> rfl
  · rfl
theorem view_moduleS {n pa : Nat} (h : pa + n ≤ 0x200) : (moduleS low b).view none pa n = (List.range n).map fun i => tgetD 0 low (pa + i) := by
  simp only [State.view, State.keyOf, Option.map_none, viewByte_moduleS hq hl]
  exact List.map_congr_left fun i hi => if_neg (by have := List.mem_range.1 hi; omega)
theorem asked_moduleS (fields : List (Nat × Nat)) : Asked (moduleS low b) 8 b.toNat fields (Config.moduleQueue + 32) b.toNat := by
  have hb := b.isLt
  have v (pa n : Nat) (h : Config.moduleQueue ≤ pa) :
      (moduleS low b).view none pa n = (List.range n).map fun i => if Config.moduleQueue + 32 = pa + i then b else 0 := by
    simp only [State.view, State.keyOf, Option.map_none, viewByte_moduleS hq hl]
    exact List.map_congr_left fun i _ => if_pos (by omega)
  have t : (moduleS low b).ringTail Config.moduleQueue = 0 := by
    rw [State.ringTail, State.word, v _ _ (Nat.le_refl _)]
    rw [List.map_congr_left (g := fun _ => 0) fun i hi => if_neg (by have := List.mem_range.1 hi; omega)]; rfl
  have r : (moduleS low b).view none (Config.moduleQueue + 32) 64 = b :: List.replicate 63 0 := by
    rw [v _ _ (by omega)]; simp only [Nat.left_eq_add]; rfl
  refine ⟨⟨_, { size := 1, head := 1, seen := 0 }, rfl, ?_, rfl, ?_⟩, by omega, by omega, fun i h1 _ h => ?_⟩
  · rw [t]; decide
  · rw [r]; simp [ofBytes, List.replicate]
  · rw [Nat.testBit_lt_two_pow (Nat.lt_of_lt_of_le hb (Nat.pow_le_pow_right (by decide) (by omega)))] at h
    cases h
end
/-- Records in the module's queue, wherever that stands above the first 512 bytes: CAPSET of 0 mW; PARTCFG of the descriptor at 0, there all
zeros, which deletes partition 0, or one of two clusters, frame 0 and nothing else. -/
def lawful0 : Memory := [(2, 3), (17, 1), (24, 1)]
def desc0 : Nat := 3 * 2 ^ 16 + 0x100 * 2 ^ 128 + 2 ^ 192
theorem witness_Partitions_module (hq : 0x200 ≤ Config.moduleQueue) :
    Asked (moduleS [] 0x11) 8 0x11 [(64, 32)] (Config.moduleQueue + 32) 0x11 ∧ ((moduleS [] 0x11).parts.map (·.2.floor)).sum ≤ 0 ∧
    Asked (moduleS [] 0x10) 8 0x10 [(64, 64)] (Config.moduleQueue + 32) 0x10 ∧ ofBytes ((moduleS [] 0x10).view none 0 128) = 0 ∧
    Asked (moduleS lawful0 0x10) 8 0x10 [(64, 64)] (Config.moduleQueue + 32) 0x10 ∧ ofBytes ((moduleS lawful0 0x10).view none 0 128) = desc0 ∧
    (moduleS lawful0 0x10).word none 0x100 = 0 ∧ (moduleS [] 0x10).parts = [] ∧ (moduleS [] 0x10).levels = [] := by
  have n : ∀ e ∈ ([] : Memory), e.1 < 0x200 := fun _ h => nomatch h
  have l : ∀ e ∈ lawful0, e.1 < 0x200 := by decide
  refine ⟨asked_moduleS hq n _, by decide +kernel, asked_moduleS hq n _, ?_, asked_moduleS hq l _, ?_, ?_, by decide +kernel, by decide +kernel⟩
  · rw [view_moduleS hq n (by decide)]; decide +kernel
  · rw [view_moduleS hq l (by decide)]; decide +kernel
  · rw [State.word, view_moduleS hq l (by decide)]; decide +kernel
/-- A state with a descriptor at 0x400, whose job and rings are done with. -/
def descS (d : Nat) (s : State := s0) : State := withMem 0x400 128 d { s with levels := [], wgs := [] }
theorem lawful_desc0 : Lawful (descS desc0) 0 (described (descS desc0) desc0 0 0) ∧ (described (descS desc0) desc0 0 0).clmask ≠ 0 ∧
    ¬Lawful (descS (desc0 + 2 ^ 320)) 0 (described (descS (desc0 + 2 ^ 320)) (desc0 + 2 ^ 320) 0 0) := by
  have fr : (described (descS desc0) desc0 0 0).frames = [0] := by decide +kernel
  have own {n : Nat} (h : n ≤ 2 ^ 21) : inFrames (described (descS desc0) desc0 0 0) 0 n := fun f _ h2 => by
    have : f = 0 := by omega
    rw [fr, this]; decide
  have z : (described (descS desc0) desc0 0 0).ctxroot = 0 ∧ (described (descS desc0) desc0 0 0).fq = 0 ∧ (described (descS desc0) desc0 0 0).cq = 0 := by decide +kernel
  refine ⟨⟨by decide +kernel, fun x h => ?_, by decide +kernel, by decide +kernel, by decide +kernel, by decide +kernel, ?_⟩, by decide +kernel, fun h => absurd h.aligned.1 (by decide +kernel)⟩
  · have e : (descS desc0).parts = [] := by decide +kernel
    rw [e] at h; cases h
  · rw [z.1, z.2.1, z.2.2]; exact ⟨own (by decide), own (by decide), own (by decide)⟩
theorem witness_Partitions_record : ([8, 2 ^ 8, 2 ^ 241, 2 ^ 272, 2 ^ 832, 0, desc0].all fun d => decide (ofBytes ((descS d).view none 0x400 128) = d)) = true ∧
    (∃ g ∈ s0.wgs, g.2.part = 0) ∧ (descS 0).levels = [] ∧ (descS 0).wgs = [] ∧ tsorted (descS desc0 parted).parts = true ∧ tsorted (descS desc0 parted).keys = true ∧
    tsorted (descS desc0 parted).jobs.ring = true := by decide +kernel

/-! The device around the cores (R167, R369, R370, R413-R422) -/

/-- Launch queue 0 with one entry, TAIL seen or not. -/
def ringS (rec_ tail seen : Nat) : State :=
  let s := queueAt 0x16000 4 tail (withMem 0x16020 8 rec_ (submitS launchRec 0x1000 (.mend 1)))
  { s with jobs := { s.jobs with ring := [(0, { size := 4, head := 0, seen })] } }
theorem witness_Links_ring : ([(7, 1, 0), (0x200080, 1, 1), (0x400000, 1, 0), (0x200080, 0, 0)].map fun (x : Nat × Nat × Nat) => let s := ringS x.1 x.2.1 x.2.2
      (decide ((s.parts.find? fun x => x.2.qmask.getLsbD 0).isSome), s.ringTail 0x16000, decide (ofBytes (s.view none 0x16020 8) = x.1),
        match s.acceptLaunch 0 [] x.1 with | .miss _ => 0 | .done st .. => st + 1)) =
    [(true, 1, true, 0), (true, 1, true, 2), (true, 1, true, 0), (true, 0, true, 2)] := by decide +kernel
/-- The module's event queue has one record's room, wherever it stands; and none where its SIZE is 0. -/
def eventS (m : Memory) : State := { s0 with mem := m, gmeta := State.reset.gmeta }
theorem viewByte_eventS (pa : Nat) : (eventS [(Config.eventQueue + 8, 1)]).viewByte none pa = if Config.eventQueue + 8 = pa then 1 else 0 := by
  have e : (eventS [(Config.eventQueue + 8, 1)]).viewByte none pa = (eventS [(Config.eventQueue + 8, 1)]).rawByte pa := rfl
  rw [e]; simp only [State.rawByte, eventS, tgetD, tfind]
  split
  · rfl
  · split <;> rfl
theorem word_eventS (pa : Nat) : (eventS [(Config.eventQueue + 8, 1)]).word none pa =
    BitVec.ofNat 32 (ofBytes ((List.range 4).map fun i => if Config.eventQueue + 8 = pa + i then 1 else 0)) := by
  simp only [State.word, State.view, State.keyOf, Option.map_none, viewByte_eventS]
theorem ringSize_eventS : (eventS [(Config.eventQueue + 8, 1)]).ringSize Config.eventQueue = 1 := by
  simp only [State.ringSize, word_eventS, Nat.left_eq_add]; rfl
theorem word_eventS_zero (k : Nat) (hk : k ≤ 4) : (eventS [(Config.eventQueue + 8, 1)]).word none (Config.eventQueue + k) = 0 := by
  rw [word_eventS, List.map_congr_left (g := fun _ => 0) fun i hi => if_neg (by have := List.mem_range.1 hi; omega)]; rfl
theorem tails_eventS (m : Memory) : (eventS m).errs.tails = [] := by show s0.errs.tails = []; decide +kernel
theorem ringUsed_zero {s : State} {q : Nat} (h : s.errs.tails = []) (a : s.word none q = 0) (b : s.word none (q + 4) = 0) : s.ringUsed q = 0 := by
  have e : tfind s.errs.tails q = none := by rw [h]; rfl
  simp [State.ringUsed, State.ownTail, State.ringTail, State.ringHead, e, a, b]
theorem ringSize_empty (q : Nat) : (eventS []).ringSize q = 0 := by
  have n : (eventS []).word none (q + 8) = 0 := rfl
  rw [State.ringSize, n]; rfl
theorem witness_Links_event : HasRoom (eventS [(Config.eventQueue + 8, 1)]) none Config.eventQueue 64 ∧ ¬HasRoom (eventS []) none Config.eventQueue 64 := by
  refine ⟨⟨⟨0, by decide, ringSize_eventS⟩, ?_, fun _ h => nomatch h⟩, fun h => ?_⟩
  · rw [ringUsed_zero (q := Config.eventQueue) (tails_eventS _) (word_eventS_zero 0 (by decide)) (word_eventS_zero 4 (by decide)), ringSize_eventS]; exact Nat.one_pos
  · have u := h.2.1; rw [ringSize_empty] at u; exact Nat.not_lt_zero _ u
/-- CHL trained, peer port 1 too. -/
def linkedS (s : State := s0) : State := { s with boot := { s.boot with stage := .running, chl := some (16, 224), ports := [(1, (16, 224))] } }
theorem reachable_linkedS : reachable (linkedS parted) 0 0x100 32 ∧ ¬reachable (linkedS parted) 0 0x800000 1 ∧ reachable (linkedS s0) 8 0x100 32 ∧ ¬reachable (linkedS parted) 8 0x100 32 := by
  have p : (linkedS parted).parts = [(0, part0)] := by decide +kernel
  refine ⟨.inr ⟨by decide, part0, by decide +kernel, fun f _ h => ?_⟩, fun h => ?_, .inl ⟨rfl, by decide, fun f _ h => ?_⟩, fun h => ?_⟩
  · have : f = 0 := by omega
    rw [this]; decide
  · rcases h with h | ⟨_, q, hq, h⟩
    · exact absurd h.1 (by decide)
    · rw [p] at hq; cases hq; exact absurd (h 4 (by decide) (by decide)) (by decide)
  · have : f = 0 := by omega
    subst this
    refine ⟨by decide, fun q hq => ?_⟩
    rw [show (linkedS s0).parts = [] by decide +kernel] at hq; cases hq
  · rcases h with h | h
    · exact absurd ((h.2.2 0 (by decide) (by decide)).2 (0, part0) (by rw [p]; exact List.mem_cons_self ..)) (by decide)
    · exact h.1 rfl
theorem witness_Links_accesses : linked (linkedS parted) ∧ ¬linked State.reset ∧ clearOfPool (linkedS parted) 0x100 32 ∧ (linkedS parted).poisonAt 0x100 32 = none ∧
    tfind (linkedS).boot.ports 0 = none ∧ tfind (linkedS).boot.ports 1 ≠ none := by
  refine ⟨⟨by decide +kernel, .inr (by decide +kernel)⟩, fun h => h.1 (by decide +kernel), .inr (.inl (by decide)), by decide +kernel, by decide +kernel, by decide +kernel⟩
theorem witness_Links_training : trained [] = none ∧ trained [(4, 56), (8, 112)] = some (8, 112) ∧ State.reset.boot.stage = .held ∧ (linkedS).boot.stage = .running := by decide +kernel
theorem witness_Links_loss : (∀ g ∈ s0.wgs, ∀ w ∈ g.2.warps, w.accs = [] ∧ w.wait = none) ∧
    (let s := withAccs [{ pendingLoad with pa := 2 ^ 55 + 2 ^ 51 + 0x80 }]; s.warp? me = some (wOf s) ∧ (wOf s).accs = [{ pendingLoad with pa := 2 ^ 55 + 2 ^ 51 + 0x80 }] ∧
      (2 ^ 55 + 2 ^ 51 + 0x80) / 2 ^ 54 = 2 ∧ (2 ^ 55 + 2 ^ 51 + 0x80) / 2 ^ 51 % 8 = 1 ∧ pendingLoad.space = .g ∧ pendingLoad.kind = .read ∧ (wOf s).wait = none ∧ (wOf s).retired = false) := by decide +kernel

def syncS (locked stepped : Bool) (good lastSync clk : Nat) : State := { linkedS with clock := { s0.clock with locked, stepped, good, lastSync, clk } }
theorem witness_DeviceSteps_sync : linked (syncS true true 0 0 0) ∧ ¬linked s0 ∧ ([(50, 15), (51, 15), (-50, 3)].map fun (x : Int × Nat) => if |x.1| ≤ 50 then x.2 + 1 else 0) = [16, 0, 4] ∧
    (syncS true true 3 0 3000000000).clock.lastSync + 1000000000 ≤ (syncS true true 3 0 3000000000).time ∧ (syncS true true 3 0 2999999999).time < 1000000000 ∧
    (s0.clock.clk < 2 ^ 64 ∧ 0 ≤ (s0.clock.clk : Int) - s0.clock.k ∧ ((s0.clock.clk : Int) - s0.clock.k) / 3 < 2 ^ 64) := by
  refine ⟨⟨by decide +kernel, .inr (by decide +kernel)⟩, fun h => h.1 (by decide +kernel), by decide +kernel, by decide +kernel, by decide +kernel, by decide +kernel⟩
theorem witness_DeviceSteps_boundary : (parted.parts.find? fun x => x.2.clmask.getLsbD 0) = some (0, part0) ∧ ((parted.parts.map (·.2.floor)).sum = 0) ∧
    (({ s0 with parts := [(0, { part0 with floor := 500000 })] } : State).parts.map (·.2.floor)).sum = 500000 := by decide +kernel
theorem witness_DeviceSteps_dump : s0.time / 1000000 = s0.clock.dumped ∧ ({ s0 with clock := { s0.clock with clk := 3000000 } } : State).time / 1000000 ≠ s0.clock.dumped := by decide +kernel
theorem witness_DeviceSteps_pulse : (linkedS).boot.stage ≠ .held ∧ State.reset.boot.stage = .held ∧ ([0, 1, 16].map fun n => decide (n = 0 ∨ n % 16 ≠ 0)) = [true, true, false] ∧ (15 : Nat) < 16 := by decide +kernel

/-! Encoding and steps (R35, R36, R46, R299) -/

theorem witness_RoundTrip : wellFormed (.add plainAdd) = true ∧ (encode (.add plainAdd)).isSome = true ∧ (opcodeOf (.add plainAdd)).isSome = true ∧
    (match decode (dwordBytes 0x00071280_80308003) with | .ok (_, rest) => rest.isEmpty | .error _ => false) = true := by decide +kernel
/-- The turn of warp 0, its PC at a NOP; the same in the middle of an instruction. -/
def turnS (s : State := s0) : State := { s with agenda := [.turn me] }
theorem witness_StepRunsDecoded : Turn turnS me [] ∧ MayIssue s0 me (wOf s0) ∧ inProgress (wOf s0).wait = false ∧
    FetchesWords me (wOf s0) s0 (wOf s0).pc.toNat [0x1807000000000000] s0 ∧ (match decode (dwordBytes 0x1807000000000000) with | .ok (.nop _, []) => true | _ => false) = true := by
  refine ⟨.inr ⟨rfl, by decide +kernel⟩, ⟨by decide +kernel, by decide +kernel, by decide +kernel, by decide +kernel, by decide +kernel⟩, by decide +kernel, ⟨s0, by decide +kernel, rfl⟩, by decide +kernel⟩
def midS : State := withW (fun w => { w with slot := some (.nop (fld 0 0 0 0 0)) }) (sleepS 100 true)
theorem witness_StepRunsDecoded_middle : MayIssue midS me (wOf midS) ∧ inProgress (wOf midS).wait = true ∧ (wOf midS).slot = some (.nop (fld 0 0 0 0 0)) ∧ s0.urgent = [] := by
  refine ⟨⟨by decide +kernel, by decide +kernel, by decide +kernel, by decide +kernel, by decide +kernel⟩, by decide +kernel, by decide +kernel, by decide +kernel⟩
theorem witness_StepRunsDecoded_fetch : ((wOf s0).tr.find? fun x => x.1 = 0x10080 / 65536) = none ∧ (∃ t, s0.tlbAt 0 0 0x10080 = some t ∧ pteEx t.pte = true ∧ s0.portDown t.pa = false ∧
      s0.poisonAt (t.pa / 8 * 8) 8 = none) ∧ s0.gmeta.hist.length ≤ (s0.core 0).fence ∧ (decodeTableWord 64 0x1807000000000000).isSome = true := by
  exact ⟨by decide +kernel, ⟨_, rfl, by decide +kernel, by decide +kernel, by decide +kernel⟩, by decide +kernel, by decide +kernel⟩
theorem inv_s0 : s0.Inv ∧ (match step s0 with | .next _ => true | _ => false) = true := by
  exact ⟨⟨by decide +kernel, by decide +kernel, by decide +kernel, by decide +kernel, by decide +kernel, by decide +kernel, by decide +kernel⟩, by decide +kernel⟩

/-! Results that the manual works out -/

/-- R73: the table of values rounded to E2M1 under RNE, RTZ, RDN and RUP. -/
theorem test_e2m1 : ([0x3E800000, 0x3F400000, 0x3FA00000, 0x3FE00000, 0x40200000, 0xC0200000, 0x40600000, 0x40A00000, 0x40E00000, 0xBE4CCCCD].map fun x =>
      (List.range 4).map fun m => (roundVal fmtE2M1 m (unpack fmtF32 x)).1) =
    [[0, 0, 0, 1], [2, 1, 1, 2], [2, 2, 2, 3], [4, 3, 3, 4], [4, 4, 4, 5], [12, 12, 13, 12], [6, 5, 5, 6], [6, 6, 6, 7], [7, 7, 7, 7], [0, 0, 9, 0]] ∧
    ([0x3E800000, 0x40200000, 0x40E00000].map fun x => (roundVal fmtE2M1 0 (unpack fmtF32 x)).2) = [flagINX ||| flagUFL, flagINX, flagINX ||| flagISAT] := by decide +kernel
/-- R74: 1.25, 1.25, 0.25 and 3.75 narrowed in turn with error feedback. -/
theorem test_errorFeedback : ([(0x3FA00000, 0), (0x3FA00000, 0x3E800000), (0x3E800000, 0), (0x40700000, 0x3E800000)].map fun (x : Nat × Nat) => let r := roundEf fmtE2M1 x.1 x.2; (r.1, r.2.1)) =
    [(2, 0x3E800000), (3, 0), (0, 0x3E800000), (6, 0)] := by decide +kernel
/-- R85: the byte classes of 0x41, 0xC3, 0xA9 and 0xE2. -/
theorem test_perm : afterW (.perm (fld 2 1 0x108 0 3)) (withV 2 (fun r _ => if r = 1 then 0xE2A9C341 else 0) (withS [(8, 0x01010101), (9, 0x01010101), (10, 0x02020202), (11, 0x10080404)]))
    (fun w => w.final (.v 2 0) = 0x08020401) = true := by decide +kernel
/-- R66-R68, R99: code 0b1000 under header 0xD9 with TBASE 2 is -6. -/
theorem test_widen : afterW (.widen (fld 2 6 8 0x1E0 0)) (withW (fun w => { w with tbase := 2 }) (withV 8 fun r _ => if r = 6 then 8 else if r = 7 then 0xD9 else 0))
    (fun w => w.final (.v 2 0) = 0xC0C00000) = true := by decide +kernel
/-- 04_compute_ops: CVT.I32.F32 of 2.5 is 2 under RNE and 3 under RUP. -/
theorem test_cvt : ([0, 3].map fun m => (match exec (.cvt (fld 3 2 0x030 0 m)) (withV 3 fun _ _ => 0x40200000) with | .next t => (t.warp? me).map fun w => w.final (.v 3 0) | _ => none)) = [some 2, some 3] := by
  decide +kernel
/-- R120: the group of four products into an element, under BEXP 0 and 40, and with every weight's sign reversed. -/
theorem test_group : let ps (neg : Bool) : List (Bool × Nat × Int) := [(neg, 27, -2), (neg, 15, -5), (!neg, 1, -10), (neg, 1, -40)]
    (groupSum (ps false) 0).1 = 0x737C00000000 ∧ (groupSum (ps false) 40).1 = 115 ∧ (groupSum (ps true) 40).1 = -116 := by decide +kernel
/-- R122: that element read out as FP32 and FP16 under RNE with B = 0. -/
theorem test_cread : ([0, 1].map fun m => (match exec (.cread (fld 40 0x102 0x103 0x1E0 m)) ((withW (fun w => { w with cwb := 2, cwl := 6 }) (withS [(2, 2), (3, 0)])).modCore 0 fun k => { k with c := [(256, 0x737C00000000)] }) with
      | .next t => ((t.warp? me).map fun w => w.pends.map fun p => (p.vals.map (·.2)).eraseDups) | _ => none)) = [some [[0x40E6F800]], some [[0x4738]]] := by decide +kernel
/-- R275: hash(0, 0, 0) = 0. -/
theorem test_hash : treeHash 0 0 0 = 0 := by decide +kernel
/-- R291: BR.FT on eight threads of which 0-3 go to the taken path, and the JOIN that starts them. -/
def eight (em : Mask) (l : List Split) : State := withW (fun w => { w with em, p := [(1, 0xF)], splits := l, exited := 0, never := 0xFFFFFF00 }) s0
theorem test_branch : afterW (.br { fld 0 0 0 0 1 0x30_00000028 with gp := 1 }) (eight 0xFF []) (fun w => w.em = 0xF0 && w.pc = 0x10010 &&
      w.splits.map (fun e => (e.ja, e.u, e.pend, e.pstart, e.resume)) = [(0x10030, 0xFF, 0xF, 0x10028, false)]) = true ∧
    afterW (.join (fld 0 0 0 0 0)) (eight 0xF0 [{ ja := 0x10000, u := 0xFF, pend := 0xF, pstart := 0x10050, resume := false, did := 0 }])
      (fun w => w.em = 0xF && w.pc = 0x10050 && w.splits.map (fun e => (e.pend, e.resume)) = [(0, true)]) = true := by decide +kernel
/-- 09_async_ops: the collective of 4,096 and 100 bytes is promised for CLK 10,538, its status word, its stage. -/
theorem test_promise : let c : Cmd := { copyCmd with promise := none, body := .copy .g .a 0 [slice1 4096, { slice1 100 with wix := 1, src := 0x11100, dst := 0x1100 }] true false none }
    (clockAt 10006 (cmdS c)).promiseOf c = 10538 ∧ statusOf 1 0 0 0 4196 = 0x0000_1064_0000_0001 := by decide +kernel
/-- R375: word 0 of the frame of the missed promise. -/
theorem test_frame : (trapFrame (wOf s0) 0 { cause := .promiseMissed }).getD 0 0 = 0x00010058 := by decide +kernel

end Sys2Proof.Tests
end

section
/-!
PROOFS. The context in which an instruction of the chapter on integer, address and floating-point results executes: what its checks at
decode leave possible, and how a rule about its values becomes a rule about the machine (R40, R41, R44, R80).
-/
namespace Sys2Proof.Machine

/-- The context of an instruction `f` of opcode `op` whose checks at decode have passed (R44). -/
structure Ctx.Legal (c : Ctx) (op : Nat) (f : Fields) : Prop where
  fields : c.f = f
  sig    : sigOf op f = some c.sg

theorem Ready.ctxLegal {op : Nat} {f : Fields} {s : State} {w : Warp} (h : Ready op f s w) : (ctxOf op f s w).Legal op f where
  fields := ctxOf_f ..
  sig := by rw [ctxOf_sg]; exact sigOf_of_legal h.legal

/-- A result of the rules, a value with its flags, as a result of the compute instructions. -/
def Val.of (r : Nat × Word) : Val := { v := r.1, flags := r.2 }

/-- An instruction of the computing opcodes is as `Computes` says where its function agrees with the rule on legal contexts. -/
theorem computes_of_value {i : Instr} {op : Nat} {f : Fields} {val : Ctx → Warp → Nat × Nat → Nat × Word}
    {fn : Ctx → Warp → Nat × Nat → Val} (hop : 0x10 ≤ op ∧ op < 0x60) (he : ∀ s, exec i s = compute op f s fn)
    (hv : ∀ c w x, c.Legal op f → fn c w x = Val.of (val c w x)) : Computes i op f val :=
  compute_spec he (fun _ hl => compute_byDest hop hl) fun _ _ _ hr _ => hv _ _ _ hr.ctxLegal

/-- The value of a register or immediate operand fits the width of its form. -/
theorem Ctx.val_slotRI_lt (c : Ctx) (w : Warp) (code : Code9) (t j : Nat) (b : Bool) :
    c.val w code (slotRI (wide b)) t j < 2 ^ bitsIf b := by
  cases b
  · exact c.val_lt w code (k := { v := true, s := true, i := true, w := 1 }) t j (by decide)
  · exact c.val_lt w code (k := { v := true, s := true, i := true, w := 2 }) t j (by decide)

theorem Ctx.valA_lt {c : Ctx} {b : Bool} (ha : c.sg.a = slotRI (wide b)) (w : Warp) (x : Nat × Nat) : c.valA w x < 2 ^ bitsIf b := by
  rw [Ctx.valA, ha]; exact c.val_slotRI_lt ..

theorem Ctx.valB_lt {c : Ctx} {b : Bool} (hb : c.sg.b = slotRI (wide b)) (w : Warp) (x : Nat × Nat) : c.valB w x < 2 ^ bitsIf b := by
  rw [Ctx.valB, hb]; exact c.val_slotRI_lt ..

theorem bitsIf_form (m : BitVec 3) : bitsIf (m = 1) = bitsForm m := by simp [bitsIf, bitsForm]

theorem form_eq_zero (m : BitVec 3) : m.toNat = 0 ↔ m = 0 := BitVec.toNat_inj (x := m) (y := 0)

theorem form_eq_one (m : BitVec 3) : m.toNat = 1 ↔ m = 1 := BitVec.toNat_inj (x := m) (y := 1)

theorem bitsIf_toNat_form (m : BitVec 3) : bitsIf (m.toNat = 1) = bitsForm m := by
  simp only [form_eq_one, bitsIf_form]

section operands
variable {c : Ctx} {op : Nat} {f : Fields} (h : c.Legal op f) (w : Warp) (x : Nat × Nat)
include h

theorem Ctx.Legal.addSub_form (hop : op = 0x12 ∨ op = 0x13) : f.m.toNat ≤ 5 := by
  have hs := h.sig
  rcases hop with rfl | rfl <;> simp [sigOf, sigControlInt] at hs <;> exact hs.1

theorem Ctx.Legal.compare_form (hop : op = 0x26 ∨ op = 0x27 ∨ op = 0x28 ∨ op = 0x2A) : f.m.toNat ≤ 3 := by
  have hs := h.sig
  rcases hop with rfl | rfl | rfl | rfl <;> simp [sigOf, sigControlInt] at hs <;> exact hs.1

/-- The first operand of a logic, shift or bit-count instruction has the width of the form. -/
theorem Ctx.Legal.valA_lt_form (hop : op ∈ [0x18, 0x19, 0x1A, 0x1B, 0x1C, 0x1D, 0x1E, 0x1F, 0x22, 0x23]) :
    c.valA w x < 2 ^ bitsForm f.m := by
  have hs := h.sig
  rw [← bitsIf_toNat_form]
  refine c.valA_lt ?_ w x
  simp only [List.mem_cons, List.not_mem_nil, or_false] at hop
  rcases hop with rfl | rfl | rfl | rfl | rfl | rfl | rfl | rfl | rfl | rfl <;> simp [sigOf, sigControlInt] at hs <;> rw [← hs.2]

theorem Ctx.Legal.valB_lt_form (hop : op ∈ [0x18, 0x19, 0x1A]) : c.valB w x < 2 ^ bitsForm f.m := by
  have hs := h.sig
  rw [← bitsIf_toNat_form]
  refine c.valB_lt ?_ w x
  simp only [List.mem_cons, List.not_mem_nil, or_false] at hop
  rcases hop with rfl | rfl | rfl <;> simp [sigOf, sigControlInt] at hs <;> rw [← hs.2]

/-- The operands of SETP have the width of the type that M names. -/
theorem Ctx.Legal.setp_lt (hop : op = 0x2A) :
    c.valA w x < 2 ^ bitsIf (f.m.toNat ≥ 2) ∧ c.valB w x < 2 ^ bitsIf (f.m.toNat ≥ 2) := by
  have hs := h.sig
  subst hop
  simp [sigOf, sigControlInt] at hs
  exact ⟨c.valA_lt (by simp [← hs.2]) w x, c.valB_lt (by simp [← hs.2]) w x⟩

/-- The operands of MULH are words. -/
theorem Ctx.Legal.mulh_lt (hop : op = 0x15) : c.valA w x < 2 ^ 32 ∧ c.valB w x < 2 ^ 32 := by
  have hs := h.sig
  subst hop
  simp [sigOf, sigControlInt] at hs
  exact ⟨c.valA_lt (b := false) (by rw [← hs.2]; rfl) w x, c.valB_lt (b := false) (by rw [← hs.2]; rfl) w x⟩

theorem Ctx.Legal.bfe_form (hop : op = 0x20) : f.m.toNat ≤ 1 := by
  have hs := h.sig
  subst hop
  simp [sigOf, sigControlInt] at hs
  exact hs.1

/-- The operand into which BFI inserts is a word. -/
theorem Ctx.Legal.bfi_valB_lt (hop : op = 0x21) : c.valB w x < 2 ^ 32 := by
  have hs := h.sig
  subst hop
  simp [sigOf, sigControlInt] at hs
  exact c.valB_lt (b := false) (by rw [← hs.2]; rfl) w x

end operands

end Sys2Proof.Machine
end

section
/-!
PROOFS. Integer arithmetic.
-/
namespace Sys2Proof.Machine

/-! Saturation and wrapping of exact integers (R59) -/

theorem wrapTo_of_nonneg {w : Nat} {x : Int} (h0 : 0 ≤ x) (h1 : x < 2 ^ w) : wrapTo w x = x.toNat := by
  rw [wrapTo, Int.emod_eq_of_lt h0 h1]

theorem wrapTo_of_neg {w : Nat} {x : Int} (h0 : x < 0) (h1 : -2 ^ w ≤ x) : wrapTo w x = (x + 2 ^ w).toNat := by
  rw [wrapTo, ← Int.add_emod_right, Int.emod_eq_of_lt (by omega) (by omega)]

/-- Clamping into the range of I(w) and cutting to `w` bits is saturation. -/
theorem satI_eq {w : Nat} (hw : 0 < w) (x : Int) : satI w x = satSigned w x := by
  have h2 : (2 : Int) ^ w = 2 * 2 ^ (w - 1) := by exact_mod_cast two_pow_pred hw
  have hc : (2 : Int) ^ (w - 1) = ((2 ^ (w - 1) : Nat) : Int) := by push_cast; rfl
  have hp : (0 : Int) < 2 ^ (w - 1) := by positivity
  unfold satI satSigned clampInt minI maxI
  by_cases hhi : x > 2 ^ (w - 1) - 1
  · simp only [if_pos hhi, whenFlag, if_true, Prod.mk.injEq, and_true]
    rw [wrapTo_of_nonneg (by omega) (by omega)]
    omega
  · by_cases hlo : x < -2 ^ (w - 1)
    · simp only [if_neg hhi, if_pos hlo, whenFlag, if_true, Prod.mk.injEq, and_true]
      rw [wrapTo_of_neg (by omega) (by omega)]
      omega
    · simp only [if_neg hhi, if_neg hlo, wrapTo_eq]
      rfl

/-- Clamping into the range of N(w) and cutting to `w` bits is saturation. -/
theorem satN_eq (w : Nat) (x : Int) : satN w x = satUnsigned w x := by
  have hc : (2 : Int) ^ w = ((2 ^ w : Nat) : Int) := by push_cast; rfl
  have hp : (0 : Int) < 2 ^ w := by positivity
  unfold satN satUnsigned clampInt maxN
  by_cases hhi : x > 2 ^ w - 1
  · simp only [if_pos hhi, whenFlag, if_true, Prod.mk.injEq, and_true]
    rw [wrapTo_of_nonneg (by omega) (by omega)]
    omega
  · by_cases hlo : x < 0
    · simp only [if_neg hhi, if_pos hlo, whenFlag, if_true, Prod.mk.injEq, and_true]
      rw [wrapTo_of_nonneg le_rfl hp, Int.toNat_zero]
    · simp only [if_neg hhi, if_neg hlo]
      rw [wrapTo_of_nonneg (by omega) (by omega)]
      rfl

theorem asI_eq_signed {w : Nat} (hw : 0 < w) (n : Nat) : asI w n = signed w n := asI_eq w n hw

theorem wrapTo_eq_wrapped (w : Nat) (x : Int) : wrapTo w x = (wrapped w x).1 := wrapTo_eq w x

theorem wrapped_flags (w : Nat) (x : Int) : (wrapped w x).2 = 0 := rfl

/-! ADD, SUB, MUL, MULH, MAD and MADW (R81) -/

theorem addForm_eq {m : Nat} (hm : m ≤ 5) (op : Int → Int → Int) (a b : Nat) : addForm m op a b = Val.of (addRule m op a b) := by
  interval_cases m <;>
    simp [addForm, addRule, bitsIf, Val.of, satI_eq, satN_eq, asI_eq_signed, wrapTo_eq_wrapped, wrapped_flags]

/-- Bits [63:32] of the exact product. -/
theorem mulhForm_eq {a b : Nat} (ha : a < 2 ^ 32) (hb : b < 2 ^ 32) (m : BitVec 3) : mulhForm m.toNat a b =
    ((if m = 0 then (BitVec.ofNat 32 a).signExtend 64 * (BitVec.ofNat 32 b).signExtend 64
      else BitVec.ofNat 64 a * BitVec.ofNat 64 b) >>> 32).toNat := by
  by_cases h0 : m = 0
  · have hp : (BitVec.ofNat 32 a).signExtend 64 * (BitVec.ofNat 32 b).signExtend 64 = BitVec.ofInt 64 (signed 32 a * signed 32 b) := by
      rw [BitVec.ofInt_mul]; rfl
    rw [mulhForm, if_pos ((form_eq_zero m).2 h0), if_pos h0, hp, BitVec.toNat_ushiftRight, Nat.shiftRight_eq_div_pow,
      asI_eq_signed (by decide), asI_eq_signed (by decide), wrapTo_eq]
  · have hab : a * b < 2 ^ 32 * 2 ^ 32 := Nat.mul_lt_mul'' ha hb
    rw [mulhForm, if_neg (mt (form_eq_zero m).1 h0), if_neg h0, BitVec.toNat_ushiftRight, Nat.shiftRight_eq_div_pow,
      ← BitVec.ofNat_mul, BitVec.toNat_ofNat, Nat.mod_eq_of_lt (by omega)]

theorem madwForm_eq (m : BitVec 3) (a b c : Nat) : madwForm m.toNat a b c = (wrapped 64 (if m = 0
    then signed 32 a * signed 32 b + signed 64 c else (a : Int) * b + c)).1 := by
  simp only [madwForm, form_eq_zero, asI_eq_signed (show 0 < 32 by decide), asI_eq_signed (show 0 < 64 by decide), wrapTo_eq_wrapped]
  split <;> rfl

theorem addSubRules_holds : addSubRules := fun f =>
  ⟨computes_of_value (by decide) (exec_add · f) fun c w x h => by rw [h.fields]; exact addForm_eq (h.addSub_form (.inl rfl)) ..,
   computes_of_value (by decide) (exec_sub · f) fun c w x h => by rw [h.fields]; exact addForm_eq (h.addSub_form (.inr rfl)) ..⟩

theorem multiplyRules_holds : multiplyRules := by
  intro f
  refine ⟨computes_of_value (by decide) (exec_mul · f) fun c w x h => ?_,
    computes_of_value (by decide) (exec_mulh · f) fun c w x h => ?_,
    computes_of_value (by decide) (exec_mad · f) fun c w x h => ?_,
    computes_of_value (by decide) (exec_madw · f) fun c w x h => ?_⟩
  · rw [h.fields]
    split <;> simp_all [mulForm, bitsIf, Val.of, satI_eq, satN_eq, asI_eq_signed, wrapTo_eq_wrapped, wrapped_flags]
  · rw [h.fields, mulhForm_eq (h.mulh_lt w x rfl).1 (h.mulh_lt w x rfl).2]
    rfl
  · rw [h.fields]
    split <;> simp_all [madForm, Val.of, satI_eq, satN_eq, asI_eq_signed, wrapTo_eq_wrapped, wrapped_flags]
  · rw [h.fields, madwForm_eq]
    rfl

/-- Settles O1: the rules of ADD and SUB and those of the multiplications. -/
theorem integerArithmetic : Obligations.IntegerArithmetic := ⟨addSubRules_holds, multiplyRules_holds⟩

end Sys2Proof.Machine
end

section
/-!
PROOFS. Logic and shifts.
-/
namespace Sys2Proof.Machine

/-! AND, OR, XOR, NOT, SHL, SHR, SAR and ROTL as operations on bit vectors (R82) -/

theorem toNat_ofNat_lt {n a : Nat} (h : a < 2 ^ n) : (BitVec.ofNat n a).toNat = a := by
  rw [BitVec.toNat_ofNat, Nat.mod_eq_of_lt h]

theorem land_eq {n a b : Nat} (ha : a < 2 ^ n) (hb : b < 2 ^ n) : Nat.land a b = (BitVec.ofNat n a &&& BitVec.ofNat n b).toNat := by
  rw [BitVec.toNat_and, toNat_ofNat_lt ha, toNat_ofNat_lt hb]; rfl

theorem lor_eq {n a b : Nat} (ha : a < 2 ^ n) (hb : b < 2 ^ n) : Nat.lor a b = (BitVec.ofNat n a ||| BitVec.ofNat n b).toNat := by
  rw [BitVec.toNat_or, toNat_ofNat_lt ha, toNat_ofNat_lt hb]; rfl

theorem xor_eq {n a b : Nat} (ha : a < 2 ^ n) (hb : b < 2 ^ n) : Nat.xor a b = (BitVec.ofNat n a ^^^ BitVec.ofNat n b).toNat := by
  rw [BitVec.toNat_xor, toNat_ofNat_lt ha, toNat_ofNat_lt hb]; rfl

theorem notForm_eq {n a : Nat} (ha : a < 2 ^ n) : notForm n a = (~~~BitVec.ofNat n a).toNat := by
  rw [BitVec.toNat_not, toNat_ofNat_lt ha]; rfl

/-- A shift by the width or more leaves nothing. -/
theorem shlForm_eq (n a k : Nat) : shlForm n a k = (BitVec.ofNat n a <<< k).toNat := by
  rw [BitVec.toNat_shiftLeft, BitVec.toNat_ofNat, Nat.shiftLeft_eq, Nat.mod_mul_mod, shlForm]
  split
  · exact (Nat.mod_eq_zero_of_dvd (Dvd.dvd.mul_left (Nat.pow_dvd_pow 2 ‹_›) a)).symm
  · rfl

theorem shrForm_eq {n a : Nat} (ha : a < 2 ^ n) (k : Nat) : shrForm n a k = (BitVec.ofNat n a >>> k).toNat := by
  rw [BitVec.toNat_ushiftRight, toNat_ofNat_lt ha, Nat.shiftRight_eq_div_pow, shrForm]
  split
  · exact (Nat.div_eq_of_lt (ha.trans_le (Nat.pow_le_pow_right (by decide) ‹_›))).symm
  · rfl

/-- Between −2^n and 2^n a division by 2^n already gives the sign alone. -/
theorem ediv_pow_min {n : Nat} {x : Int} (h0 : -2 ^ n ≤ x) (h1 : x < 2 ^ n) (k : Nat) : x / 2 ^ min k n = x / 2 ^ k := by
  rcases le_total k n with hk | hk
  · rw [min_eq_left hk]
  · have hle : (2 : Int) ^ n ≤ 2 ^ k := pow_le_pow_right₀ (by decide) hk
    rw [min_eq_right hk]
    rcases lt_or_ge x 0 with hx | hx
    · rw [Int.ediv_eq_neg_one_of_neg_of_le hx (by omega), Int.ediv_eq_neg_one_of_neg_of_le hx (by omega)]
    · rw [Int.ediv_eq_zero_of_lt hx h1, Int.ediv_eq_zero_of_lt hx (by omega)]

theorem sarForm_eq {n : Nat} (hn : 0 < n) (a k : Nat) : sarForm n a k = ((BitVec.ofNat n a).sshiftRight k).toNat := by
  have hlo := BitVec.two_mul_toInt_lt (x := BitVec.ofNat n a)
  have hhi := BitVec.le_two_mul_toInt (x := BitVec.ofNat n a)
  have hp : (0 : Int) < 2 ^ n := by positivity
  rw [sarForm, wrapTo_eq, asI_eq_signed hn, signed, ediv_pow_min (by omega) (by omega), BitVec.sshiftRight, Int.shiftRight_eq_div_pow]
  push_cast
  rfl

theorem rotlForm_eq {n a : Nat} (ha : a < 2 ^ n) (hn : 0 < n) (k : Nat) : rotlForm n a k = ((BitVec.ofNat n a).rotateLeft k).toNat := by
  rw [BitVec.toNat_rotateLeft, toNat_ofNat_lt ha, Nat.shiftLeft_eq, Nat.shiftRight_eq_div_pow, rotlForm]
  have hk := Nat.mod_lt k hn
  generalize k % n = r at *
  have hs : 2 ^ n = 2 ^ r * 2 ^ (n - r) := by rw [← Nat.pow_add]; congr 1; omega
  have hq : a / 2 ^ (n - r) < 2 ^ r := by rw [Nat.div_lt_iff_lt_mul (by positivity)]; omega
  have hm : a * 2 ^ r % 2 ^ n = 2 ^ r * (a % 2 ^ (n - r)) := by rw [hs, Nat.mul_comm a, Nat.mul_mod_mul_left]
  rw [hm]
  exact Nat.two_pow_add_eq_or_of_lt hq _

theorem bitsForm_pos (m : BitVec 3) : 0 < bitsForm m := by rw [bitsForm]; split <;> decide

/-- Settles O2: each form as an operation on the bit vectors of its operands, which fit the width. -/
theorem logicShift : Obligations.LogicShift := by
  intro f
  refine ⟨computes_of_value (by decide) (exec_and · f) fun c w x h => ?_,
    computes_of_value (by decide) (exec_or · f) fun c w x h => ?_,
    computes_of_value (by decide) (exec_xor · f) fun c w x h => ?_,
    computes_of_value (by decide) (exec_not · f) fun c w x h => ?_,
    computes_of_value (by decide) (exec_shl · f) fun c w x h => ?_,
    computes_of_value (by decide) (exec_shr · f) fun c w x h => ?_,
    computes_of_value (by decide) (exec_sar · f) fun c w x h => ?_,
    computes_of_value (by decide) (exec_rotl · f) fun c w x h => ?_⟩
  · rw [land_eq (h.valA_lt_form w x (by decide)) (h.valB_lt_form w x (by decide))]; rfl
  · rw [lor_eq (h.valA_lt_form w x (by decide)) (h.valB_lt_form w x (by decide))]; rfl
  · rw [xor_eq (h.valA_lt_form w x (by decide)) (h.valB_lt_form w x (by decide))]; rfl
  · rw [h.fields, bitsIf_form, notForm_eq (h.valA_lt_form w x (by decide))]; rfl
  · rw [h.fields, bitsIf_form, shlForm_eq]; rfl
  · rw [h.fields, bitsIf_form, shrForm_eq (h.valA_lt_form w x (by decide))]; rfl
  · rw [h.fields, bitsIf_form, sarForm_eq (bitsForm_pos _)]; rfl
  · rw [h.fields, bitsIf_form, rotlForm_eq (h.valA_lt_form w x (by decide)) (bitsForm_pos _)]; rfl

end Sys2Proof.Machine
end

section
/-!
PROOFS. Bit fields, bit counts and PERM.
-/
namespace Sys2Proof.Machine

/-! BFE and BFI (R83) -/

theorem bitsOf_eq (n lo len : Nat) : bitsOf n lo len = n / 2 ^ lo % 2 ^ len := by rw [bitsOf, Nat.shiftRight_eq_div_pow]

theorem bitsOf_lt (n lo len : Nat) : bitsOf n lo len < 2 ^ len := Nat.mod_lt _ (by positivity)

theorem fieldOf_fits (ctl : Nat) : (fieldOf ctl).1 + (fieldOf ctl).2 ≤ 32 := by
  simp only [fieldOf]; omega

/-- A field of `l` bits read as I(l) and cut to a word: where its top bit is set, the bits above it are set too. -/
theorem wrapTo_asI_field {l v : Nat} (hl : 0 < l) (hl2 : l ≤ 32) (hv : v < 2 ^ l) :
    wrapTo 32 (asI l v) = if 2 ^ (l - 1) ≤ v then v + 2 ^ 32 - 2 ^ l else v := by
  have h2 := two_pow_pred hl
  have hle : 2 ^ l ≤ 2 ^ 32 := Nat.pow_le_pow_right (by decide) hl2
  have hc : (2 : Int) ^ l = ((2 ^ l : Nat) : Int) := by push_cast; rfl
  rw [asI, Nat.mod_eq_of_lt hv]
  by_cases hs : 2 ^ (l - 1) ≤ v
  · rw [if_neg (by omega), if_pos hs, wrapTo_of_neg (by omega) (by omega)]
    omega
  · rw [if_pos (by omega), if_neg hs, wrapTo_of_nonneg (by omega) (by omega)]
    omega

theorem bfeForm_eq {m : BitVec 3} (hm : m.toNat ≤ 1) (a ctl : Nat) : bfeForm m.toNat a ctl =
    let p := (fieldOf ctl).1
    let l := (fieldOf ctl).2
    let field := a / 2 ^ p % 2 ^ l
    if m = 1 ∧ 0 < l ∧ 2 ^ (l - 1) ≤ field then field + 2 ^ 32 - 2 ^ l else field := by
  have hfit := fieldOf_fits ctl
  simp only [bfeForm]
  generalize (fieldOf ctl).1 = p at *
  generalize (fieldOf ctl).2 = l at *
  simp only [← bitsOf_eq, ← form_eq_one]
  by_cases hl : l = 0
  · subst hl; simp [bitsOf, Nat.mod_one]
  · by_cases h0 : m.toNat = 0
    · simp [hl, h0]
    · have h1 : m.toNat = 1 := by omega
      simp [hl, h1, Nat.pos_of_ne_zero hl, wrapTo_asI_field (Nat.pos_of_ne_zero hl) (show l ≤ 32 by omega) (bitsOf_lt ..)]

theorem bitSum_succ (n : Nat) (p : Nat → Bool) : bitSum (n + 1) p = 2 ^ n * (p n).toNat + bitSum n p := by
  rw [bitSum, List.sum_range_succ, bitSum]; ring

theorem bitSum_lt (n : Nat) (p : Nat → Bool) : bitSum n p < 2 ^ n := by
  induction n with
  | zero => simp [bitSum]
  | succ n ih =>
    rw [bitSum_succ, Nat.pow_succ]
    cases p n <;> simp <;> omega

/-- Its bits are those it is built from. -/
theorem testBit_bitSum (n : Nat) (p : Nat → Bool) (i : Nat) : (bitSum n p).testBit i = (decide (i < n) && p i) := by
  induction n with
  | zero => simp [bitSum]
  | succ n ih =>
    rw [bitSum_succ, Nat.testBit_two_pow_mul_add _ (bitSum_lt n p), ih]
    rcases Nat.lt_trichotomy i n with h | rfl | h
    · simp [h, Nat.lt_succ_of_lt h]
    · cases p i <;> simp
    · simp [Nat.testBit_bool_toNat, show ¬i < n by omega, show ¬i < n + 1 by omega, show ¬i - n = 0 by omega]

/-- BFI bit by bit. -/
theorem bfiForm_eq (a : Nat) {b : Nat} (hb : b < 2 ^ 32) (ctl : Nat) : bfiForm a b ctl =
    bitSum 32 fun i => if (fieldOf ctl).1 ≤ i ∧ i < (fieldOf ctl).1 + (fieldOf ctl).2 then a.testBit (i - (fieldOf ctl).1)
      else b.testBit i := by
  have hfit := fieldOf_fits ctl
  apply Nat.eq_of_testBit_eq
  intro i
  rw [testBit_bitSum]
  simp only [bfiForm]
  generalize (fieldOf ctl).1 = p at *
  generalize (fieldOf ctl).2 = l at *
  have hbi : b.testBit i = (decide (i < 32) && b.testBit i) := by rw [← Nat.testBit_mod_two_pow, Nat.mod_eq_of_lt hb]
  by_cases hl : l = 0
  · rw [if_pos hl, if_neg (by omega)]
    exact hbi
  · have hsum : b % 2 ^ p + bitsOf a 0 l * 2 ^ p + b / 2 ^ (p + l) * 2 ^ (p + l) =
        2 ^ p * (2 ^ l * (b / 2 ^ (p + l)) + a % 2 ^ l) + b % 2 ^ p := by
      rw [bitsOf_eq, Nat.pow_zero, Nat.div_one]; ring
    rw [if_neg hl, hsum, Nat.testBit_two_pow_mul_add _ (Nat.mod_lt _ (by positivity)),
      Nat.testBit_two_pow_mul_add _ (Nat.mod_lt _ (by positivity)), Nat.testBit_mod_two_pow, Nat.testBit_mod_two_pow,
      Nat.testBit_div_two_pow]
    by_cases hip : i < p
    · rw [if_pos hip, if_neg (by omega)]; simp [hip, show i < 32 by omega]
    · rw [if_neg hip]
      by_cases hil : i < p + l
      · rw [if_pos (by omega), if_pos (by omega)]; simp [show i - p < l by omega, show i < 32 by omega]
      · rw [if_neg (by omega), if_neg (by omega), show i - p - l + (p + l) = i by omega]
        exact hbi

theorem bitFieldRules_holds : bitFieldRules := by
  intro f
  refine ⟨computes_of_value (by decide) (exec_bfe · f) fun c w x h => ?_,
    computes_of_value (by decide) (exec_bfi · f) fun c w x h => ?_⟩
  · rw [h.fields, bfeForm_eq (h.bfe_form rfl)]; rfl
  · rw [bfiForm_eq _ (h.bfi_valB_lt w x rfl)]; rfl

/-! POPC, CLZ and BREV (R84) -/

/-- Counting the 1 bits from below, of as many bits as hold the number. -/
theorem popc_eq : ∀ {n a : Nat} (k : Nat), a < 2 ^ n → popc (n + k) a = ((List.range n).filter fun i => a.testBit i).length
  | 0, a, k, ha => by
    obtain rfl : a = 0 := by simpa using ha
    induction k with
    | zero => rfl
    | succ k ih => simpa [popc] using ih
  | n + 1, a, k, ha => by
    have ih := popc_eq (n := n) (a := a / 2) k (by omega)
    rw [Nat.add_right_comm, popc, ih, List.range_succ_eq_map, List.filter_cons, List.filter_map, Nat.testBit_zero]
    rcases Nat.mod_two_eq_zero_or_one a with h | h
    · simp [h, Function.comp_def, Nat.testBit_succ]
    · simp [h, Function.comp_def, Nat.testBit_succ, Nat.add_comm]

/-- The first number below `n` at which `p` fails, counted. -/
theorem length_takeWhile_range {n k : Nat} {p : Nat → Bool} (hk : k ≤ n) (hlt : ∀ i < k, p i = true) (hend : k < n → p k = false) :
    ((List.range n).takeWhile p).length = k := by
  obtain ⟨d, rfl⟩ := Nat.exists_eq_add_of_le hk
  rw [List.range_add, List.takeWhile_append_of_pos (by simpa using hlt)]
  cases d with
  | zero => simp
  | succ d => simp [List.range_succ_eq_map, hend (by omega)]

theorem clz_eq {n a : Nat} (ha : a < 2 ^ n) : clz n a = ((List.range n).takeWhile fun i => !a.testBit (n - 1 - i)).length := by
  rw [clz]
  by_cases h0 : a = 0
  · subst h0
    rw [if_pos rfl, length_takeWhile_range le_rfl (by simp) (by simp)]
  · have hlog : a.log2 < n := (Nat.log2_lt h0).2 ha
    rw [if_neg h0, length_takeWhile_range (k := n - 1 - a.log2) (by omega) (fun i hi => ?_) fun _ => ?_]
    · rw [Nat.testBit_lt_two_pow ((Nat.log2_lt h0).1 (by omega))]; rfl
    · rw [show n - 1 - (n - 1 - a.log2) = a.log2 by omega, Nat.testBit_log2 h0]; rfl

theorem bitSum_congr {n : Nat} {p q : Nat → Bool} (h : ∀ i < n, p i = q i) : bitSum n p = bitSum n q := by
  rw [bitSum, List.map_congr_left fun i hi => by rw [h i (List.mem_range.1 hi)], bitSum]

theorem brev_eq_bitSum (n : Nat) : ∀ a, brev n a = bitSum n fun i => a.testBit (n - 1 - i) := by
  induction n with
  | zero => intro a; rfl
  | succ n ih =>
    intro a
    have hlow : bitSum n (fun i => a.testBit (n + 1 - 1 - i)) = bitSum n fun i => (a / 2).testBit (n - 1 - i) :=
      bitSum_congr fun i hi => by rw [← Nat.testBit_succ]; congr 1; omega
    rw [brev, ih, bitSum_succ, hlow, Nat.mul_comm, Nat.add_sub_cancel, Nat.sub_self, Nat.toNat_testBit, Nat.pow_zero, Nat.div_one]

theorem brev_eq (n a : Nat) : brev n a = (BitVec.ofNat n a).reverse.toNat := by
  apply Nat.eq_of_testBit_eq
  intro i
  rw [brev_eq_bitSum, testBit_bitSum, BitVec.testBit_toNat, BitVec.getLsbD_reverse, BitVec.getMsbD_eq_getLsbD, BitVec.getLsbD_ofNat]
  by_cases hi : i < n
  · simp [hi, show n - 1 - i < n by omega]
  · simp [hi]

theorem bitCountRules_holds : bitCountRules := by
  intro f
  refine ⟨computes_of_value (by decide) (exec_popc · f) fun c w x h => ?_,
    computes_of_value (by decide) (exec_clz · f) fun c w x h => ?_,
    computes_of_value (by decide) (exec_brev · f) fun c w x h => ?_⟩
  · rw [show 64 = bitsForm f.m + (64 - bitsForm f.m) by unfold bitsForm; split <;> rfl, popc_eq _ (h.valA_lt_form w x (by decide))]; rfl
  · rw [h.fields, bitsIf_form, clz_eq (h.valA_lt_form w x (by decide))]; rfl
  · rw [h.fields, bitsIf_form, brev_eq]; rfl

/-! PERM (R85) -/

theorem joinFields_range (w n : Nat) (g : Nat → Nat) :
    joinFields w ((List.range n).map g) = ((List.range n).map fun k => g k * 2 ^ (w * k)).sum := by
  induction n generalizing g with
  | zero => rfl
  | succ n ih =>
    rw [List.range_succ_eq_map, List.map_cons, List.map_map, joinFields, ih, List.map_cons, List.map_map, List.sum_cons,
      ← List.sum_map_mul_left]
    simp only [Function.comp_def, Nat.mul_zero, Nat.pow_zero, Nat.mul_one, Nat.succ_eq_add_one, Nat.mul_add, Nat.pow_add]
    congr 3
    ext k
    ring

theorem permRule_holds : permRule := by
  intro f
  refine computes_of_value (by decide) (exec_perm · f) fun c w x h => ?_
  have hlow (k : Nat) : 4 * (2 * k) = 8 * k := by omega
  have hhigh (k : Nat) : 4 * (2 * k + 1) = 8 * k + 4 := by omega
  have hbyte (s : Nat) : ¬8 ≤ s % 16 → s % 8 = s % 16 := by omega
  rw [h.fields]
  split
  next hm => simp +contextual [permForm, joinFields_range, bitsOf_eq, Val.of, hm, hbyte]
  next hm => simp [permForm, joinFields_range, bitsOf_eq, Val.of, hm]
  next hm => simp [permForm, joinFields_range, bitsOf_eq, Val.of, hm, hlow]
  next h0 h1 h2 => simp [permForm, joinFields_range, bitsOf_eq, Val.of, if_neg h0, if_neg h1, if_neg h2, hhigh]

/-- Settles O3: bit fields by their bits, counts by recursion on the width, and PERM as a sum of fields. -/
theorem bitMoves : Obligations.BitMoves := ⟨bitFieldRules_holds, bitCountRules_holds, permRule_holds⟩

end Sys2Proof.Machine
end

section
/-!
PROOFS. Integer comparisons.
-/
namespace Sys2Proof.Machine

/-! MIN, MAX, ABS, SEL and SETP (R86, R87) -/

/-- `a` precedes `b` in the type of each of the four forms. -/
theorem intLt_eq {m : BitVec 3} (hm : m.toNat ≤ 3) (a b : Nat) : intLt m.toNat a b = precedes m a b := by
  unfold intLt precedes
  generalize m.toNat = k at *
  interval_cases k <;> simp [bitsIf, asI_eq, BitVec.slt]

/-- The integer that a pattern stands for determines the pattern. -/
theorem asI_inj {w a b : Nat} (hw : 0 < w) (ha : a < 2 ^ w) (hb : b < 2 ^ w) : asI w a = asI w b ↔ a = b := by
  rw [asI_eq w a hw, asI_eq w b hw, BitVec.toInt_inj]
  refine ⟨fun h => ?_, fun h => by rw [h]⟩
  rw [← toNat_ofNat_lt ha, h, toNat_ofNat_lt hb]

/-- Of two patterns one precedes the other, or they are equal. -/
theorem intLt_total {m a b : Nat} (ha : a < 2 ^ bitsIf (m ≥ 2)) (hb : b < 2 ^ bitsIf (m ≥ 2)) :
    (intLt m a b || decide (a = b)) = !intLt m b a := by
  have hw : 0 < bitsIf (m ≥ 2) := by unfold bitsIf; split <;> decide
  unfold intLt
  by_cases hm : m % 2 = 0
  · have hi := asI_inj hw ha hb
    rw [Bool.eq_iff_iff]
    simp only [if_pos hm, Bool.or_eq_true, decide_eq_true_eq, Bool.not_eq_true', decide_eq_false_iff_not, not_lt]
    omega
  · rw [Bool.eq_iff_iff]
    simp only [if_neg hm, Bool.or_eq_true, decide_eq_true_eq, Bool.not_eq_true', decide_eq_false_iff_not, not_lt]
    omega

theorem ite_neg_eq_natAbs (x : Int) : (if x < 0 then -x else x) = x.natAbs := by split <;> omega

theorem minMaxAbsRules_holds : minMaxAbsRules := by
  intro f
  refine ⟨computes_of_value (by decide) (exec_min · f) fun c w x h => ?_,
    computes_of_value (by decide) (exec_max · f) fun c w x h => ?_,
    computes_of_value (by decide) (exec_abs · f) fun c w x h => ?_⟩
  · rw [h.fields, intLt_eq (h.compare_form (by decide))]; rfl
  · rw [h.fields, intLt_eq (h.compare_form (by decide))]; rfl
  · have hm := h.compare_form (by decide)
    rw [h.fields]
    simp only [absForm, ite_neg_eq_natAbs]
    generalize f.m.toNat = m at *
    interval_cases m <;> simp [bitsIf, Val.of, satI_eq, asI_eq_signed, wrapTo_eq_wrapped, wrapped_flags]

theorem selSetpRules_holds : selSetpRules := by
  intro f
  refine ⟨computes_of_value (by decide) (exec_sel · f) fun c w x _ => rfl,
    computes_of_value (by decide) (exec_setp · f) fun c w x h => ?_⟩
  have hm := h.compare_form (by decide)
  obtain ⟨ha, hb⟩ := h.setp_lt w x rfl
  have hle := intLt_total ha hb
  rw [h.fields]
  simp only [intLt_eq hm] at hle ⊢
  refine congrArg (fun holds : Bool => Val.of (if holds = true then 1 else 0, 0)) (?_ : cmpSel _ _ _ = _)
  obtain _ | _ | _ | _ | _ | k := BitVec.toNat f.c
  · rfl
  · exact decide_not.symm
  · rfl
  · exact hle
  · rw [cmpSel, hle, Bool.not_not]; rfl
  · rfl

/-- Settles O4: the order of each type, and each selector as a combination of precedes and equals. -/
protected theorem compare : Obligations.Compare := ⟨minMaxAbsRules_holds, selSetpRules_holds⟩

end Sys2Proof.Machine
end

section
/-!
PROOFS. Floating-point comparisons.
-/
namespace Sys2Proof.Machine

/-! FMIN, FMAX, FSETP and FKEY (R90, R93, R95, R96) -/

/-- An immediate stands for an integer from −32 to 31 (R38). -/
theorem opnd_imm_range {code : Code9} {v : Int} (h : opnd code = .imm v) : -32 ≤ v ∧ v < 32 := by
  have hlt := code.isLt
  dsimp only [opnd] at h
  split_ifs at h
  cases h
  omega

/-- Every integer of an immediate has a code in the format. -/
theorem roundVal_imm_lt {fm : Fmt} (hfm : fm = fmtF32 ∨ fm = fmtF16) {v : Int} (h0 : -32 ≤ v) (h1 : v < 32) :
    (roundVal fm 0 (ofInt v)).1 < 2 ^ (fm.mag + 1) := by
  rcases hfm with rfl | rfl <;> interval_cases v <;> decide

/-- An element read in a format is a code of the format. -/
theorem Ctx.elem_lt (c : Ctx) (w : Warp) (code : Code9) (sl : Slot) (x : Nat × Nat) {fm : Fmt} (hfm : fm = fmtF32 ∨ fm = fmtF16)
    (step k : Nat) : c.elem w code sl x fm step k < 2 ^ (fm.mag + 1) := by
  unfold Ctx.elem
  split
  next v hv => exact roundVal_imm_lt hfm (opnd_imm_range hv).1 (opnd_imm_range hv).2
  next => exact bitsOf_lt ..

/-- FMIN and FMAX choose by the order of codes, and a NaN by the rule that M names. -/
theorem fminmax_eq (greater : Bool) (m : BitVec 3) (a b : Nat) : fminmax greater m.toNat a b = Val.of
    (if isNan fmtF32 a ∧ isNan fmtF32 b then 0x7FC00000
     else if isNan fmtF32 a ∨ isNan fmtF32 b then (if m = 1 ∧ greater then 0x7FC00000 else if isNan fmtF32 a then b else a)
     else if (fpOrd0 fmtF32 a < fpOrd0 fmtF32 b) ↔ greater = true then b else a,
     if isSnan fmtF32 a ∨ isSnan fmtF32 b then flagINV else 0) := by
  have hnan : fmtF32.nan = 0x7FC00000 := rfl
  simp only [fminmax, Val.of, whenFlag, form_eq_one, Bool.and_eq_true, Bool.or_eq_true, decide_eq_true_eq, hnan, eq_iff_iff]
  split_ifs <;> rfl

theorem decide_lt_or_eq (x y : Int) : (decide (x < y) || decide (x = y)) = decide (x ≤ y) := by
  rw [← Bool.decide_or]; exact decide_eq_decide.2 le_iff_lt_or_eq.symm

theorem not_decide_le (x y : Int) : (!decide (x ≤ y)) = decide (y < x) := by rw [← decide_not]; exact decide_eq_decide.2 not_le

theorem not_decide_lt (x y : Int) : (!decide (x < y)) = decide (y ≤ x) := by rw [← decide_not]; exact decide_eq_decide.2 not_lt

/-- The order key: the sign of a positive code set, a negative code complemented. -/
theorem orderKey_eq (fm : Fmt) (rule : Nat) {a : Nat} (ha : a < 2 ^ (fm.mag + 1)) : orderKey fm rule a =
    if isNan fm a = true then
      (if rule = 1 then 2 ^ (fm.mag + 1) - 1 else if rule = 2 then 0 else if a < 2 ^ fm.mag then 2 ^ (fm.mag + 1) - 1 else 0)
    else if a < 2 ^ fm.mag then (BitVec.ofNat (fm.mag + 1) a ||| BitVec.ofNat (fm.mag + 1) (2 ^ fm.mag)).toNat
    else (~~~BitVec.ofNat (fm.mag + 1) a).toNat := by
  have hpos : 0 < 2 ^ fm.mag := by positivity
  have hneg : a / 2 ^ fm.mag = 1 ↔ ¬a < 2 ^ fm.mag := by rw [Nat.div_eq_iff hpos]; omega
  simp only [orderKey, hneg]
  by_cases hn : a < 2 ^ fm.mag
  · have hor : a + 2 ^ fm.mag = a.lor (2 ^ fm.mag) := by
      have h := Nat.two_pow_add_eq_or_of_lt hn 1
      rw [Nat.mul_one, Nat.add_comm, Nat.or_comm] at h
      exact h
    simp only [hn, not_true_eq_false, if_false, if_true, hor, lor_eq ha (show 2 ^ fm.mag < 2 ^ (fm.mag + 1) by omega)]
  · simp only [hn, not_false_eq_true, if_false, if_true, ← notForm_eq ha, notForm]

/-- Settles O9: the choice of FMIN and FMAX, the comparisons of FSETP by selector, and the order keys. -/
theorem floatCompare : Obligations.FloatCompare := by
  intro f
  refine ⟨computes_of_value (by decide) (exec_fmin · f) fun c w x h => ?_,
    computes_of_value (by decide) (exec_fmax · f) fun c w x h => ?_,
    computes_of_value (by decide) (exec_fsetp · f) fun c w x h => ?_,
    computes_of_value (by decide) (exec_fkey · f) fun c w x h => ?_⟩
  · rw [h.fields, fminmax_eq]
  · rw [h.fields, fminmax_eq]
  · rw [h.fields]
    dsimp only
    generalize (if f.m = 0 then fmtF32 else if f.m = 1 then fmtF16 else fmtBF16) = fm
    generalize c.elemA w x fm 32 0 = a
    generalize c.elemB w x fm 32 0 = b
    obtain _ | _ | _ | _ | _ | _ | _ | k := BitVec.toNat f.c
    · rfl
    · simp only [fsetpVal, ← decide_not]; rfl
    · rfl
    · simp only [fsetpVal, decide_lt_or_eq]; rfl
    · simp only [fsetpVal, decide_lt_or_eq, not_decide_le]; rfl
    · simp only [fsetpVal, not_decide_lt]; rfl
    · rfl
    · simp [fsetpVal, Val.of, whenFlag, show ¬k + 1 + 1 + 1 + 1 + 1 + 1 < 5 by omega]
  · have hfm : (if f.m.toNat < 3 then fmtF32 else fmtF16) = fmtF32 ∨ (if f.m.toNat < 3 then fmtF32 else fmtF16) = fmtF16 := by
      split <;> simp
    rw [h.fields]
    exact congrArg (fun v => Val.of (v, 0)) (orderKey_eq _ _ (c.elem_lt _ _ _ _ hfm _ _))

end Sys2Proof.Machine
end

section
/-!
PROOFS. BR, BRU, BRX and JOIN: how the paths of a warp divide, move and come together.
-/
namespace Sys2Proof.Machine

/-! Targets (R282) -/

theorem relTarget_toInt (pc : GAddr) (v : Word) : relTarget pc v.toInt = pc + v.signExtend 57 := by
  rw [relTarget, BitVec.ofInt_add, BitVec.ofInt_natCast, BitVec.ofNat_toNat, BitVec.setWidth_eq]; rfl

theorem relTarget_natCast (pc : GAddr) (n : Nat) : relTarget pc n = pc + BitVec.ofNat 57 n := by
  rw [relTarget, BitVec.ofInt_add, BitVec.ofInt_natCast, BitVec.ofInt_natCast, BitVec.ofNat_toNat, BitVec.setWidth_eq]

theorem relTarget_lowDisp (pc : GAddr) (e : DWord) : relTarget pc (lowDisp e) = pc + dispLo e := by
  rw [lowDisp, relTarget_toInt, BitVec.ofNat_toNat]; rfl

theorem relTarget_highDisp (pc : GAddr) (e : DWord) : relTarget pc (highDisp e) = pc + dispHi e := by
  have hw : BitVec.ofNat 32 (e.toNat / 2 ^ 32) = (e >>> 32).truncate 32 := by
    rw [BitVec.truncate_eq_setWidth, ← BitVec.ofNat_toNat, BitVec.toNat_ushiftRight, Nat.shiftRight_eq_div_pow]
  rw [highDisp, relTarget_toInt, hw]; rfl

/-- A displacement is a multiple of 8 as an integer where its word is. -/
theorem toInt_emod_eight (v : Word) : v.toInt % 8 = 0 ↔ v.toNat % 8 = 0 := by
  rw [BitVec.toInt_eq_toNat_cond]
  split <;> omega

/-! Ending and trapping -/

variable {i : Instr} {op : Nat} {f : Fields} {s : State} {w : Warp}

/-- An instruction that goes on at a target ends there. -/
theorem ends_goTo {s1 s2 : State} {w1 : Warp} {pc : GAddr} {extra : Nat} (he : exec i s = (ctxOf op f s w).goTo w.begun s2 pc extra)
    (h : Ready op f s w) (hc : (s2.wg s.cur.wg).cancelled = (s.wg s.cur.wg).cancelled) (ho : OnlyWarp s1 s2 s.cur)
    (hw : s2.warp? s.cur = some w1) : Ends i f s s1 w1 pc := ends_finish he h.calm hc ho hw

/-- An instruction whose body traps after it has changed the state. -/
theorem trapsIn_of {s1 : State} {x : TrapInfo} (he : exec i s = (ctxOf op f s w).trap s1 x) : TrapsIn s1 i op f s w x := by
  rw [TrapsIn, he, Ctx.trap]
  simp only [ctxOf_w, ctxOf_start, Ctx.ilen, ctxOf_len]

/-- The PC of a warp does not matter to where its instruction ends. -/
theorem ends_setPc {s1 : State} {w1 : Warp} {pc q : GAddr} : Ends i f s s1 { w1 with pc := q } pc ↔ Ends i f s s1 w1 pc := Iff.rfl

/-! BR (R284) -/

theorem laneMask_lanes (c : Ctx) : laneMask (c.lanes.map (·.1)) = c.mask := by
  apply BitVec.eq_of_getLsbD_eq
  intro k hk
  rw [laneMask_getLsbD, Ctx.mask, BitVec.getLsbD_ofNat, testBit_bitSum]
  simp [hk]

/-- A push leaves at most eight entries in K0 to K7 (R287). -/
theorem Warp.pushSplit_fst (w : Warp) (e : Split) : (w.pushSplit e).1 = { w with splits := e :: w.splits, kUsed := min (w.kUsed + 1) 8 } := by
  unfold Warp.pushSplit
  split
  next h => rw [Nat.min_eq_right (by omega)]
  next h => rw [Nat.min_eq_left (by omega)]

section brTo
variable {did : Nat} {x : Mask} {p : Prop} [Decidable p] {fall t j : GAddr}

theorem brTo_untaken (hx : x = 0) : brTo did w x (decide p) fall t j = some (w, fall, 0) := by simp only [brTo, if_pos hx]

variable (hx : x ≠ 0)
include hx

theorem brTo_whole (hy : w.active &&& ~~~x = 0) : brTo did w x (decide p) fall t j = some (w, t, 0) := by
  simp only [brTo, if_neg hx, if_pos hy]

variable (hy : w.active &&& ~~~x ≠ 0)
include hy

/-- The second path already waits at the join address: the first one starts, and nothing is pushed. -/
theorem brTo_waiting (hw : (if p then t else fall) = j ∧ ∃ k ks, w.splits = k :: ks ∧ k.ja = j) :
    brTo did w x (decide p) fall t j =
      some ({ w with em := if p then w.active &&& ~~~x else x }, if p then fall else t, 0) := by
  obtain ⟨hj, k, ks, hk, hkj⟩ := hw
  by_cases hp : p <;> simp_all [brTo]

/-- Where the second path does not yet wait at the join address, an entry is pushed for it if there is room. -/
theorem brTo_dividing (hw : ¬((if p then t else fall) = j ∧ ∃ k ks, w.splits = k :: ks ∧ k.ja = j)) :
    brTo did w x (decide p) fall t j =
      if w.splits.length ≥ 64 then none
      else
        let e : Split :=
          { ja := j, u := w.active, pend := if (if p then t else fall) = j then 0 else if p then x else w.active &&& ~~~x
            pstart := if p then t else fall, resume := false, did }
        some ({ (w.pushSplit e).1 with em := if p then w.active &&& ~~~x else x }, if p then fall else t, (w.pushSplit e).2) := by
  rcases hs : w.splits with _ | ⟨k, ks⟩
  · by_cases hp : p <;> simp_all [brTo]
  · have hk : ¬((if p then t else fall) = j ∧ k.ja = j) := fun h => hw ⟨h.1, k, ks, hs, h.2⟩
    by_cases hp : p <;> simp_all [brTo]

end brTo

section br
variable (h : Ready 0x01 f s w)
include h

/-- A BR that does not need a 65th entry ends where `brTo` says, and its division has a number (R164). -/
theorem br_ends {w1 : Warp} {pc : GAddr} {extra : Nat}
    (hb : brTo s.fresh w.begun (ctxOf 0x01 f s w).mask (decide (f.m = 1)) (nextPc 0x01 f w) (w.pc + dispLo f.ext) (w.pc + dispHi f.ext) =
      some (w1, pc, extra)) : Ends (.br f) f s { s with fresh := s.fresh + 1 } w1 pc := by
  have he : exec (.br f) s =
      (ctxOf 0x01 f s w).goTo w.begun ({ s with fresh := s.fresh + 1 }.setWarp s.cur w1) pc extra := by
    rw [exec_br, execBr, issue_ready h]
    simp only [laneMask_lanes, ctxOf_f, ctxOf_w, fall_eq, Warp.begun_pc, relTarget_lowDisp, relTarget_highDisp, State.setWarp_fresh, hb]
    exact congrArg (fun t => (ctxOf 0x01 f s w).goTo w.begun t pc extra)
      (State.setWarp_setWarp { s with fresh := s.fresh + 1 } s.cur w.begun w1)
  exact ends_goTo he h (setWarp_cancelled s w1) (OnlyWarp.setWarp ..) (here_begun (s := { s with fresh := s.fresh + 1 }) h.here w1)

theorem br_traps
    (hb : brTo s.fresh w.begun (ctxOf 0x01 f s w).mask (decide (f.m = 1)) (nextPc 0x01 f w) (w.pc + dispLo f.ext) (w.pc + dispHi f.ext) =
      none) : Traps (.br f) 0x01 f s w { cause := .splitOverflow } := by
  refine traps_ofU ?_
  rw [exec_br, execBr, issue_ready h]
  simp only [laneMask_lanes, ctxOf_f, fall_eq, Warp.begun_pc, relTarget_lowDisp, relTarget_highDisp, State.setWarp_fresh, hb]

end br

theorem branchRule_holds : branchRule := by
  intro f s w h
  refine ⟨fun hx => br_ends h (brTo_untaken hx), fun hx hy => br_ends h (brTo_whole hx hy),
    fun hx hy hw => br_ends h (brTo_waiting hx hy hw), fun hx hy hw hlen => ?_, fun hx hy hw hlen => ?_⟩
  · have hb := brTo_dividing (did := s.fresh) hx hy hw
    rw [if_neg (Nat.not_le.2 hlen)] at hb
    have hend := br_ends h hb
    rw [Warp.pushSplit_fst] at hend
    exact hend
  · exact br_traps h ((brTo_dividing hx hy hw).trans (if_pos hlen))

/-! BRU and BRX (R285, R286) -/

theorem State.pick_wgs (s : State) (k : Nat) : (s.pick k).2.wgs = s.wgs := by
  unfold State.pick
  split <;> rfl

/-- Reading a doubleword of code changes no warp. -/
theorem State.fetchDword_wgs {s s1 : State} {r : WarpRef} {w : Warp} {va : Nat} {d : DWord} (h : s.fetchDword r w va = .got d s1) :
    s1.wgs = s.wgs := by
  unfold State.fetchDword at h
  split at h
  · cases h
  · dsimp only at h
    split at h
    · cases h
    · split at h
      · cases h
      · cases h
        exact State.pick_wgs ..

theorem bru_ends {x : Nat × Nat} (h : ReadyUni 0x02 f s w x) : Ends (.bru f) f s s w.begun (w.pc + dispLo f.ext) := by
  have he : exec (.bru f) s = (ctxOf 0x02 f s w).goTo w.begun (s.started w) (w.pc + dispLo f.ext) 0 := by
    rw [exec_bru, execBru, uniform_ready h, ctxOf_f, Warp.begun_pc, relTarget_lowDisp]
  exact ends_goTo he h.toReady (setWarp_cancelled ..) (OnlyWarp.setWarp ..) (here_begun h.here _)

/-- BRX executes once for its warp (R282). -/
theorem brx_uni (h : Ready 0x03 f s w) : (ctxOf 0x03 f s w).uni = true := by
  have hs := h.ctxLegal.sig
  simp [sigOf, sigControlInt] at hs
  rw [ctxOf_uni, ← hs.2]
  rfl

/-- The entry of a table of code at which a BRX with index `k` reads. -/
def brxEntry (f : Fields) (w : Warp) (k : Nat) : Nat := (w.pc + dispLo f.ext + BitVec.ofNat 57 (4 * k)).toNat

theorem relTarget_brxEntry (f : Fields) (w : Warp) (k : Nat) :
    (relTarget (relTarget w.pc (lowDisp f.ext)) (4 * (k : Int))).toNat = brxEntry f w k := by
  rw [relTarget_lowDisp, brxEntry, ← relTarget_natCast, Nat.cast_mul, Nat.cast_ofNat]

section brx
variable {x : Nat × Nat} (h : ReadyUni 0x03 f s w x) (hk : (ctxOf 0x03 f s w).valA w.begun x < 2 ^ 32)
include h hk

theorem brx_falls (hn : f.ext.toNat / 2 ^ 32 % 2 ^ 16 ≤ (ctxOf 0x03 f s w).valA w.begun x) :
    Ends (.brx f) f s s w.begun (nextPc 0x03 f w) := by
  refine ends_at_once h.toReady ?_
  rw [exec_brx, execBrx, uniform_ready h]
  simp only [Nat.mod_eq_of_lt hk, ctxOf_f, bitsOf_eq, ge_iff_le, if_pos hn]

variable (hn : (ctxOf 0x03 f s w).valA w.begun x < f.ext.toNat / 2 ^ 32 % 2 ^ 16)
include hn

theorem brx_reads {d : DWord} {s1 : State}
    (hd : (s.started w).fetchDword s.cur w.begun (brxEntry f w ((ctxOf 0x03 f s w).valA w.begun x)) = .got d s1) :
    let e : Word := (d >>> (8 * (brxEntry f w ((ctxOf 0x03 f s w).valA w.begun x) % 8))).truncate 32
    exec (.brx f) s = if e.toNat % 8 = 0 then (ctxOf 0x03 f s w).goTo w.begun s1 (w.pc + e.signExtend 57) 0
      else (ctxOf 0x03 f s w).trapU s1 .targetAlign := by
  intro e
  have hword : BitVec.ofNat 32 (d.toNat / 2 ^ (8 * (brxEntry f w ((ctxOf 0x03 f s w).valA w.begun x) % 8))) = e := by
    rw [← Nat.shiftRight_eq_div_pow, ← BitVec.toNat_ushiftRight, BitVec.ofNat_toNat]
  rw [exec_brx, execBrx, uniform_ready h]
  simp only [Nat.mod_eq_of_lt hk, ctxOf_f, ctxOf_w, bitsOf_eq, ge_iff_le, if_neg (Nat.not_le.2 hn), Warp.begun_pc, relTarget_brxEntry, hd,
    hword, relTarget_toInt, ne_eq, toInt_emod_eight, ite_not]

theorem brx_faults {cause : Cause}
    (hd : (s.started w).fetchDword s.cur w.begun (brxEntry f w ((ctxOf 0x03 f s w).valA w.begun x)) = .fault cause) :
    exec (.brx f) s = (ctxOf 0x03 f s w).laneTrap (s.started w)
      [addrFault 0 cause (brxEntry f w ((ctxOf 0x03 f s w).valA w.begun x))] := by
  rw [exec_brx, execBrx, uniform_ready h]
  simp only [Nat.mod_eq_of_lt hk, ctxOf_f, ctxOf_w, bitsOf_eq, ge_iff_le, if_neg (Nat.not_le.2 hn), Warp.begun_pc, relTarget_brxEntry, hd]

end brx

/-- The one fault of a uniform instruction names no thread, and an address cause reports the address (R45, R376). -/
theorem laneTrap_addrFault {c : Ctx} (hu : c.uni = true) (s : State) (cause : Cause) (addr : Nat) :
    c.laneTrap s [addrFault 0 cause addr] = c.trap s
      { cause, info0 := if cause.hasAddress then BitVec.ofNat 32 addr else 0
        info1 := if cause.hasAddress then BitVec.ofNat 32 (addr / 2 ^ 32) else 0 } := by
  cases hc : cause.hasAddress <;> simp [Ctx.laneTrap, addrFault, hu, hc]

theorem jumpRule_holds : jumpRule := by
  refine ⟨fun f s w x h => bru_ends h, fun f s w x h => ?_⟩
  intro k n entry hk
  refine ⟨fun hn => brx_falls h hk hn, fun hn d s1 hd => ⟨fun he => ?_, fun he => ?_⟩, fun hn cause hd => ?_⟩
  · have hwgs := State.fetchDword_wgs hd
    have hwarp : s1.warp? s.cur = some w.begun := (State.warp?_congr hwgs _).trans (here_begun h.here _)
    have hcan : (s1.wg s.cur.wg).cancelled = (s.wg s.cur.wg).cancelled := by
      rw [State.wg_congr hwgs]; exact setWarp_cancelled ..
    exact ends_goTo ((brx_reads h hk hn hd).trans (if_pos he)) h.toReady hcan (OnlyWarp.refl ..) hwarp
  · exact trapsIn_of ((brx_reads h hk hn hd).trans (if_neg he))
  · exact traps_of ((brx_faults h hk hn hd).trans (laneTrap_addrFault (brx_uni h.toReady) ..))

/-! JOIN (R288) -/

theorem Warp.popSplit_fst (w : Warp) : ∃ k, w.popSplit.1 = { w with splits := w.splits.drop 1, kUsed := k } := by
  unfold Warp.popSplit
  dsimp only
  split
  · split <;> exact ⟨_, rfl⟩
  · exact ⟨_, rfl⟩

section joinLoop
variable {pc : GAddr} {n extra : Nat} {t : Split} {rest : List Split}

theorem Warp.joinLoop_of_unjoined (h : ∀ t rest, w.splits = t :: rest → t.ja ≠ pc) : w.joinLoop pc n extra = (w, false, extra) := by
  rcases n with _ | n
  · rfl
  · rcases hs : w.splits with _ | ⟨t, rest⟩
    · simp [Warp.joinLoop, hs]
    · simp [Warp.joinLoop, hs, h t rest hs]

theorem Warp.joinLoop_of_pending (hs : w.splits = t :: rest) (hja : t.ja = pc) (hm : t.pend &&& ~~~w.exited ≠ 0) :
    w.joinLoop pc (n + 1) extra =
      ({ w with splits := { t with pend := 0, resume := true } :: rest, em := t.pend &&& ~~~w.exited, pc := t.pstart }, true, extra) := by
  simp only [Warp.joinLoop, hs, ne_eq, hja, not_true_eq_false, if_false, if_pos hm]

theorem Warp.joinLoop_of_joined (hs : w.splits = t :: rest) (hja : t.ja = pc) (hm : ¬t.pend &&& ~~~w.exited ≠ 0) :
    ∃ k, w.joinLoop pc (n + 1) extra =
      ({ w with splits := rest, em := t.u &&& ~~~w.exited &&& ~~~w.never, kUsed := k } : Warp).joinLoop pc n (extra + w.popSplit.2) := by
  obtain ⟨k, hpop⟩ := w.popSplit_fst
  rw [hs, List.drop_one, List.tail_cons] at hpop
  refine ⟨k, ?_⟩
  simp only [Warp.joinLoop, hs, ne_eq, hja, not_true_eq_false, if_false, if_neg hm, hpop, BitVec.not_or, ← BitVec.and_assoc]

end joinLoop

/-- With a step for every entry, the loop leaves what the rule says, and PC where a pending path starts. -/
theorem Warp.joinLoop_eq_joinRule (pc : GAddr) {l : List Split} {n : Nat} (hs : w.splits = l) (hn : l.length ≤ n) (extra : Nat) :
    let r := joinRule pc w.exited w.never l w.em
    ∃ k more, w.joinLoop pc n extra =
      ({ w with splits := r.1, em := r.2.1, kUsed := k, pc := r.2.2.getD w.pc }, r.2.2.isSome, more) := by
  induction l generalizing n w extra with
  | nil =>
    refine ⟨w.kUsed, extra, ?_⟩
    rw [Warp.joinLoop_of_unjoined (by simp [hs]), joinRule, ← hs]
    rfl
  | cons t rest ih =>
    obtain ⟨n, rfl⟩ := Nat.exists_eq_add_of_lt hn
    by_cases hja : t.ja = pc
    · by_cases hm : t.pend &&& ~~~w.exited ≠ 0
      · refine ⟨w.kUsed, extra, ?_⟩
        rw [Warp.joinLoop_of_pending hs hja hm, joinRule, if_neg (not_not.2 hja), if_pos hm]
        rfl
      · obtain ⟨k, hpop⟩ := Warp.joinLoop_of_joined (n := rest.length + n) (extra := extra) hs hja hm
        obtain ⟨k', more, hrest⟩ := ih (w := { w with splits := rest, em := t.u &&& ~~~w.exited &&& ~~~w.never, kUsed := k }) rfl
          (Nat.le_add_right _ n) (extra + w.popSplit.2)
        refine ⟨k', more, ?_⟩
        rw [hpop, joinRule, if_neg (not_not.2 hja), if_neg hm]
        exact hrest
    · refine ⟨w.kUsed, extra, ?_⟩
      rw [Warp.joinLoop_of_unjoined (by simp [hs, hja]), joinRule, if_pos hja, ← hs]
      rfl

/-- JOIN ends with what its loop leaves, at the pending path that it starts or else at the next in line. -/
theorem join_ends (h : Ready 0x04 f s w) {w1 : Warp} {start : Option GAddr} {more : Nat}
    (hloop : w.begun.joinLoop w.pc w.begun.splits.length 0 = (w1, start.isSome, more)) (hpc : ∀ p ∈ start, w1.pc = p) :
    Ends (.join f) f s s w1 (start.getD (nextPc 0x04 f w)) := by
  have he : exec (.join f) s = .next ((ctxOf 0x04 f s w).finish ((s.started w).setWarp s.cur w1)
      (start.getD (nextPc 0x04 f w)) start.isSome more) := by
    rw [exec_join, execJoin, issue_ready h]
    simp only [Warp.begun_pc, ctxOf_w, fall_eq, hloop]
    cases start with
    | none => rfl
    | some p => rw [hpc p rfl]; rfl
  exact ends_finish he h.calm (begun_cancelled ..) ((OnlyWarp.setWarp ..).trans (OnlyWarp.setWarp ..))
    (State.warp?_setWarp _ _ _ _ (here_begun h.here _))

theorem joinsRule_holds : joinsRule := by
  intro f s w h b r
  obtain ⟨k, more, hloop⟩ := Warp.joinLoop_eq_joinRule (w := b) w.pc rfl le_rfl 0
  refine ⟨k, ends_setPc.1 (join_ends h hloop fun p hp => ?_)⟩
  rw [show r.2.2 = some p from hp]
  rfl

/-- Settles O16: BR by the cases of its two sides, BRX by what its table entry reads as, JOIN by induction on the entries. -/
theorem branches : Obligations.Branches := ⟨branchRule_holds, jumpRule_holds, joinsRule_holds⟩

end Sys2Proof.Machine
end

section
/-!
PROOFS. The system registers and the taking of traps: a completed and a landed COPY, which the rules of SWR and of a kill leave out.
-/
namespace Sys2Proof.Machine

/-- A machine at reset but for one workgroup of one warp of 32 threads, whose turn it is. -/
def loneWarp : State :=
  { State.reset with cur := { wg := 1, wix := 0 }, wgs := [(1, { Workgroup.blank with warps := [newWarp placedRec 0 placedPc 32 0] })] }

/-- A COPY of that warp, with a handle and not yet complete. -/
def loneCopy : Cmd := mkCmd loneWarp loneWarp.cur 0 (.copy .g .a 0 [] true false none) true []

/-! SWR of EM that ends the last path (R217, R289) -/

/-- `SWR EM, #0`. -/
def clearEm : Fields := plain 0x140 0x1E0 0 0 0

/-- The COPY is complete (STAT 1), and H0 holds its handle. -/
def copyHeld : State :=
  { loneWarp.modWarp loneWarp.cur fun w => { w with h := [(0, 2)] } with cmds := [(2, { loneCopy with status := statusOf 1 0 0 0 0 })] }

/-- The warp of `copyHeld`. -/
def copyHolder : Warp := { newWarp placedRec 0 placedPc 32 0 with h := [(0, 2)] }

/-- Nothing stops the SWR: every premise of its rule is met. -/
theorem readyUni_clearEm : ReadyUni 0xE1 clearEm copyHeld copyHolder (0, 0) where
  here := by decide +kernel
  present := by decide +kernel
  fresh := rfl
  tokens := by decide +kernel
  settled := by decide +kernel
  clear := by decide +kernel
  legal := by decide +kernel
  onTime := by decide +kernel
  calm h := by cases h
  lane := by decide +kernel

theorem clearEm_leaves_no_thread :
    (BitVec.ofNat 32 ((ctxOf 0xE1 clearEm copyHeld copyHolder).valA copyHolder.begun (0, 0)) : Word) &&& copyHolder.begun.present = 0 := by
  decide +kernel

/-- The commands after an instruction that answers a next state, none otherwise. -/
def cmdsAfter (i : Instr) (s : State) : Option (Table Cmd) :=
  match exec i s with
  | .next t => some t.cmds
  | _ => none

theorem cmdsAfter_next {i : Instr} {s t : State} (h : exec i s = .next t) : cmdsAfter i s = some t.cmds := by
  rw [cmdsAfter, h]

/-- No split entry is left, so the warp retires: its handles go, and with them the completed entry that H0 held (R217). -/
theorem cmdsAfter_clearEm : cmdsAfter (.swr clearEm) copyHeld = some [] := by decide +kernel

/-- The last clause of the rule keeps the commands as they were, where the path that ends is the last one too. -/
theorem not_swrRule : ¬ swrRule := by
  intro h
  obtain ⟨-, -, -, -, -, hend⟩ := h clearEm copyHeld copyHolder (0, 0) readyUni_clearEm
  obtain ⟨t, _, he, -, ht, -⟩ := hend rfl clearEm_leaves_no_thread rfl
  have hkept : t.cmds = copyHeld.cmds := by rw [ht]
  have hgone : t.cmds = [] := Option.some.inj ((cmdsAfter_next he).symm.trans cmdsAfter_clearEm)
  exact absurd (hgone.symm.trans hkept) (by decide +kernel)

/-- Refutes O48: a SWR of EM that retires its warp frees the completed entry of a handle of the warp (R217), where `swrRule` says that
only workgroups, cores and clusters change. -/
theorem not_systemRegisters : ¬ Obligations.SystemRegisters := by
  rintro ⟨-, -, hswr, -⟩
  exact not_swrRule hswr

/-! Killing a workgroup between the last deposit of a COPY and its completion (R224, R393) -/

/-- The COPY has made its last deposit and released its locks; its status word is due in the next CLK tick. -/
def landedCopy : Cmd := { loneCopy with landed := some 0 }

def copyLanded : State := { loneWarp with cmds := [(2, landedCopy)] }

/-- The kill leaves the COPY as it was. -/
theorem kill_copyLanded_cmds : (copyLanded.kill 1 Cause.handlerBad.code 0).cmds = [(2, landedCopy)] := by decide +kernel

/-- The rule has every incomplete command of the workgroup cancelled, those past their contribution included. -/
theorem not_killRule : ¬ killRule := by
  intro h
  obtain ⟨-, hkill⟩ := h copyLanded 1 (copyLanded.wg 1) Cause.handlerBad.code 0 rfl
  obtain ⟨_, -, -, -, -, -, -, -, hcancel, -⟩ := hkill rfl
  have hmem : (2, landedCopy) ∈ (copyLanded.kill 1 Cause.handlerBad.code 0).cmds := by
    rw [kill_copyLanded_cmds]; exact List.mem_singleton_self _
  have hc : landedCopy.cancel = true := hcancel (2, landedCopy) hmem rfl rfl
  exact Bool.false_ne_true hc

/-- Refutes O49: a kill does not cancel a COPY that has landed and whose status word is due (R224), where `killRule` says that it cancels
every incomplete command of the workgroup. -/
theorem not_trapEntry : ¬ Obligations.TrapEntry := by
  rintro ⟨-, hkill, -⟩
  exact not_killRule hkill

end Sys2Proof.Machine
end

section
/-!
PROOFS. What a write of a home slice and an event of the module leave alone: everything but the bytes, the lanes that wait at them,
the trees they fall in, and what the ring of the events counts (R167, R358, R370).
-/
namespace Sys2Proof.Machine

/-- `t` differs from `s` at most in what a write to memory may change: bytes, what belongs to them, warps that wait, and trees. -/
def SameButMemory (s t : State) : Prop :=
  t = { s with mem := t.mem, gmeta := t.gmeta, wgs := t.wgs, waits := t.waits, trees := t.trees }

theorem SameButMemory.refl (s : State) : SameButMemory s s := rfl

theorem SameButMemory.trans {s t u : State} (h : SameButMemory s t) (h' : SameButMemory t u) : SameButMemory s u := by
  unfold SameButMemory at *
  rw [h] at h'
  exact h'

theorem SameButMemory.foldl {β : Type} {f : State → β → State} (hf : ∀ s b, SameButMemory s (f s b)) (l : List β) (s : State) :
    SameButMemory s (l.foldl f s) :=
  List.foldlRecOn l f (.refl s) fun _ h b _ => h.trans (hf _ b)

/-- A change to what belongs to the bytes is one that a write may make. -/
theorem SameButMemory.withMeta {s t : State} (h : SameButMemory s t) (m : GMeta) : SameButMemory s { t with gmeta := m } := h.trans rfl

theorem SameButMemory.clus {s t : State} (h : SameButMemory s t) : t.clus = s.clus := by
  unfold SameButMemory at h
  rw [h]

theorem SameButMemory.power {s t : State} (h : SameButMemory s t) : t.power = s.power := by
  unfold SameButMemory at h
  rw [h]

theorem State.putByte_same (s : State) (pa : Nat) (b : Byte) : SameButMemory s (s.putByte pa b) := rfl

theorem State.reseal_same (s : State) (k : Option (BitVec 512)) (g : Nat) : SameButMemory s (s.reseal k g) := by
  unfold State.reseal
  split
  · exact .refl s
  · have h := SameButMemory.foldl (f := fun s' i => s'.putByte (32 * g + i) (byteAt (s.viewGranule k g) i))
      (fun s' i => s'.putByte_same _ _) (List.range 32) s
    dsimp only
    generalize List.foldl _ _ _ = s1 at h ⊢
    exact h.withMeta _

theorem State.writeBytes_same (s : State) (slot : Option Nat) (pa : Nat) (bs : List Byte) : SameButMemory s (s.writeBytes slot pa bs) := by
  unfold State.writeBytes
  exact ((SameButMemory.refl s).withMeta _).trans
    (.foldl (fun t x => ((t.reseal_same (s.keyOf slot) ((pa + x.2) / 32)).trans (State.putByte_same ..)).withMeta _) bs.zipIdx _)

theorem State.wakeWaits_same (s : State) (pa n : Nat) : SameButMemory s (s.wakeWaits pa n) := by
  unfold State.wakeWaits
  refine .foldl (fun t e => ?_) s.waits s
  dsimp only
  repeat' split
  all_goals rfl

theorem State.taintTrees_same (s : State) (pa n : Nat) : SameButMemory s (s.taintTrees pa n) := by
  unfold State.taintTrees
  split <;> rfl

theorem State.gWrite_same (s : State) (slot : Option Nat) (pa : Nat) (bs : List Byte) : SameButMemory s (s.gWrite slot pa bs) :=
  ((s.writeBytes_same slot pa bs).trans (State.wakeWaits_same _ _ _)).trans (State.taintTrees_same _ _ _)

@[simp] theorem State.gWrite_clus (s : State) (slot : Option Nat) (pa : Nat) (bs : List Byte) : (s.gWrite slot pa bs).clus = s.clus :=
  (s.gWrite_same slot pa bs).clus

@[simp] theorem State.gWrite_power (s : State) (slot : Option Nat) (pa : Nat) (bs : List Byte) : (s.gWrite slot pa bs).power = s.power :=
  (s.gWrite_same slot pa bs).power

@[simp] theorem State.ringPut_clus (s : State) (hdr : Nat) (r : List Byte) : (s.ringPut hdr r).clus = s.clus := by
  simp [State.ringPut]

@[simp] theorem State.ringPut_power (s : State) (hdr : Nat) (r : List Byte) : (s.ringPut hdr r).power = s.power := by
  simp [State.ringPut]

@[simp] theorem State.event_clus (s : State) (value status args : Nat) : (s.event value status args).clus = s.clus := by
  unfold State.event
  dsimp only
  split
  · dsimp only
    rw [State.ringPut_clus]
  · rfl

/-- An event changes the sequence number and the count of the events dropped, not the power cap. -/
@[simp] theorem State.event_cap (s : State) (value status args : Nat) : (s.event value status args).power.cap = s.power.cap := by
  unfold State.event
  dsimp only
  split
  · dsimp only
    rw [State.ringPut_power]
  · rfl

end Sys2Proof.Machine
end

section
/-!
PROOFS. Reset, power loss and boot: what a core retains, what the machine retains, and the outcome of the signature checks (R147, R413,
R414).
-/
namespace Sys2Proof.Machine

/-- A change to every entry of a table is a change to what is found. -/
theorem tfind_map {α β : Type} (f : α → β) (k : Nat) : ∀ t : Table α, tfind (t.map fun x => (x.1, f x.2)) k = (tfind t k).map f
  | [] => rfl
  | (j, v) :: t => by
    rw [List.map_cons, tfind_cons, tfind_cons, tfind_map f k t]
    split
    · rfl
    · split <;> rfl

/-- A core after reset: what it retained, or at rest where nothing was listed. -/
theorem State.core_afterReset (s : State) (age : Int) (c : Nat) :
    (s.afterReset age).core c = ((tfind s.cores c).map (·.retained age)).getD Core.empty :=
  congrArg (·.getD Core.empty) (tfind_map (·.retained age) c s.cores)

theorem State.kept_afterReset (s : State) (age : Int) : Kept s (s.afterReset age) age where
  cleared := rfl
  cores c := by
    rw [s.core_afterReset]
    cases h : tfind s.cores c with
    | none => simp [State.core, tgetD, h, Core.empty]
    | some k => simp [State.core, tgetD, h, Core.retained, Core.empty]
  errors := rfl

/-- What becomes of memory does not touch what a reset keeps and clears elsewhere. -/
theorem Kept.withMemory {s t : State} {age : Int} (h : Kept s t age) (mem : Memory) (gmeta : GMeta) :
    Kept s { t with mem, gmeta } age where
  cleared := by rw [h.cleared]
  cores := h.cores
  errors := h.errors

/-- Drawing bytes that nothing states uses up free values. -/
theorem State.freeBytes_frame : ∀ (n : Nat) (s : State), (s.freeBytes n).2 = { s with fresh := (s.freeBytes n).2.fresh }
  | 0, _ => rfl
  | n + 1, s => State.freeBytes_frame n s.freeWord.2

/-- The stage of boot that the checks of an image lead to (R414). -/
def bootStage (b : BootImage) : BootStage :=
  if b.firstOk = true then (if b.firmOk = true then .loaded else .failed 2) else .failed 1

/-- Reset release goes by the two checks; a key for the save pool is drawn when both pass. -/
theorem execResetRelease_held (b : BootImage) {s : State} (h : s.boot.stage = .held) :
    execResetRelease b s = .next { s with
      clock := State.reset.clock, fresh := (s.freeBytes 64).2.fresh
      boot := { s.boot with
        stage := bootStage b, mboot := b.firstHash, mfirm := if b.firstOk = true then b.firmHash else 0
        poolKey := if bootStage b = .loaded then some (BitVec.ofNat 512 (ofBytes (s.freeBytes 64).1)) else none } } := by
  have hstage : (if !b.firstOk then .failed 1 else if !b.firmOk then .failed 2 else .loaded : BootStage) = bootStage b := by
    unfold bootStage
    cases b.firstOk <;> cases b.firmOk <;> rfl
  unfold execResetRelease
  rw [if_neg (not_not_intro h), hstage]
  dsimp only
  rw [State.freeBytes_frame 64 s]
  rfl

theorem bootRules_hold : bootRules := by
  refine ⟨fun s => ⟨_, rfl, s.kept_afterReset _, rfl, rfl⟩,
    fun s => ⟨_, rfl, (s.kept_afterReset _).withMemory _ _, rfl, rfl, rfl, rfl, rfl⟩,
    fun s b => ⟨fun h => if_pos h, fun h => ⟨_, execResetRelease_held b h, rfl, ?_⟩⟩⟩
  dsimp only
  split <;> simp [*]

end Sys2Proof.Machine
end

section
/-!
PROOFS. TIME and its discipline, the ticks of CLK, the patterns and the power cap, and the marker block (R10, R11, R330, R368, R419, R421,
R422).
-/
namespace Sys2Proof.Machine

/-! CLK (R11) -/

/-- `t` differs from `s` at most in warps that joined the lists of what has arrived at cores. -/
def OnlyArrivals (s t : State) : Prop :=
  t = { s with cores := t.cores } ∧
  ∀ core, ∃ l, t.core core = { s.core core with sched := { (s.core core).sched with arrived := (s.core core).sched.arrived ++ l } }

theorem OnlyArrivals.refl (s : State) : OnlyArrivals s s := ⟨rfl, fun _ => ⟨[], by rw [List.append_nil]⟩⟩

theorem OnlyArrivals.trans {s t u : State} (h : OnlyArrivals s t) (h' : OnlyArrivals t u) : OnlyArrivals s u := by
  obtain ⟨ht, hl⟩ := h
  obtain ⟨hu, hm⟩ := h'
  refine ⟨by rw [ht] at hu; exact hu, fun core => ?_⟩
  obtain ⟨l, hl⟩ := hl core
  obtain ⟨m, hm⟩ := hm core
  exact ⟨l ++ m, by rw [hm, hl, ← List.append_assoc]⟩

/-- Warps that arrive at one core. -/
theorem State.modCore_arrived (s : State) (c : Nat) (l : List WarpRef) :
    OnlyArrivals s (s.modCore c fun k => { k with sched := { k.sched with arrived := k.sched.arrived ++ l } }) := by
  refine ⟨rfl, fun core => ?_⟩
  by_cases h : core = c
  · exact ⟨l, by rw [h, State.core_modCore]⟩
  · exact ⟨[], by rw [State.core_modCore_ne s _ h, List.append_nil]⟩

theorem State.noteArrivals_only (s : State) : OnlyArrivals s s.noteArrivals := by
  unfold State.noteArrivals
  refine List.foldlRecOn _ _ (OnlyArrivals.refl s) fun t ht k _ => ht.trans ?_
  split
  · exact .refl t
  · exact t.modCore_arrived ..

theorem runAct_tick_held {s : State} (h : s.boot.stage = .held) : runAct .tick s = .next s := congrArg _ (if_pos h)

theorem runAct_tick {s : State} (h : s.boot.stage ≠ .held) :
    runAct .tick s = .next ({ s with clock := { s.clock with clk := (s.clock.clk + 1) % 2 ^ 64 } } : State).noteArrivals := congrArg _ (if_neg h)

/-! TIME (R10, R11, R419) -/

theorem State.time_of_range (s : State) (h0 : 0 ≤ (s.clock.clk : Int) - s.clock.k) (h1 : ((s.clock.clk : Int) - s.clock.k) / 3 < 2 ^ 64) :
    (s.time : Int) = ((s.clock.clk : Int) - s.clock.k) / 3 := by
  unfold State.time
  omega

/-- Stepping TIME to the grandmaster's sets it to that. -/
theorem State.time_of_step {s : State} {grand : DWord} (h : s.clock.k = s.clock.clk - 3 * grand.toNat) : s.time = grand.toNat := by
  have := grand.isLt
  unfold State.time
  omega

theorem State.linkUp_iff (s : State) : s.linkUp = true ↔ linked s := by
  simp [State.linkUp, linked, Option.isSome_iff_ne_none]

theorem State.syncLost_iff (s : State) : s.syncLost = true ↔ s.clock.locked = true ∧ s.clock.lastSync + 1000000000 ≤ s.time := by
  simp [State.syncLost]

/-- SIZE of a ring is a power of two of at most 2^16 (R358). -/
theorem isPow2To_iff (n : Nat) : isPow2To n 65536 = true ↔ ∃ k ≤ 16, n = 2 ^ k := by
  have hpow : n ≠ 0 → (n &&& n - 1 = 0 ↔ ∃ k, n = 2 ^ k) := Nat.and_sub_one_eq_zero_iff_isPowerOfTwo
  simp only [isPow2To, Bool.and_eq_true, decide_eq_true_eq]
  constructor
  · rintro ⟨⟨h0, hle⟩, hand⟩
    obtain ⟨k, rfl⟩ := (hpow h0).1 hand
    exact ⟨k, (Nat.pow_le_pow_iff_right (by decide : 1 < 2)).1 hle, rfl⟩
  · rintro ⟨k, hk, rfl⟩
    have h0 : 2 ^ k ≠ 0 := by positivity
    exact ⟨⟨h0, Nat.pow_le_pow_right (by decide) hk⟩, (hpow h0).2 ⟨k, rfl⟩⟩

/-- The module control queue as its header describes it. -/
def State.moduleRing (s : State) : Ring :=
  { size := s.ringSize Config.moduleQueue, head := s.ringHead Config.moduleQueue, seen := s.ringTail Config.moduleQueue }

theorem State.enableModule_lawful {s : State} (h : ∃ k ≤ 16, s.ringSize Config.moduleQueue = 2 ^ k) :
    s.enableModule = { s with jobs := { s.jobs with ring := tput s.jobs.ring 72 s.moduleRing } } :=
  if_pos ((isPow2To_iff _).2 h)

theorem State.enableModule_ring {s : State} (h : ∃ k ≤ 16, s.ringSize Config.moduleQueue = 2 ^ k) :
    tfind s.enableModule.jobs.ring 72 = some s.moduleRing := by
  rw [State.enableModule_lawful h]
  exact tfind_tput ..

theorem State.enableModule_unlawful {s : State} (h : ¬∃ k ≤ 16, s.ringSize Config.moduleQueue = 2 ^ k) : s.enableModule = s :=
  if_neg (mt (isPow2To_iff _).1 h)

/-- Enabling the module control queue lists a ring, and changes nothing else. -/
theorem State.enableModule_frame (s : State) : s.enableModule = { s with jobs := { s.jobs with ring := s.enableModule.jobs.ring } } := by
  by_cases h : ∃ k ≤ 16, s.ringSize Config.moduleQueue = 2 ^ k
  · rw [State.enableModule_lawful h]
  · rw [State.enableModule_unlawful h]

@[simp] theorem State.enableModule_clock (s : State) : s.enableModule.clock = s.clock := by
  rw [s.enableModule_frame]

/-- The clock that a sync finds: a lock that it has outlasted is lost, and the count of good intervals with it (R419). -/
def heldClock (s : State) : Clock := if s.syncLost then { s.clock with locked := false, good := 0 } else s.clock

/-- The sync intervals within 50 ns, the one just ended included (R419). -/
def goodSyncs (s : State) (off : Int) : Nat := if -50 ≤ off && off ≤ 50 then (heldClock s).good + 1 else 0

theorem goodSyncs_eq (s : State) (off : Int) : goodSyncs s off =
    if |off| ≤ 50 then (if s.clock.locked = true ∧ s.clock.lastSync + 1000000000 ≤ s.time then 0 else s.clock.good) + 1 else 0 := by
  have hoff : (decide (-50 ≤ off) && decide (off ≤ 50)) = true ↔ |off| ≤ 50 := by simp [abs_le]
  simp only [goodSyncs, hoff, heldClock, ← State.syncLost_iff]
  cases s.syncLost <;> rfl

theorem heldClock_unlocked {s : State} (h : s.clock.locked = false) : heldClock s = s.clock :=
  if_neg (by simp [State.syncLost, h])

/-- A lock that the sync finds lost leaves one good interval at most. -/
theorem goodSyncs_le_of_syncLost {s : State} (off : Int) (h : s.syncLost = true) : goodSyncs s off ≤ 1 := by
  unfold goodSyncs heldClock
  rw [if_pos h]
  dsimp only
  split <;> omega

/-- The machine as the single step of TIME leaves it, before the module control queue is enabled (R10, R414). -/
def State.steppedTo (s : State) (good : Nat) (grand : DWord) : State :=
  { s with
    clock := { s.clock with
      good, locked := true, stepped := true, k := s.clock.clk - 3 * grand.toNat, lastSync := grand.toNat, dumped := grand.toNat / 1000000 }
    boot := { s.boot with stage := .running } }

theorem execPtpSyncMessage_unlinked {s : State} (off : Int) (grand : DWord) (hl : ¬linked s) : execPtpSyncMessage off grand s = .next s :=
  if_pos (by simpa using mt (State.linkUp_iff s).1 hl)

/-- What a sync does, by the clock that it finds and the good intervals. -/
theorem execPtpSyncMessage_linked {s : State} (off : Int) (grand : DWord) (hl : linked s) : execPtpSyncMessage off grand s =
    let k := heldClock s
    let good := goodSyncs s off
    if k.locked then .next { s with clock := { k with good, lastSync := s.time } }
    else if good < 16 then .next { s with clock := { k with good, lastSync := s.time } }
    else if k.stepped then .next { s with clock := { k with good, locked := true, lastSync := s.time } }
    else .next (State.steppedTo { s with clock := k } good grand).enableModule :=
  if_neg (by simpa using (State.linkUp_iff s).2 hl)

/-- The clock that a sync finds, with its new count, is the clock unlocked if the lock was lost. -/
theorem heldClock_synced (s : State) (good : Nat) : { heldClock s with good, lastSync := s.time } =
    { s.clock with good, lastSync := s.time, locked := s.clock.locked && !decide (s.clock.lastSync + 1000000000 ≤ s.time) } := by
  unfold heldClock
  split
  next h =>
    obtain ⟨hlocked, hlate⟩ := s.syncLost_iff.1 h
    simp [hlocked, hlate]
  next h =>
    have hkeep : (s.clock.locked && !decide (s.clock.lastSync + 1000000000 ≤ s.time)) = s.clock.locked := by
      cases hlocked : s.clock.locked with
      | false => rfl
      | true => simpa [s.syncLost_iff, hlocked] using h
    rw [hkeep]

/-- A clock that was locked is still, or its lock was lost and the count starts again. -/
theorem heldClock_locked_or (s : State) (off : Int) (h : s.clock.locked = true) : (heldClock s).locked = true ∨ goodSyncs s off < 16 := by
  by_cases hs : s.syncLost = true
  · exact .inr (Nat.lt_of_le_of_lt (goodSyncs_le_of_syncLost off hs) (by decide))
  · exact .inl (by rw [heldClock, if_neg hs, h])

/-- A sync while TIME is locked, or after too few good intervals, is counted. -/
theorem execPtpSyncMessage_counts {s : State} {off : Int} (grand : DWord) (hl : linked s) (h : s.clock.locked = true ∨ goodSyncs s off < 16) :
    execPtpSyncMessage off grand s = .next { s with clock := { s.clock with
      good := goodSyncs s off, lastSync := s.time, locked := s.clock.locked && !decide (s.clock.lastSync + 1000000000 ≤ s.time) } } := by
  have h' : (heldClock s).locked = true ∨ goodSyncs s off < 16 := h.elim (heldClock_locked_or s off) .inr
  rw [execPtpSyncMessage_linked off grand hl]
  dsimp only
  rw [heldClock_synced]
  by_cases hlocked : (heldClock s).locked = true
  · rw [if_pos hlocked]
  · rw [if_neg hlocked, if_pos (h'.resolve_left hlocked)]

/-- Enough good intervals lock TIME again once it has been stepped. -/
theorem execPtpSyncMessage_relocks {s : State} {off : Int} (grand : DWord) (hl : linked s) (h : s.clock.locked = false) (hg : 16 ≤ goodSyncs s off)
    (hs : s.clock.stepped = true) :
    execPtpSyncMessage off grand s = .next { s with clock := { s.clock with good := goodSyncs s off, locked := true, lastSync := s.time } } := by
  rw [execPtpSyncMessage_linked off grand hl, heldClock_unlocked h]
  simp [h, Nat.not_lt.2 hg, hs]

/-- The first time, enough good intervals step TIME and enable the module control queue. -/
theorem execPtpSyncMessage_steps {s : State} {off : Int} (grand : DWord) (hl : linked s) (h : s.clock.locked = false) (hg : 16 ≤ goodSyncs s off)
    (hs : s.clock.stepped = false) : execPtpSyncMessage off grand s =
      .next (s.steppedTo (goodSyncs s off) grand).enableModule := by
  rw [execPtpSyncMessage_linked off grand hl, heldClock_unlocked h]
  simp [h, Nat.not_lt.2 hg, hs]

/-- The first lock: TIME is the grandmaster's, and the module control queue is enabled if its SIZE is lawful (R10, R414). -/
theorem State.enableModule_steppedTo (s : State) (good : Nat) (grand : DWord) : let t := (s.steppedTo good grand).enableModule
    t = { s with clock := t.clock, boot := { s.boot with stage := .running }, jobs := { s.jobs with ring := t.jobs.ring } } ∧
    t.clock = (s.steppedTo good grand).clock ∧ t.time = grand.toNat ∧
    ((∃ k ≤ 16, s.ringSize Config.moduleQueue = 2 ^ k) → tfind t.jobs.ring 72 = some s.moduleRing) ∧
    ((¬∃ k ≤ 16, s.ringSize Config.moduleQueue = 2 ^ k) → t.jobs.ring = s.jobs.ring) := by
  intro t
  have hclock : t.clock = (s.steppedTo good grand).clock := State.enableModule_clock _
  refine ⟨?_, hclock, State.time_of_step (by rw [hclock]; rfl), State.enableModule_ring (s := s.steppedTo good grand), fun hq => ?_⟩
  · rw [hclock]
    exact State.enableModule_frame _
  · exact congrArg (·.jobs.ring) (State.enableModule_unlawful (s := s.steppedTo good grand) hq)

/-- 1 s without sync costs a lock (R419). -/
theorem execSyncHoldoverTimeout_eq (s : State) : execSyncHoldoverTimeout s =
    if s.clock.locked = true ∧ s.clock.lastSync + 1000000000 ≤ s.time then .next { s with clock := { s.clock with locked := false, good := 0 } }
    else .next s := by
  simp only [execSyncHoldoverTimeout, s.syncLost_iff]

/-! Patterns and the cap (R330, R368, R421) -/

/-- The state in which the cap follows the request and the idle floor, before anything is reported (R368). -/
def State.capped (s : State) (idle : Nat) : State := { s with power := { s.power with idle, cap := min 2000000 (max s.power.req idle) } }

theorem State.applyCap_eq (s : State) (idle : Nat) : s.applyCap idle =
    if s.power.idle ≤ s.power.req ∧ s.power.req < idle then (s.capped idle).event 0x11 2 (min 2000000 (max s.power.req idle)) else s.capped idle := by
  simp only [State.applyCap, Bool.and_eq_true, decide_eq_true_eq]
  rfl

@[simp] theorem State.applyCap_clus (s : State) (idle : Nat) : (s.applyCap idle).clus = s.clus := by
  rw [s.applyCap_eq]
  split
  · exact State.event_clus ..
  · rfl

theorem State.applyCap_cap (s : State) (idle : Nat) : (s.applyCap idle).power.cap = min 2000000 (max s.power.req idle) := by
  rw [s.applyCap_eq]
  split
  · exact State.event_cap ..
  · rfl

theorem nextPulses_eq (d flux power budget : Nat) : nextPulses d flux power budget =
    if 200 < flux ∨ 9 * budget < 10 * power then max 1 (d - 1) else if flux < 190 ∧ 10 * power < 8 * budget then min 16 (d + 1) else d := by
  simp [nextPulses]

/-- A change to a cluster unit depends on what it makes of that unit as it stands. -/
theorem State.modClu_congr {s : State} {c : Nat} {f g : Cluster → Cluster} (h : f (s.cluster c) = g (s.cluster c)) : s.modClu c f = s.modClu c g := by
  unfold State.modClu
  rw [h]

/-- A pattern boundary sets the delivered count by the cluster's record and flux, and starts a new record (R421). -/
theorem execPatternBoundary_eq (clu flux idle : Nat) (s : State) : execPatternBoundary clu flux idle s =
    .next ((s.applyCap idle).modClu clu fun k => { k with
      d := nextPulses (s.cluster clu).d flux (Config.recordPower (s.cluster clu).power) ((s.applyCap idle).budget clu)
      record := k.power, power := 0, flux }) := by
  have hk : (s.applyCap idle).cluster clu = s.cluster clu := by rw [State.cluster, s.applyCap_clus, State.cluster]
  exact congrArg _ (State.modClu_congr (by rw [hk]))

/-- The budget of a cluster of a partition (R367, R420). -/
theorem State.budget_of_part {s : State} {clu : Nat} {p : Nat × Partition} (h : s.parts.find? (fun x => x.2.clmask.getLsbD clu) = some p) :
    s.budget clu = max (Config.budgetShare clu (s.partPower p.2.floor)) p.2.floor := by
  simp only [State.budget, h]

theorem State.partPower_of_floors {s : State} (floor : Nat) (h : (s.parts.map (·.2.floor)).sum ≠ 0) : s.partPower floor =
    floor + (s.power.cap - s.power.idle - (s.parts.map (·.2.floor)).sum) * floor / (s.parts.map (·.2.floor)).sum :=
  if_neg h

/-! The marker block (R422) -/

theorem length_toBytes (n v : Nat) : (toBytes n v).length = n := by
  induction n generalizing v with
  | zero => rfl
  | succ n ih => rw [toBytes, List.length_cons, ih]

theorem length_flatMap_range {β : Type} {f : Nat → List β} {m : Nat} (hf : ∀ i, (f i).length = m) (n : Nat) :
    ((List.range n).flatMap f).length = n * m := by
  simp [List.length_flatMap, hf]

/-- Of blocks of one length, the one at its place. -/
theorem take_drop_flatMap {α β : Type} {f : α → List β} {m : Nat} (hf : ∀ a, (f a).length = m) :
    ∀ (l : List α) (i : Nat) (h : i < l.length), ((l.flatMap f).drop (m * i)).take m = f l[i]
  | a :: l, 0, _ => by
    rw [List.flatMap_cons, Nat.mul_zero, List.drop_zero, ← hf a, List.take_left]
    rfl
  | a :: l, i + 1, h => by
    have hdrop : m * (i + 1) = (f a).length + m * i := by rw [hf]; ring
    rw [List.flatMap_cons, hdrop, List.drop_length_add_append, take_drop_flatMap hf l i (Nat.lt_of_succ_lt_succ h)]
    rfl

/-- The bytes of the marker counters, cluster by cluster. -/
def State.markerBytes (s : State) : List Byte :=
  (List.range 48).flatMap fun c => (List.range 8).flatMap fun k => toBytes 8 (tgetD 0 (s.cluster c).marks k).toNat

theorem execMarkerCounterDump_due {s : State} (h : s.time / 1000000 ≠ s.clock.dumped) : execMarkerCounterDump s =
    .next ({ s with clock := { s.clock with dumped := s.time / 1000000 } }.gWrite none Config.markerBlock s.markerBytes) :=
  if_neg h

/-- The counters of a cluster take 64 bytes. -/
theorem length_clusterMarks (s : State) (c : Nat) :
    ((List.range 8).flatMap fun k => toBytes 8 (tgetD 0 (s.cluster c).marks k).toNat).length = 64 :=
  length_flatMap_range (fun _ => length_toBytes 8 _) 8

theorem State.length_markerBytes (s : State) : s.markerBytes.length = 3072 := length_flatMap_range (length_clusterMarks s) 48

/-- Counter `k` of cluster `c` stands in the block at `64 c + 8 k`. -/
theorem State.markerBytes_counter (s : State) {c k : Nat} (hc : c < 48) (hk : k < 8) :
    (s.markerBytes.drop (64 * c + 8 * k)).take 8 = toBytes 8 (tgetD 0 (s.cluster c).marks k).toNat := by
  have hcluster := take_drop_flatMap (length_clusterMarks s) (List.range 48) c (by simpa using hc)
  have hcounter := take_drop_flatMap (fun k => length_toBytes 8 (tgetD 0 (s.cluster c).marks k).toNat) (List.range 8) k (by simpa using hk)
  rw [List.getElem_range] at hcluster hcounter
  have hmin : min 8 (64 - 8 * k) = 8 := by omega
  calc (s.markerBytes.drop (64 * c + 8 * k)).take 8
      = (((s.markerBytes.drop (64 * c)).take 64).drop (8 * k)).take 8 := by
        rw [List.drop_take, List.take_take, List.drop_drop, hmin]
    _ = _ := by rw [State.markerBytes, hcluster, hcounter]

theorem clockPowerRules_hold : clockPowerRules := by
  refine ⟨fun s => ⟨runAct_tick_held, fun h => ⟨_, runAct_tick h, State.noteArrivals_only _⟩⟩,
    fun s _ => s.time_of_range, fun s off grand => ⟨execPtpSyncMessage_unlinked off grand, fun hl => ?_⟩,
    fun s => ⟨fun h ht => ?_, fun h => ?_⟩, fun s clu flux idle => ?_,
    fun s => ⟨fun h => if_pos h, fun h => ⟨_, execMarkerCounterDump_due h, s.length_markerBytes, fun _ hc _ hk => s.markerBytes_counter hc hk⟩⟩⟩
  · dsimp only
    rw [← goodSyncs_eq]
    refine ⟨execPtpSyncMessage_counts grand hl, execPtpSyncMessage_relocks grand hl,
      fun h hg hs => ⟨_, execPtpSyncMessage_steps grand hl h hg hs, ?_⟩⟩
    obtain ⟨hframe, hclock, htime, hring⟩ := s.enableModule_steppedTo (goodSyncs s off) grand
    refine ⟨hframe, ?_⟩
    rw [hclock]
    exact ⟨rfl, rfl, rfl, rfl, htime, rfl, hring⟩
  · rw [exec_syncHoldoverTimeout, execSyncHoldoverTimeout_eq, if_pos ⟨h, ht⟩]
  · rw [exec_syncHoldoverTimeout, execSyncHoldoverTimeout_eq, if_neg]
    rintro ⟨hlocked, hlate⟩
    exact h.elim (fun h => Bool.false_ne_true (h.symm.trans hlocked)) (Nat.not_lt.2 hlate)
  · intro cap s0 s1 k record budget d
    have hs1 : s.applyCap idle = s1 := s.applyCap_eq idle
    have hd : nextPulses k.d flux record budget = d := nextPulses_eq ..
    refine ⟨?_, ?_, fun p hp => ?_⟩
    · rw [exec_patternBoundary, execPatternBoundary_eq, hs1, hd]
    · rw [← hs1, State.applyCap_cap]
      exact Nat.min_le_left ..
    · have hbudget : budget = _ := State.budget_of_part hp
      rw [hbudget]
      exact ⟨Nat.le_max_right .., fun hsum => by rw [State.partPower_of_floors _ hsum]⟩

end Sys2Proof.Machine
end

section
/-!
PROOFS. Master cycles, the pattern boundaries before every sixteenth, and the pulses that clusters take from them (R418).
-/
namespace Sys2Proof.Machine

/-! Master cycles -/

/-- What the sensors estimate for one more cluster is drawn, and its pattern boundary joins the list. -/
def boundaryStep (acc : List Act × State) (clu : Nat) : List Act × State :=
  (acc.1 ++ [.row (.patternBoundary clu acc.2.freeWord.1.toNat acc.2.freeWord.2.freeWord.1.toNat)], acc.2.freeWord.2.freeWord.2)

/-- The boundary of the cluster `c` of a die, by the two values drawn for it. -/
def boundaryOf (s : State) (die c : Nat) : Act :=
  .row (.patternBoundary (24 * die + c) (Config.freeWord (s.fresh + 2 * c)).toNat (Config.freeWord (s.fresh + 2 * c + 1)).toNat)

theorem foldl_boundaryStep (s : State) (die n : Nat) : ((List.range n).map (· + 24 * die)).foldl boundaryStep ([], s) =
    ((List.range n).map (boundaryOf s die), { s with fresh := s.fresh + 2 * n }) := by
  induction n with
  | zero => rfl
  | succ n ih =>
    rw [List.range_succ, List.map_append, List.foldl_append, ih, List.map_append, List.map_singleton, List.map_singleton, List.foldl_cons,
      List.foldl_nil, boundaryStep, boundaryOf, Nat.add_comm n]
    rfl

/-- A master cycle that no pattern ends before: the pulse of its slot. -/
theorem State.masterCycle_within {s : State} {die : Nat} (h : s.boot.stage ≠ .held)
    (hn : tgetD 0 s.clock.masters die = 0 ∨ tgetD 0 s.clock.masters die % 16 ≠ 0) : s.masterCycle die =
      { s with clock := { s.clock with masters := tput s.clock.masters die (tgetD 0 s.clock.masters die + 1) }
               agenda := s.agenda ++ [.pulse die (tgetD 0 s.clock.masters die % 16)] } := by
  unfold State.masterCycle
  rw [if_neg h]
  dsimp only
  rw [if_pos (by simpa [or_comm] using hn)]
  dsimp only
  rw [List.append_nil]

/-- A master cycle after sixteen others: the boundaries of its die's clusters, then the pulse of slot 0. -/
theorem State.masterCycle_boundary {s : State} {die : Nat} (h : s.boot.stage ≠ .held) (h0 : tgetD 0 s.clock.masters die ≠ 0)
    (hn : tgetD 0 s.clock.masters die % 16 = 0) : s.masterCycle die =
      { s with clock := { s.clock with masters := tput s.clock.masters die (tgetD 0 s.clock.masters die + 1) }, fresh := s.fresh + 2 * 24
               agenda := s.agenda ++ (List.range 24).map (boundaryOf s die) ++ [.pulse die 0] } := by
  unfold State.masterCycle
  rw [if_neg h]
  dsimp only
  rw [if_neg (by simp [h0, hn]), hn]
  change (let b := (dieClusters die).foldl boundaryStep ([], s)
    { b.2 with clock := { b.2.clock with masters := tput b.2.clock.masters die (tgetD 0 s.clock.masters die + 1) },
               agenda := b.2.agenda ++ b.1 ++ [Act.pulse die 0] }) = _
  rw [dieClusters, foldl_boundaryStep]

/-! Pulses -/

/-- The cores of a die that slot `slot` gives a lane cycle: those with warps, of the clusters whose pattern delivers it. -/
def pulsedCores (s : State) (die slot : Nat) : List Nat :=
  ((dieClusters die).filter fun c => delivers (s.cluster c).d slot).flatMap fun c =>
    ((List.range 8).map (· + 8 * c)).filter fun k => !(s.coreWarps k).isEmpty

theorem runAct_pulse (s : State) (die slot : Nat) : runAct (.pulse die slot) s =
    .next { s with agenda := s.agenda ++ (pulsedCores s die slot).map fun k => .row (.laneCycleSchedule k) } := rfl

/-- The units that a larger unit of `n` numbers (R13). -/
theorem mem_map_add_range {n d c : Nat} (hn : 0 < n) : c ∈ (List.range n).map (· + n * d) ↔ c / n = d := by
  simp only [List.mem_map, List.mem_range]
  constructor
  · rintro ⟨i, hi, rfl⟩
    rw [Nat.add_mul_div_left i d hn, Nat.div_eq_of_lt hi, Nat.zero_add]
  · rintro rfl
    exact ⟨c % n, Nat.mod_lt _ hn, Nat.mod_add_div c n⟩

theorem mem_dieClusters {die c : Nat} : c ∈ dieClusters die ↔ c / 24 = die := mem_map_add_range (by decide)

theorem mem_clusterCores {c core : Nat} : core ∈ (List.range 8).map (· + 8 * c) ↔ core / 8 = c := mem_map_add_range (by decide)

theorem mem_pulsedCores {s : State} {die slot core : Nat} : core ∈ pulsedCores s die slot ↔ core / 192 = die ∧ s.coreWarps core ≠ [] ∧
    slot * (s.cluster (core / 8)).d / 16 < (slot + 1) * (s.cluster (core / 8)).d / 16 := by
  have hdie : core / 8 / 24 = core / 192 := by omega
  simp only [pulsedCores, List.mem_flatMap, List.mem_filter, mem_dieClusters, mem_clusterCores, delivers, decide_eq_true_eq, Bool.not_eq_true',
    List.isEmpty_eq_false_iff]
  constructor
  · rintro ⟨c, ⟨hc, hd⟩, rfl, hw⟩
    exact ⟨hdie ▸ hc, hw, hd⟩
  · rintro ⟨hc, hw, hd⟩
    exact ⟨core / 8, ⟨hdie.trans hc, hd⟩, rfl, hw⟩

theorem nodup_map_add_range (n k : Nat) : ((List.range n).map (· + k)).Nodup :=
  List.nodup_range.map (add_left_injective k)

/-- A core belongs to one cluster, and runs one lane cycle in a slot. -/
theorem nodup_pulsedCores (s : State) (die slot : Nat) : (pulsedCores s die slot).Nodup := by
  refine List.nodup_flatMap.2 ⟨fun c _ => (nodup_map_add_range 8 _).filter _, ?_⟩
  refine ((nodup_map_add_range 24 (24 * die)).filter _).imp fun {c c'} hne core h h' => hne ?_
  exact (mem_clusterCores.1 (List.mem_of_mem_filter h)).symm.trans (mem_clusterCores.1 (List.mem_of_mem_filter h'))

/-- A count that starts at 0 and rises by at most 1 rises as often as it says. -/
theorem length_filter_rises {f : Nat → Nat} (h0 : f 0 = 0) (hf : ∀ n, f n ≤ f (n + 1) ∧ f (n + 1) ≤ f n + 1) (n : Nat) :
    ((List.range n).filter fun i => f i < f (i + 1)).length = f n := by
  induction n with
  | zero => exact h0.symm
  | succ n ih =>
    obtain ⟨hle, hrise⟩ := hf n
    rw [List.range_succ, List.filter_append, List.length_append, ih]
    by_cases h : f n < f (n + 1)
    · rw [List.filter_cons_of_pos (by simpa using h), List.filter_nil, List.length_singleton]
      omega
    · rw [List.filter_cons_of_neg (by simpa using h), List.filter_nil, List.length_nil]
      omega

/-- Of the sixteen slots of a pattern, `d` are delivered. -/
theorem length_delivered {d : Nat} (hd : d ≤ 16) : ((List.range 16).filter fun n => n * d / 16 < (n + 1) * d / 16).length = d := by
  have hrises := length_filter_rises (f := fun n => n * d / 16) (by simp) (fun n => by rw [Nat.add_mul]; omega) 16
  rw [hrises]
  exact Nat.mul_div_cancel_left d (by decide)

theorem pulseRules_hold : pulseRules := by
  refine ⟨fun s die => ⟨fun h => congrArg _ (if_pos h), fun h => ⟨_, rfl, ?_⟩⟩,
    fun s die slot _ => ⟨_, runAct_pulse s die slot, nodup_pulsedCores s die slot, fun _ => mem_pulsedCores⟩,
    fun _ _ => length_delivered⟩
  by_cases hn : tgetD 0 s.clock.masters die = 0 ∨ tgetD 0 s.clock.masters die % 16 ≠ 0
  · rw [State.masterCycle_within h hn]
    exact ⟨rfl, fun _ => ⟨rfl, rfl⟩, fun h0 h16 => absurd hn (not_or.2 ⟨h0, not_not_intro h16⟩)⟩
  · obtain ⟨h0, h16⟩ := not_or.1 hn
    rw [State.masterCycle_boundary h h0 (not_not.1 h16)]
    exact ⟨rfl, fun h => absurd h hn, fun _ _ => ⟨_, _, rfl⟩⟩

/-- Settles O55: what a reset keeps and clears, the clocks and the cap by the clauses of their steps, the pulses by counting the slots that
a pattern delivers. -/
theorem deviceSteps : Obligations.DeviceSteps := ⟨bootRules_hold, clockPowerRules_hold, pulseRules_hold⟩

end Sys2Proof.Machine
end
